-- ==== Sys2Proof/Word.lean ====
section
/-! DEFINITION. The word types of the X8 (R14, R109, R158), finite maps as association lists, and the byte-addressed
memory list in its canonical form. Only what every other file needs, at its plainest. -/

namespace Sys2Proof

abbrev Byte := BitVec 8
/-- A general register, an instruction word, an address (R86, R109). -/
abbrev Word := BitVec 64
/-- A vector register, a 64-byte line, a tile image, a rule image (R158, R17, R308). -/
abbrev Line := BitVec 512

/-- A finite map as a list of pairs; the first pair of a key counts. -/
abbrev Map (K V : Type) := List (K × V)

namespace Map

/-- The value of a key, `d` where the map lists none. -/
def get {K V : Type} [DecidableEq K] (d : V) : Map K V → K → V
  | [], _ => d
  | (k', v) :: m, k => if k' = k then v else get d m k

def get? {K V : Type} [DecidableEq K] : Map K V → K → Option V
  | [], _ => none
  | (k', v) :: m, k => if k' = k then some v else get? m k

/-- Replace the key's pair where it stands, or add one at the end. -/
def set {K V : Type} [DecidableEq K] : Map K V → K → V → Map K V
  | [], k, v => [(k, v)]
  | (k', v') :: m, k, v => if k' = k then (k, v) :: m else (k', v') :: set m k v

def erase {K V : Type} [DecidableEq K] (m : Map K V) (k : K) : Map K V :=
  m.filter fun p => !decide (p.1 = k)

def vals {K V : Type} (m : Map K V) : List V := m.map Prod.snd

def keys {K V : Type} (m : Map K V) : List K := m.map Prod.fst

end Map

end Sys2Proof
end

