-- ==== Sys2Proof/Config.lean ====
section
/-! DEFINITION. What the manual leaves open. An `opaque` constant has no value any proof can see: a claim about it holds
for every value. Each is named in the assumption log. -/

namespace Sys2Proof.Config

/-- The address at which firmware starts (R412 names "the firmware entry" and gives no number). DESIGN CHOICE (log 8):
the lowest executable address (R118). -/
def firmwareEntry : Word := 0x10000

/-- Release number of the installed firmware: "The firmware shipped with the X8 is release 1" (R104). -/
def firmwareRelease : Nat := 1

/-- Extra cycles that the n-th step takes (log 6): no rule fixes the time between two steps. -/
opaque delay : Nat → Nat

/-- The latency field of the n-th reply (R278): its value is transit time (log 14). -/
opaque latency : Nat → BitVec 16

/-- How many of the changes of rule entries under way have not reached a sluice at its n-th decision: "no instant is common to
the sluices" (R25; log 105). -/
opaque ruleLag : Nat → Nat

/-- How much of an access that is not single-copy atomic the n-th turn performs, in its units of atomicity; 0 is all that is left
(R231; log 13). -/
opaque tear : Nat → Nat

/-- Whether what a read that races with a write finds, byte or atomic whole, is what stood before that write (R231, R234; log 13). -/
opaque stale : Nat → Bool

/-- Which of the entries that a walk reads meets an uncorrectable error (R223; log 24). -/
opaque walkError : Nat → Nat

/-- The 16-byte header of the n-th packet: R396 gives its size alone (log 35). -/
opaque packetHeader : Nat → BitVec 128

/-- Whether the compatibility table of the firmware image recognises a class-0xF word (R104; log 15). -/
opaque compatKnown : Word → Bool

/-- The generation number of the matching entry of the compatibility table (R104; log 15). -/
opaque compatGen : Word → BitVec 8

/-- General, vector and mask registers of a context. -/
abbrev CompatRegs := Map (BitVec 5) Word × Map (BitVec 5) (BitVec 512) × Map (BitVec 3) Word

/-- The memory that the routine reads for a word it recognises: addresses and lengths (R103; log 15). -/
opaque compatReads : Word → CompatRegs → List (Word × Nat)

/-- What the routine writes, in registers and at addresses of memory, from what it has read: "the results that earlier Xeine devices
give for it" (R103; log 15). -/
opaque compatResult : Word → CompatRegs → List (Option (List (BitVec 8))) → CompatRegs × List (Word × List (BitVec 8))

/-- The set of the second-level TLB that a page falls in, "a hash … that the X8 does not define" (R222; log 16). -/
opaque tlbSet : Nat → Nat → Nat

/-- The Belvedere set of a line, "a hash of the ASID and line address" (R295; log 16). -/
opaque belvSet : Nat → Nat

/-- The registers read `cmapval` before anything is written (reset "—", R416) and other values with no stated reset
(log 12): zero. -/
def unstatedReset : Word := 0

/-- Package power and temperature as `pwrstat` shows them at the n-th read (R421; log 17). -/
opaque power : Nat → BitVec 21

/-- The attestation report of an estate over its committed partition tables: measurements and a signature (R419; log 37). -/
opaque attestation : Nat → List (BitVec 1024) → List Word

end Sys2Proof.Config
end

