-- ==== Sys2Proof/Syntax.lean ====
section
/-! DEFINITION. The instructions: one constructor of `Instr` per row of the opcode table, in the table's order. An encoded
instruction carries the fields of its format (R88 to R100); a device step carries what names the agent and what comes from
outside. -/

namespace Sys2Proof

abbrev Reg := BitVec 5

/-- Element types (R87), in code order. -/
inductive ETy where
  | i8 | i16 | i32 | i64 | n8 | n16 | n32 | n64 | f64 | f32 | f16 | bf16 | f8 | f8w | p | c4
deriving DecidableEq, Repr

/-- Conditions (R95), in code order. -/
inductive Cond where
  | al | eq | ne | lt | ge | ltu | geu | gt | le | gtu | leu
deriving DecidableEq, Repr

/-- Scopes (R8), in code order. -/
inductive Scope where
  | thread | core | blk | fld | est | dom
deriving DecidableEq, Repr

/-- Orders (R93), in code order; format S has the first four (R100). -/
inductive Order where
  | plain | acq | rel | acqrel | rlx
deriving DecidableEq, Repr

/-- Branch hints (R95). -/
inductive Hint where
  | none | taken | notTaken
deriving DecidableEq, Repr

/-- Format A (R88): the minor field is split into rounding [17:15] and operation [14:8]; the operation is the
constructor's. -/
structure OpA where
  d : Reg := 0
  a : Reg := 0
  b : Reg := 0
  c : Reg := 0
  k : BitVec 3 := 0
  ty : ETy := .i64
  ma : BitVec 2 := 0
  mb : BitVec 2 := 0
  mc : BitVec 2 := 0
  clamp : Bool := false
  scale : BitVec 4 := 0
  rnd : BitVec 3 := 0
deriving DecidableEq, Repr

/-- Format I (R91). -/
structure OpI where
  d : Reg := 0
  a : Reg := 0
  ty : ETy := .i64
  imm : BitVec 32 := 0
deriving DecidableEq, Repr

/-- Format X (R92). -/
structure OpX where
  d : Reg := 0
  a : Reg := 0
  ty : ETy := .i64
  imm : Word := 0
deriving DecidableEq, Repr

/-- Format M (R93). The type field is kept as its four bits, because class 0x8 holds the kind there (R322). -/
structure OpM where
  data : Reg := 0
  base : Reg := 0
  index : Reg := 0
  order : Order := .plain
  scope : Scope := .thread
  stream : BitVec 3 := 0
  scale : BitVec 2 := 0
  shape : BitVec 2 := 0
  ty : BitVec 4 := 3
  off : BitVec 24 := 0
deriving DecidableEq, Repr

/-- Word 1 of format E (R96). -/
structure EW where
  wIdx : BitVec 8 := 0
  wThr : BitVec 8 := 0
  sIdx : BitVec 8 := 0
  sInc : BitVec 8 := 0
  fa : Bool := false
  fr : Bool := false
  fo : Bool := false
  scope : Scope := .thread
  cmd : BitVec 26 := 0
deriving DecidableEq, Repr

/-- Format E (R96), both words; minor and Link are the constructor's. -/
structure OpE where
  d : Reg := 0
  a : Reg := 0
  b : Reg := 0
  c : Reg := 0
  cmd : BitVec 25 := 0
  w : EW := {}
deriving DecidableEq, Repr

/-- Format S (R100). -/
structure OpS where
  d : Reg := 0
  a : Reg := 0
  idx : BitVec 8 := 0
  scope : Scope := .thread
  order : Order := .plain
  count : BitVec 16 := 0
deriving DecidableEq, Repr

/-- A core: a virtual core of a partition (R123), or a physical core in boot mode (R412). -/
inductive CoreId where
  | virt (pid num : Nat)
  | phys (estate die mesh : Nat)
deriving DecidableEq, Repr

/-- A virtual block of a partition (R7, R123). -/
structure BlockId where
  pid : Nat
  estate : Nat
  field : Nat
  vblock : Nat
deriving DecidableEq, Repr

/-- One direction of one optical link, seen from its estate: receive or transmit (R391). -/
structure LinkId where
  estate : Nat
  link : Nat
deriving DecidableEq, Repr

/-- A key that firmware loads, and its direction (R397). -/
structure LinkKey where
  rx : Bool
  bits : BitVec 256
deriving DecidableEq, Repr

/-- What a link finds when it trains (R400, R425). -/
structure TrainResult where
  link : Nat
  light : Bool
  farEstate : Nat
  farLink : Nat
  lanes : Nat
deriving DecidableEq, Repr

/-- How a resize changes a partition (R74): physical clusters and loose cores added or removed, new virtual blocks. -/
structure Resize where
  addClusters : List (Nat × Nat × Nat) := []
  delClusters : List (Nat × Nat × Nat) := []
  addBlocks : List (Nat × Nat × Nat) := []
  addLoose : List (Nat × Nat × Nat) := []
deriving DecidableEq, Repr

inductive Instr where
  -- class 0x0 (R111 to R115)
  | add (o : OpA) | sub (o : OpA) | mul (o : OpA) | mulh (o : OpA) | mulhu (o : OpA)
  | div (o : OpA) | divu (o : OpA) | rem (o : OpA) | remu (o : OpA)
  | and (o : OpA) | or (o : OpA) | xor (o : OpA) | andn (o : OpA)
  | shl (o : OpA) | shr (o : OpA) | sar (o : OpA) | rol (o : OpA)
  | min (o : OpA) | max (o : OpA) | minu (o : OpA) | maxu (o : OpA)
  | cset (cond : Cond) (o : OpA) | sel (o : OpA) | bext (o : OpA) | bins (o : OpA)
  | clz (o : OpA) | ctz (o : OpA) | popc (o : OpA) | brev (o : OpA)
  | addi (o : OpI) | subi (o : OpI) | muli (o : OpI) | andi (o : OpI) | ori (o : OpI) | xori (o : OpI)
  | shli (o : OpI) | shri (o : OpI) | sari (o : OpI) | cseti (cond : Cond) (o : OpI) | movi (o : OpI)
  | movl (o : OpX) | addl (o : OpX) | andl (o : OpX) | orl (o : OpX)
  -- class 0x1 (R116 to R121)
  | b (cond : Cond) (hint : Hint) (x y : Reg) (off : BitVec 40)
  | call (l : Reg) (hint : Hint) (off : BitVec 40)
  | jr (o : OpA) | callr (o : OpA) | hstart (o : OpA) | hstop (o : OpA) | fdone (o : OpA) | yield (o : OpA)
  -- class 0x2 (R164 to R170)
  | fadd (o : OpA) | fsub (o : OpA) | fmul (o : OpA) | fdiv (o : OpA) | fsqrt (o : OpA)
  | ffma (o : OpA) | ffms (o : OpA) | fmin (o : OpA) | fmax (o : OpA) | fcset (cond : Cond) (o : OpA)
  | fcvt (src : ETy) (o : OpA) | frcp (o : OpA) | frsq (o : OpA) | fexp2 (o : OpA) | flog2 (o : OpA)
  | fclass (o : OpA) | fround (o : OpA)
  -- class 0x3 (R171 to R176)
  | vadd (o : OpA) | vsub (o : OpA) | vmul (o : OpA) | vmulh (o : OpA) | vfma (o : OpA) | vfms (o : OpA)
  | vdiv (o : OpA) | vsqrt (o : OpA) | vmin (o : OpA) | vmax (o : OpA)
  | vand (o : OpA) | vor (o : OpA) | vxor (o : OpA) | vandn (o : OpA)
  | vshl (o : OpA) | vshr (o : OpA) | vsar (o : OpA) | vcmp (cond : Cond) (o : OpA) | vsel (o : OpA)
  | vcvt (part : BitVec 3) (src : ETy) (o : OpA)
  | vrcp (o : OpA) | vrsq (o : OpA) | vexp2 (o : OpA) | vlog2 (o : OpA) | vbcst (o : OpA) | vmovi (o : OpI)
  -- class 0x4 (R177 to R183)
  | vshuf (o : OpA) | vperm (m : BitVec 6) (o : OpA) | vslideDn (o : OpA) | vslideUp (o : OpA)
  | vredAdd (o : OpA) | vredMin (o : OpA) | vredMax (o : OpA) | vredAnd (o : OpA) | vredOr (o : OpA) | vredXor (o : OpA)
  | vlut (hi : Bool) (o : OpA) | ctld (o : OpA) | vpack (o : OpA)
  | vunpk (ctr : Bool) (planes : BitVec 4) (o : OpA)
  | vext (o : OpA) | vins (o : OpA) | vcompress (o : OpA) | vexpand (o : OpA)
  | kand (o : OpA) | kor (o : OpA) | kxor (o : OpA) | kandn (o : OpA) | knot (o : OpA)
  | kmovKFromG (o : OpA) | kmovGFromK (o : OpA) | kpopc (o : OpA) | kseti (o : OpI) | vmov (o : OpA)
  -- classes 0x5 and 0x6 (R255 to R277)
  | ld (o : OpM) | st (o : OpM) | vld (o : OpM) | vst (o : OpM) | stm (o : OpM) | vstm (o : OpM)
  | vgat (o : OpM) | vsct (o : OpM) | pref (o : OpM) | sclose (o : OpM)
  | amoAdd (o : OpM) | amoAnd (o : OpM) | amoOr (o : OpM) | amoXor (o : OpM) | amoMin (o : OpM) | amoMax (o : OpM)
  | amoSwap (o : OpM) | amoCas (o : OpM)
  | redAdd (o : OpM) | redAnd (o : OpM) | redOr (o : OpM) | redXor (o : OpM) | redMin (o : OpM) | redMax (o : OpM)
  -- class 0x7 (R124 to R128, R271)
  | post (o : OpA) | xget (o : OpA) | xtry (o : OpA) | xpeek (o : OpA) | rld (o : OpM)
  -- class 0x8 (R322 to R327, R310, R311)
  | ins (o : OpM) | insGrant (o : OpM) | probe (o : OpA) | take (o : OpA) | rset (o : OpA) | rget (o : OpA)
  -- class 0x9 (R329 to R341)
  | cpy (o : OpE) | cpyt (o : OpE) | cpySlot (o : OpE) | cpySlotLink (o m : OpE) (set : Bool)
  | cpyDeal (o : OpE) | cpyMc (o : OpE) | cpyStamp (o : OpE) | cpyFill (o : OpE) | cnop (o : OpE)
  -- class 0xA (R199 to R206)
  | mclaim (o : OpE) | mclaimSh (o : OpE) | mclaimTry (o : OpE) | mclaimShtry (o : OpE) | mrel (o : OpE) | mfmt (o : OpE)
  | mzero (o : OpE) | mmac (o : OpE) | mmacSet (o : OpE) | macc (o : OpE) | mst (o : OpE)
  -- class 0xB (R345 to R358)
  | swait (o : OpS) | ssig (o : OpS) | stry (o : OpS) | smrd (o : OpS) | smset (o : OpS)
  | bar (fld : Bool) (o : OpS) | barcfg (fld : Bool) (o : OpS) | wstill (o : OpS)
  -- class 0xC (R132, R374 to R376, R224, R225, R382)
  | sget (d : Reg) (n : BitVec 12) | sset (n : BitVec 12) (a : Reg) | trap (n : BitVec 16) | tret | tretNext
  | tlbiAsid (b : Reg) | tlbiPage (a b : Reg) | tlbiAll | pgdone (d a b : Reg) | gstop (d : Reg) | gstopGo (d : Reg) | brk
  -- class 0xF (R103, R377)
  | deferredEncoding (w : Word)
  -- rows that are the `sset` of one register (R104, R135, R300, R384, R386, R380, R313, R383, R409, R421, R413 to R415, R400)
  | cmpqWrite (a : Reg) | rmodeWrite (a : Reg) | bvmodeWrite (a : Reg) | preempt (a : Reg)
  | blkcmdThaw (blk : BlockId) | blkcmdRevive (blk : BlockId)
  | ptcommit (a : Reg) | dbgctlHalt (a : Reg) | hostirq (a : Reg) | pwrlimWrite (a : Reg)
  | nbpost (dir : BitVec 2) (a : Reg) | cwgo (a : Reg) | cmapvalWrite (a : Reg)
  | fabcmdOpen (estate : Nat) | fabcmdClose (estate : Nat) (addr : Nat)
  -- fabric steps (R391 to R404)
  | routeImageRead (estate : Nat) (bad : Bool) | reconfigQuiesceEnd (estate : Nat) | drainMarker (l : LinkId) (vc : BitVec 2)
  | reconfigDark (estate : Nat) | linkTrainComplete (estate : Nat) (rs : List TrainResult)
  | flitReceive (l : LinkId) (flit : Line) (lost : List Nat) | resendRequest (l : LinkId) (lseq : BitVec 12)
  | cumulativeAck (l : LinkId) (lseq : BitVec 12) | allowanceReturn (l : LinkId) (vc : BitVec 2) (n : Nat)
  | fecWindowEnd (l : LinkId) (rx : Bool) (lane : Nat) (count : Nat) | laneLoss (l : LinkId) (rx : Bool) (lane : Nat) (codeword : Bool)
  | laneRejoin (l : LinkId) (rx : Bool) (lane : Nat) | linkDown (l : LinkId) | packageFailure (estate : Nat) (reported : Bool)
  -- Polder and scheduler steps (R26 to R57, R61, R323)
  | bankCommitInsertions (pid idx : Nat) (ids : List Nat) | sluiceDecision (pid idx : Nat)
  | polderRequestServe (pid idx : Nat) (ids : List Nat) | firingDispatch (pid idx : Nat) | firingStart (core : CoreId)
  | blockFiringStart (blk : BlockId) | fieldFiringStart (pid estate die : Nat) | coresideSetStart (pid rule : Nat)
  | fetchLine (core : CoreId) (ctx : Nat) (bad : Bool)
  | insertionSend (core : CoreId) (id : Nat) | insertionRetry (core : CoreId) (id : Nat) | insertionAck (core : CoreId) (id : Nat)
  | polderFullReport (pid idx : Nat) | roundClose (pid : Nat) | leveeSample (pid : Nat)
  | barrierWatchdog (pid : Nat) (blk : Option BlockId) (estate field bar : Nat)
  -- inlets (R44, R45, R406 to R408, R325)
  | inletTileWrite (pid : Nat) (off : Nat) (bytes : Nat) (tile : Line) (relaxed : Bool)
  | inletPayloadWrite (pid : Nat) (off : Nat) (data : List Byte) | inletApertureRead (pid : Nat) (off len : Nat)
  | inletInsert (pid : Nat) | inletAccept (pid : Nat) (core : CoreId) (id : Nat)
  -- mailboxes (R124 to R126, R320)
  | postArrival (id : Nat) | postSend (id : Nat) | heldPostApply (core : CoreId) (x : Reg) | mailboxOverrunReport (core : CoreId)
  | overflowPostResend (id : Nat)
  -- memory messages (R248 to R275)
  | rldReply (id : Nat) | loadReply (id : Nat) | lateReply (id : Nat) | remoteRequestTimeout (id : Nat)
  | tagQuarantineEnd (core : CoreId) (tag : Nat) | loadPerform (id : Nat) | storeArrival (id : Nat) | weirResend (id : Nat)
  | storeAck (id : Nat) | closeMarkerCommit (id : Nat) | weirEntryTimeout (core : CoreId) (ctx stream unit : Nat)
  | storeFailureNotice (id : Nat) | releaseSend (id : Nat) | atomicPerform (id : Nat)
  | rolloverSweepComplete (level : Nat) (unit : Nat) | pageWalkComplete (id : Nat) (bad : Bool)
  -- swapping (R66 to R75, R386)
  | swapThresholdExpiry (blk : BlockId) | swapOut (blk : BlockId) | shadowSwitchComplete (blk : BlockId) | imageValid (blk : BlockId)
  | spillFailure (blk : BlockId) | readmission (blk : BlockId) | resize (pid : Nat) (r : Resize)
  | fieldMove (pid estate field die : Nat)
  -- copy engine and matrix unit (R98, R198, R203, R204, R329 to R336)
  | copyCommandStart (core : CoreId) (id : Nat) | copyPiece (core : CoreId) (id : Nat) (bad : Bool)
  | copyCommandComplete (core : CoreId) (id : Nat) | linkedMmacHandover (core : CoreId) (id : Nat)
  | matrixGrant (blk : BlockId) | matrixStepEnd (blk : BlockId) | mmacFinish (blk : BlockId)
  | mstCapture (core : CoreId) (acc : Nat) | mstComplete (core : CoreId) (acc : Nat)
  -- semaphores, notices, fences, halts, power (R344, R378, R379, R209, R382, R420)
  | semaphoreCycle (core : CoreId) | supervisorNotice (pid : Nat) | fence (blk : BlockId) (cause : Nat) | fencePropagate (blk : BlockId)
  | uncorrectableError (core : CoreId) (what : Nat) (n : Nat) | haltArrival (core : CoreId) | powerThrottle (estate : Nat) (on : Bool)
  -- reset, ports, Causeway, host, management (R412, R108, R217, R414, R409, R421, R419)
  | coldReset (bad : List Nat) | warmReset | cxlPortTrain (estate port : Nat) (size : Nat) (reduced : Bool)
  | causewayLine (core : CoreId) | causewayDone (core : CoreId) (dir : BitVec 2) | hostCompletion (id : Nat) (unsupported : Bool) (data : List Byte)
  | mgmtSetPowerLimit (estate : Nat) (watts : Nat) | mgmtReadPower (estate : Nat) | mgmtCommitPartition (estate : Nat) (addr : Nat)
  | mgmtReadEventRecorder (estate die : Nat) (first count : Nat) | mgmtReadAttestation (estate : Nat)
  -- rows 305 to 312
  | readmissionHoldResend (id : Nat) | slotReopenHoldEnd (core : CoreId) (ctx stream unit : Nat) | imageLineExchange (blk : BlockId)
  | fieldMoveCopyDone (pid estate field : Nat) | clusterServiceTest (estate die cluster : Nat) (pass : Bool)
  | inletGrantChange (pid idx : Nat) (entry : Word) | inletSlotAssign (pid slot : Nat)
  | linkKeyLoad (l : LinkId) (vc : BitVec 2) (key : LinkKey)
deriving DecidableEq, Repr

end Sys2Proof
end

