-- ==== Sys2Proof/Machine/State.lean ====
section
/-! DEFINITION. The state of the machine: every piece of architectural state the manual names, as plain data
(INVENTORY.md '## State'), and the state after cold reset (R412). A `Map` lists only what differs from the reset value. -/

namespace Sys2Proof.Machine

/-- Why the machine stops. -/
inductive Fault where
  /-- A package in recovery runs nothing (R419): raised by a step that the agenda gives to a core of such a package. Safe: the
  hardware runs nothing either. -/
  | recovery
deriving DecidableEq, Repr

/-- Why an instruction has no meaning in this model. -/
inductive Refusal where
  /-- Raised by the arm of an instruction with no meaning yet. Safe: nothing can be proved of it. -/
  | notModelled (mnemonic : String)
deriving DecidableEq, Repr

/-- Levels of R369. -/
inductive Level where
  | app | sup | fw
deriving DecidableEq, Repr

/-- The trap registers of one level (R371, R387). -/
structure Trap where
  pc : Word := 0
  cause : Word := 0
  addr : Word := 0
  scr0 : Word := 0
  scr1 : Word := 0
  trec : Map (BitVec 3) Word := []
deriving DecidableEq, Repr

/-- States of a context but for Halted, which lies over them (R47). -/
inductive Run where
  | free
  | ready
  /-- waits at issue: what the next instruction needs is not there yet, and it has not issued (R63, R107, R257) -/
  | stalled
  /-- issued, and Waiting in `wstill` or on a semaphore, a mailbox register or a barrier -/
  | waiting (i : Instr)
  | parked
deriving DecidableEq, Repr

/-- A register that a reply writes (R257). -/
inductive RegRef where
  | g (r : Reg)
  | v (r : Reg)
deriving DecidableEq, Repr

/-! ## Clocks and held vectors (R281 to R290) -/

/-- A clock vector: entries keyed by level (1 to 5) and index within the parent unit; unlisted entries are 0 (R283). -/
abbrev Clk := Map (Nat × Nat) Nat

/-- A thread's coordinates: virtual core number (R123) and context. -/
structure Party where
  vcore : Nat := 0
  ctx : Nat := 0
deriving DecidableEq, Repr

/-- A snapshot a party publishes: its entries, its own units' counters, and the release's scope (R285). -/
structure Snap where
  pid : Nat := 0
  who : Party := {}
  ents : Clk := []
  /-- counters of the own context, core, block, field and estate, in level order -/
  own : List Nat := []
  scope : Scope := .thread
deriving DecidableEq, Repr

/-- A contributor word (R284): one party, or several. -/
inductive Contrib where
  | one (p : Party)
  | many
deriving DecidableEq, Repr

/-- A held vector (R284): anchor level 0 to 6, a party inside the anchor, entries with own counters, contributors. -/
structure Held where
  /-- partition of its releases -/
  pid : Nat := 0
  level : Nat := 0
  anchor : Party := {}
  ents : Clk := []
  contrib : Map Nat Contrib := []
  scope : Scope := .thread
deriving DecidableEq, Repr

/-- Name of a held vector in a die's sync-vector store; a name the store no longer lists is a lost vector (R296). The scope
is what its holder keeps for saturation (R287). -/
structure HeldRef where
  die : Nat × Nat
  id : Nat
  scope : Scope
deriving DecidableEq, Repr

/-- SVP of a line record (R288). -/
inductive Svp where
  | none
  | ref (r : HeldRef)
  | lost (scope : Scope)
deriving DecidableEq, Repr

/-- One reader of a read record (R290). -/
structure Reader where
  clk : List Nat
  who : Party
  atom : Bool
  off : Nat
  size : Nat
deriving DecidableEq, Repr

/-- The read record of a line (R290). -/
inductive Reads where
  | none
  | one (a : Reader)
  | two (a b : Reader)
  | shared (clkMax : List Nat) (level : Nat) (unit : Party) (allAtom : Bool) (mask : List Bool)
deriving DecidableEq, Repr

/-- KIND of a line record (R288). -/
inductive WKind where
  | plain | atomic | release | noWrite
deriving DecidableEq, Repr

/-- A line record with its read record (R288, R290). -/
structure LineRec where
  clk : List Nat := []
  who : Party := {}
  kind : WKind := .noWrite
  svp : Svp := .none
  off : Nat := 0
  size : Nat := 0
  reads : Reads := .none
  /-- the line's bytes before its last write, in reporting-only mode (R234; log 13) -/
  prev : List Byte := []
deriving DecidableEq, Repr

/-! ## Memory messages (R241 to R279) -/

/-- A destination unit: a block, a loose core, a die's field memory, an estate's memory (R241). -/
inductive DUnit where
  | block (b : BlockId)
  | loose (pid vcore : Nat)
  | field (estate die : Nat)
  | estate (e : Nat)
deriving DecidableEq, Repr

/-- Operation of an atomic or reduction (R273). -/
inductive AOp where
  | add | and | or | xor | min | max | swap | cas
deriving DecidableEq, Repr

/-- Where a reply's data goes (R257, R261 to R263, R271). -/
inductive Dest where
  | none
  | g (r : Reg) (t : ETy)
  | v (r : Reg)
  | pair (r : Reg)
  | lanes (r : Reg) (w : Nat)
  | x (r : Reg)
deriving DecidableEq, Repr

/-- What an access does at its location. -/
inductive AKind where
  | load | store | rld
  | amo (op : AOp) (t : ETy) (operand compare : Nat)
  | red (op : AOp) (t : ETy) (operand : Nat)
deriving DecidableEq, Repr

/-- Where a virtual address lies: its location in `State.mem`, destination unit and the estate holding it. -/
structure Target where
  loc : Nat
  /-- bytes of the access from here on -/
  len : Nat
  /-- canonical address of the first byte: any-core, field or paged (R230) -/
  va : Nat := 0
  unit : DUnit
  estate : Nat
  /-- bank group (R279) -/
  group : Nat := 0
  /-- the leaf's NT bit (R219) -/
  notrack : Bool := false
deriving DecidableEq, Repr

/-- One access of an instruction: bytes at `addr`, `addr + 1`, …; a gather or scatter is one access per lane. -/
structure Access where
  kind : AKind
  addr : Word
  size : Nat
  order : Order := .plain
  scope : Scope := .thread
  stream : Nat := 0
  data : List Byte := []
  lane : Nat := 0
deriving DecidableEq, Repr

/-- What an acquire read joins at a line (R293). -/
inductive Join where
  | none
  | held (h : Held)
  | saturate (levels : Nat)
deriving DecidableEq, Repr

/-- A poster's message or an access's, and how far it has come. -/
inductive Stage where
  /-- a page walk is under way or queued (R63, R222) -/
  | walk
  /-- parked in the fault replay queue (R63) -/
  | parked
  /-- translated and accepted, not yet sent: a release or post waiting (R245, R124) -/
  | unsent
  /-- on its way to its unit -/
  | sent
  /-- held in a Weir until its predecessors commit (R266), or a post in the mailbox overflow (R125) -/
  | held
  /-- held at a block or field whose remap is held or which moves (R72, R75) -/
  | rehold
  /-- refused; its source sends it again from this cycle (R266, R320) -/
  | refused (at_ : Nat)
  /-- performed or failed at its unit; reply or acknowledgement on its way, with the error code of R129 or cause of R269 -/
  | done (err : Nat)
  /-- one lane of a gather, answered while other lanes are not (R263), with its error code -/
  | collected (err : Nat)
deriving DecidableEq, Repr

/-- What a message carries. -/
inductive Body where
  | access (a : Access) (ts : List Target)
  /-- a post to x of a virtual core (R124) -/
  | post (target : CoreId) (x : Reg) (value : Word)
  /-- a close marker (R267) -/
  | close (stream : Nat) (unit : DUnit)
  /-- probe or take of pattern and key, registers or image address (R326, R327) -/
  | probe (pat key : Word) (d c : Reg)
  | take (pat key : Word) (p : Word)
deriving DecidableEq, Repr

/-- A page a context or command waits for: virtual address and size (R226). -/
structure Page where
  va : Nat
  size : Nat
deriving DecidableEq, Repr

/-- A TLB entry (R222): ASID, page, leaf entry. -/
structure TlbEntry where
  asid : Nat
  page : Page
  leaf : Word
deriving DecidableEq, Repr

/-- A message of a context's instruction, until it is acknowledged or answered. -/
structure Msg where
  core : CoreId
  ctx : Nat
  pc : Word := 0
  words : List Word := []
  body : Body
  stage : Stage
  dst : Dest := .none
  snap : Snap := {}
  seq : Nat := 0
  /-- request tag and generation (R249) -/
  tag : Option (Nat × Nat) := none
  /-- earlier messages that must be acknowledged first (R245, R235) -/
  after : List Nat := []
  reply : List Byte := []
  /-- race found by the check (R301), for enforcing mode -/
  race : Option (List Word) := none
  /-- what an acquire joins with its reply (R293) -/
  joins : List Join := []
  /-- timed out, or the context's thread has ended: the reply is discarded as late (R249, R370) -/
  detached : Bool := false
  flags : Nat := 0
  issued : Nat := 0
  mode : Nat := 0
  /-- order of arrival where it is held (R72, R75) -/
  ord : Nat := 0
  /-- replayed after a restart (R73) -/
  replayed : Bool := false
  /-- leaves it has translated with: those its own walks have found, which it uses whatever the TLBs hold, and TLB entries
  (R224); the physical core whose TLBs it used -/
  leafs : List TlbEntry := []
  tcore : Option (Nat × Nat × Nat) := none
  /-- a `tlbi` met its walk: the walk fills no TLB (R224) -/
  noFill : Bool := false
  /-- bytes performed of an access that is not single-copy atomic (R231) -/
  pos : Nat := 0
  /-- between estates: 1 once its packet has entered a link, 2 once its answer's has (R396) -/
  wire : Nat := 0
  /-- a discarded release: it takes its place in its stream's sequence and writes nothing (R248; log 127) -/
  void : Bool := false
  /-- the unit whose sequence numbers it has, where a field move took it to another (R75, R265; log 118) -/
  seqUnit : Option DUnit := none
deriving DecidableEq, Repr

/-- A destination slot of an ordered stream (R265, R267). -/
structure Slot where
  stream : Nat
  unit : DUnit
  next : Nat := 0
  closing : Bool := false
  failed : Bool := false
deriving DecidableEq, Repr

/-- A hold against opening a slot again (R267). -/
structure Hold where
  stream : Nat
  unit : DUnit
  until_ : Nat
deriving DecidableEq, Repr

/-- A delivery-failure record (R269), with the units it covers. -/
structure Failure where
  stream : Nat
  cause : Nat
  more : Bool := false
  discarded : Nat := 1
  addr : Word := 0
  units : List DUnit := []
deriving DecidableEq, Repr

/-- Name of a Weir's stream entry: source context, stream and unit (R267). -/
structure WeirKey where
  core : CoreId
  ctx : Nat
  stream : Nat
  unit : DUnit
deriving DecidableEq, Repr

/-- A Weir's stream entry: the next sequence number, the cycle of the last arrival, and the cause by which a store of it
failed, 0 for none (R248, R267). -/
structure WeirEntry where
  expected : Nat := 0
  last : Nat := 0
  failed : Nat := 0
deriving DecidableEq, Repr

/-- A fault's record: TADDR, xTREC4 to xTREC6, or the 64-byte race record (R373). -/
structure Info where
  addr : Word := 0
  r4 : Word := 0
  r5 : Word := 0
  r6 : Word := 0
  race : Option (List Word) := none
deriving DecidableEq, Repr

/-- A fault found after its instruction issued: precise at that instruction, whose PC and words `site` holds (R259); without
one, precise at the context's next instruction (R258, R300, R327). -/
structure Owed where
  code : Nat
  info : Info := {}
  site : Option (Word × List Word) := none
deriving DecidableEq, Repr

/-- A counted barrier arrival (R352): the barrier, the generation, and once that has completed its join. -/
structure BarMark where
  fld : Bool
  idx : Nat
  gen : Nat
  done : Option (Option HeldRef) := none
deriving DecidableEq, Repr

/-- One context (R47, R58 to R63, R109, R134, R158, R159, R387). Identity, traps, in-flight bookkeeping. -/
structure Ctx where
  /-- g0 to g31; g0 reads as zero and is never stored (R109) -/
  g : Map Reg Word := []
  /-- v0 to v31 (R158) -/
  v : Map Reg Line := []
  /-- k1 to k7; k0 reads as all ones (R159) -/
  k : Map (BitVec 3) Word := []
  pc : Word := 0
  run : Run := .free
  level : Level := .app
  busyA : Bool := false
  busyS : Bool := false
  busyF : Bool := false
  trapA : Trap := {}
  trapS : Trap := {}
  trapF : Trap := {}
  avec : Word := 0
  fieldsize : Word := 0
  firinfo : Word := 0
  rmode : Word := 1
  fflags : Word := 0
  icount : Word := 0
  cmpq : Word := 0
  bvsel : Word := 0
  barsel : Word := 0
  salsel : Word := 0
  lnksel : Word := 0
  cdealpat : Word := 0
  /-- clock vector and context counter (R282, R283) -/
  clk : Clk := []
  ctr : Nat := 0
  /-- the firing being run, and the member index (R30, R56) -/
  firing : Option Nat := none
  member : Nat := 0
  /-- insertions made of the firing's share (R324) -/
  inserted : Nat := 0
  /-- started by `hstart` (R119, hown of R134) -/
  hown : Bool := false
  /-- reserved by the queue head of this firing (R55) -/
  reserved : Option Nat := none
  /-- destination slots and reopen holds (R265, R267) -/
  slots : List Slot := []
  holds : List Hold := []
  /-- delivery-failure records, oldest first (R269) -/
  failures : List Failure := []
  /-- registers a reply will write, with the message (R257) -/
  pend : List (RegRef × Nat) := []
  /-- registers in error: code word of R129 and the access's address; `none` for a g0 destination (R258) -/
  errs : List (Option RegRef × Word × Word) := []
  /-- a fault that waits for the context's hold to end, or for its next issue (R258, R259, R300, R327) -/
  owed : Option Owed := none
  /-- messages whose reply must come before the next instruction issues: verdicts and acquires (R259, R260) -/
  holdOn : List Nat := []
  /-- a store to many places that waits for slots, by the level it runs at: its PC, the stores sent, the clocks published, what
  a release waits for -/
  progress : Map Level (Word × Nat × Snap × List Nat) := []
  /-- a `tlbi` that has removed its entries: its PC, and the messages it waits for (R224) -/
  shootdown : Option (Word × List Nat) := none
  /-- the barrier arrival that is counted (R352) -/
  arrived : Option BarMark := none
  /-- the wait set (R225, R226); a fetch's park has no replay entry (R223) -/
  waitPages : List Page := []
  /-- Since(c) of R59 -/
  since : Nat := 0
  /-- after a `yield`: contexts Ready then that have not issued yet (R59) -/
  yieldFor : List Nat := []
  /-- the Levee exemption of R429 -/
  exempt : Bool := false
  /-- address of the line fetched for it ahead of issue (R58) -/
  fetched : Option Word := none
  /-- a release from `wstill` recorded while the block was out of the machine (R48) -/
  released : Bool := false
deriving DecidableEq, Repr

/-- A mailbox register (R122). -/
structure Mail where
  value : Word := 0
  pres : Bool := false
  err : Bool := false
  await : Bool := false
  snap : Option HeldRef := none
deriving DecidableEq, Repr

/-- A held post (R125): register, value, snapshot, arrival cycle, reported. -/
structure HeldPost where
  x : Reg
  value : Word
  snap : Option HeldRef
  since : Nat
  reported : Bool := false
deriving DecidableEq, Repr

/-- A semaphore (R343). -/
structure Sem where
  count : Nat := 0
  vec : Option HeldRef := none
deriving DecidableEq, Repr

/-- A signal on its way into a semaphore (R344): port 0 for the core's own commands, 1 for `cpy.mc`, 2 for `ssig`. -/
structure Sig where
  sm : Nat
  inc : Nat
  port : Nat
  vec : Option Snap := none
  /-- the `cpy.mc` it comes from (R338) -/
  cmd : Option Nat := none
deriving DecidableEq, Repr

/-! ## Copy commands and matrix requests -/

/-- A shape record as the engine keeps it (R335): extents and byte strides. -/
structure Shape where
  ext : List Nat
  stride : List Int
deriving DecidableEq, Repr

/-- An engine's piece between estates (R396, R402, R409): where it is written, nothing while what was read is under way; abandoned; or
waiting for the host to complete its read. -/
structure Flight where
  ts : List Target := []
  lost : Bool := false
  host : Bool := false
deriving DecidableEq, Repr

/-- What a matrix request does (R203 to R205). -/
inductive MOp where
  | mmac (set : Bool) (a b : Nat)
  | zero
  | st (base stride : Word)
deriving DecidableEq, Repr

/-- A matrix request (R198, R203 to R205). -/
structure MReq where
  /-- order among the core's commands and requests (R77) -/
  ord : Nat
  ctx : Nat
  pc : Word := 0
  words : List Word := []
  op : MOp
  acc : Nat
  /-- an f64 accumulator is the pair of its even slot (R190), by the format at issue -/
  pair : Bool := false
  w : EW := {}
  snap : Snap := {}
  /-- stores that the O flag waits for (R98) -/
  after : List Nat := []
  /-- the wait clause has passed, in this cycle -/
  passed : Option Nat := none
  /-- handed over by a copy (R336) -/
  linked : Bool := false
  /-- granted or started (R198, R204) -/
  started : Bool := false
  /-- format context and code table captured (R197) -/
  fmt : Word := 0
  table : List Byte := []
  step : Nat := 0
  /-- the last step has ended, or the request needs none: its status is still to be written -/
  ended : Bool := false
  flags : Nat := 0
  code : Nat := 1
  /-- captured accumulator of an `mst`, rows written and lines of the next one, page it is parked on -/
  data : List Byte := []
  rows : Nat := 0
  line : Nat := 0
  park : Option Page := none
  flight : Option Flight := none
  /-- operand elements that the step under way has read: those of A by row, of B by column (R203) -/
  as : List (List Nat) := []
  bs : List (List Nat) := []
deriving DecidableEq, Repr

/-- Kind of a copy command (R333). -/
inductive CKind where
  | cpy
  | cpyt (src : Shape) (dst : Option Shape)
  | slot (n : Nat)
  | deal (pat : Word)
  | mc (mask : Nat)
  | stamp
  | fill
  | nop
deriving DecidableEq, Repr

/-- A copy command (R329 to R341). -/
structure Cmd where
  ctx : Nat
  pc : Word := 0
  words : List Word := []
  kind : CKind
  dst : Word := 0
  src : Word := 0
  /-- bytes moved in all; for `cpy.mc` bytes read -/
  len : Nat := 0
  /-- pattern of a fill, row stride of a slot fill -/
  par : Word := 0
  w : EW := {}
  link : Option MReq := none
  snap : Snap := {}
  after : List Nat := []
  passed : Bool := false
  running : Bool := false
  /-- moving has ended; stages 5 and 6 are still to come -/
  ended : Bool := false
  /-- completed; a linked command waits for its hand-over (R336) -/
  handing : Bool := false
  pos : Nat := 0
  bytes : Nat := 0
  code : Nat := 1
  faddr : Word := 0
  parked : Bool := false
  park : Option Page := none
  /-- its page is there, but eight others run (R329) -/
  resume : Bool := false
  /-- the piece that has been read and not yet written, its poisoned address, and destinations that have it (R329, R338) -/
  got : Option (List Byte × Option Word) := none
  written : Nat := 0
  flight : Option Flight := none
  /-- bytes of a slot's piece that have landed (R203) -/
  landed : Nat := 0
  /-- source runs of the piece in host memory that the host has answered (R409) -/
  answered : Nat := 0
  /-- signals of a `cpy.mc` have gone out; its status record follows them (R338) -/
  signalled : Bool := false
deriving DecidableEq, Repr

/-- A line of a Causeway transfer on its way into a core (R414): direction it comes from, image, offset, line. -/
structure CwLine where
  from_ : Nat
  off : Nat
  count : Nat
  line : Nat
  bytes : List Byte
deriving DecidableEq, Repr

/-! ## Cores -/

/-- A core's state that moves with its block's image (R122, R385); a loose core's too. -/
structure Core where
  ctxs : Map Nat Ctx := []
  /-- x0 to x31 (R122) -/
  x : Map Reg Mail := []
  /-- hold queue, 16 entries, arrival order (R125) -/
  hold : List HeldPost := []
  /-- code table entries 0 to 15 that differ from reset (R151) -/
  code : Map Nat Byte := []
  /-- format context (R194) -/
  mfctx : Word := 0
  /-- semaphores (R343) -/
  sem : Map Nat Sem := []
  /-- signals to add in the next semaphore cycle (R344) -/
  sigs : List Sig := []
  /-- copy commands, oldest first (R329) -/
  cmds : List (Nat × Cmd) := []
  /-- matrix requests, oldest first (R198) -/
  mreqs : List MReq := []
  /-- poisoned accumulators and status words (R207, R209) -/
  mpoison : List Nat := []
  mstat : Map Nat Word := []
  cerrlo : Word := 0
  cerraddr : Word := 0
  cerrcnt : Word := 0
  msent : Word := 0
  mrcvd : Word := 0
  /-- core counter (R282) -/
  ctr : Nat := 0
  /-- generation last issued of each request tag; quarantined (tag, generation, until) (R249) -/
  tagGen : Map Nat Nat := []
  quarantine : List (Nat × Nat × Nat) := []
  fvec : Word := Config.firmwareEntry
  dbgctl : Word := 0
  /-- the gang stop has reached the core: its contexts are Halted, but for the issuer's (R382) -/
  gang : Bool := false
  /-- contexts under a debug halt; contexts let run one instruction by STEP (R383) -/
  halted : List Nat := []
  stepping : List Nat := []
  /-- issue rotation pointers of the scalar and vector slots (R59) -/
  rotS : Nat := 1
  rotV : Nat := 1
  /-- context at which the fetch turn begins (R58) -/
  rotF : Nat := 0
  /-- stopped by a fence that no block of it takes (log 20) -/
  fenced : Bool := false
  /-- Causeway registers (R416), the transfer's image, lines arrived, and children that have reported DONE (R414) -/
  cwtree : Word := 0
  cwstat : Word := 0
  cwImage : Option (Nat × Nat) := none
  cwq : List CwLine := []
  cwDone : List Nat := []
  /-- its DONE has been reported to its parent -/
  cwTold : Bool := false
deriving DecidableEq, Repr

/-- A physical core (R2, R138): what stays when a block moves. Index is the mesh position MY * 32 + MX. -/
structure Phys where
  healthy : Bool := true
  /-- it has joined a partition since the last reset: its boot mode is over (R412) -/
  joined : Bool := false
  /-- latency accumulators (R279) -/
  lat : Map Nat Word := []
  latereply : Word := 0
  fetchdrop : Word := 0
  smovf : Word := 0
  /-- performance counters 0xE10 to 0xE1B by offset (R363) -/
  perf : Map Nat Word := []
  nblink : Word := 0
  itlb : List TlbEntry := []
  dtlb : List TlbEntry := []
deriving DecidableEq, Repr

/-! ## Blocks, clusters, partitions -/

/-- A barrier (R350): arrivals per member and the join of the generation's arrival vectors. -/
structure Barrier where
  mask : Word
  per : Nat
  gen : Nat := 0
  total : Nat := 0
  arr : Map Nat Nat := []
  join : Option HeldRef := none
  /-- cycle of the generation's first waiting arrival; reported (R354) -/
  since : Nat := 0
  reported : Bool := false
deriving DecidableEq, Repr

/-- The claim of an operand slot, by member index (R187). -/
inductive Claim where
  | free
  | excl (m : Nat)
  | shared (ms : List Nat)
deriving DecidableEq, Repr

/-- Where a block stands in a swap (R67, R72, R384, R386). -/
inductive Swap where
  | none
  /-- no instruction issues; engines drain, or by `preempt` stop at their next piece -/
  | stopping (pre : Bool)
  /-- the switch ends at this cycle; the block that comes in -/
  | leaving (at_ : Nat) (inc : Option BlockId)
  /-- the switch onto this cluster ends at this cycle -/
  | entering (k : Nat × Nat × Nat) (at_ : Nat)
  /-- a failed spill froze it (R386) -/
  | frozen
deriving DecidableEq, Repr

/-- Where a virtual block is (R70 to R72, R384, R386). -/
inductive Residence where
  /-- never joined the partition, or removed -/
  | invalid
  | absent
  /-- resident on this physical cluster (estate, die, cluster) -/
  | resident (cluster : Nat × Nat × Nat)
deriving DecidableEq, Repr

/-- A virtual block's state that is saved with its image (R385), and its remap entry (R315). -/
structure Block where
  ctr : Nat := 0
  bars : Map Nat Barrier := []
  residence : Residence := .invalid
  fenced : Bool := false
  /-- a fence of this cause whose effects on the rest of the machine are due at the end of the turn (R379) -/
  fenceDue : Option Nat := none
  /-- remap entry held for re-admission (R72) -/
  held : Bool := false
  swap : Swap := .none
  /-- never run: its image is blank (R68) -/
  blank : Bool := true
  /-- Orangery slot; its image is complete (R385, R386) -/
  slot : Option Nat := none
  valid : Bool := false
  /-- base of its image in the Orangery: IMAGE of its remap entry (R315) -/
  image : Nat := 0
  /-- cluster it stood on last (R222), and the cycle of its last switch out of the machine (R385) -/
  was : Option (Nat × Nat × Nat) := none
  left : Nat := 0
  /-- a pre-emption that has not begun yet (R384, R386) -/
  preempt : Bool := false
  /-- cluster it was switched out of, while it spills -/
  spill : Option (Nat × Nat × Nat) := none
  /-- lines of its image still to be filled (R67) -/
  fill : Nat := 0
  /-- cycle in which it became absent or ready (R71) -/
  readyAt : Nat := 0
  /-- since when it has had a parked member (R66) -/
  parkedSince : Option Nat := none
  /-- its swap found no slot: it is tried again when one frees (R386) -/
  slotless : Bool := false
  /-- operand slots' claims and poison (R187, R189) -/
  claims : Map Nat Claim := []
  spoison : List Nat := []
  /-- arbiter pointer; member and accumulator whose `mmac` holds the array (R198, R208) -/
  rotPtr : Nat := 0
  array : Option (Nat × Nat) := none
deriving DecidableEq, Repr

/-! ## The Polder -/

/-- A tile in a region (R17, R28, R35, R37). -/
structure Tile where
  img : Line
  seq : Nat
  vec : Option HeldRef := none
  /-- decisions of the bank since it became matchable -/
  age : Nat := 0
  matchable : Bool := true
deriving DecidableEq, Repr

/-- A group formed by a rule (R24): rule index, rule image, tiles by slot. -/
structure Group where
  rule : Nat
  img : Line
  tiles : List Tile
deriving DecidableEq, Repr

/-- Who gives a round-mode insertion its sequence number (R37): a firing, or the home bank. -/
inductive Rank where
  | firing (bank f idx : Nat)
  | other
  | inlet
deriving DecidableEq, Repr

/-- How far an insertion has come (R323). -/
inductive IStage where
  | waiting
  | sent
  | refused (at_ : Nat)
  /-- in the round hold of its bank (R364) -/
  | held
  /-- committed or accepted; the acknowledgement is on its way -/
  | done
  /-- held at the interface of a field that moves (R75) -/
  | rehold
deriving DecidableEq, Repr

/-- An insertion (R323, R325), or an inlet tile being inserted (R44). -/
structure Insert where
  core : CoreId
  ctx : Nat
  /-- the core whose insert buffer holds it (R321) -/
  buf : Option (Nat × Nat × Nat)
  img : Line
  /-- partition whose Polder it goes to, and bank-list index; none on its way to an inlet -/
  pid : Nat
  home : Option Nat
  keep : Bool
  snap : Option Snap := none
  after : List Nat := []
  rank : Rank := .other
  /-- round it was made in, 0 outside round mode -/
  round : Nat := 0
  /-- order of arrival at its bank -/
  arr : Nat := 0
  /-- estate of the inlet it goes to under a grant (R314) -/
  dest : Nat := 0
  stage : IStage := .waiting
  /-- as a message's (R396) -/
  wire : Nat := 0
deriving DecidableEq, Repr

/-- A tile waiting in an inlet (R44, R45). -/
structure InletTile where
  img : Line
  keep : Bool := false
  /-- payload bytes that must have committed first (R408) -/
  gate : Bool := false
  /-- inserted under a grant (R46), with the producer's snapshot (R325) -/
  xpart : Bool := false
  snap : Option Snap := none
deriving DecidableEq, Repr

/-- The Polder region of one bank-list entry, with its sluice (R20 to R28, R35, R36, R52, R53). -/
structure Bank where
  /-- in order of sequence number -/
  tiles : List Tile := []
  ctr : Nat := 0
  /-- RotPtr of each level -/
  rot : Map Nat Nat := []
  /-- tie-break pointer -/
  tie : Nat := 0
  /-- changes of rule entries that have not reached this sluice: entry and the image still in force, oldest first (R25) -/
  lag : List (Nat × Line) := []
  /-- the round's groups not yet emitted, and how many firings it has formed (R36) -/
  groups : List Group := []
  formed : Nat := 0
  /-- non-firing insertions numbered in the round (R37) -/
  others : Nat := 0
  /-- since when it has refused insertions; reported (R22) -/
  refusing : Option Nat := none
  reported : Bool := false
deriving DecidableEq, Repr

/-- Where a firing is (R29, R52 to R57, R61, R69). -/
inductive FPlace where
  | out
  | core (p : Nat × Nat × Nat)
  | cluster (k : Nat × Nat × Nat)
  | die (d : Nat × Nat)
  | coreside
  /-- in a block's image: from the queue of its core of this number, or its block queue for 16 (R69) -/
  | saved (b : BlockId) (member : Nat)
  | running
deriving DecidableEq, Repr

/-- A firing (R29). -/
structure Firing where
  pid : Nat
  rule : Nat
  img : Line
  bank : Nat
  /-- f of R36, and the round it was formed in; 0 in free mode -/
  fnum : Nat := 0
  round : Nat := 0
  roundM : Bool := false
  tiles : List Tile
  place : FPlace := .out
  /-- order of arrival in its queue -/
  ord : Nat := 0
  /-- the fixed set of blocks of a field firing at its head (R57) -/
  blocks : Option (List BlockId) := none
  /-- the co-resident set it was started in (R61) -/
  set : Option Nat := none
deriving DecidableEq, Repr

/-- A partition (R312 and the registers held per partition). -/
structure Part where
  bvmode : Word := 2
  rlogbase : Word := 0
  rloghead : Word := 0
  rlogtail : Word := 0
  rlogdrop : Word := 0
  bvraces : Word := 0
  ttroot : Word := 0
  preqbase : Word := 0
  preqhead : Word := 0
  preqtail : Word := 0
  preqlost : Word := 0
  /-- page requests have been dropped since the supervisor was last told (R226) -/
  preqDropped : Bool := false
  svec : Word := 0
  tdeleg : Word := 0
  snotice : Word := 0
  snmask : Word := 0
  sncore : Word := 0
  sfence0 : Word := 0
  sfence1 : Word := 0
  sstarve0 : Word := 0
  sstarve1 : Word := 0
  sswap : Word := 0
  haltbase : Word := 0
  barwd : Word := 50000000
  polfull : Word := 0
  inletvb : Word := 0
  inleterr : Word := 0
  inletpc : Word := 0
  /-- partition-table record per estate (R312) -/
  record : Map Nat (BitVec 1024) := []
  /-- loose cores: virtual core number and physical core (R11, R123) -/
  loose : Map Nat (Nat × Nat × Nat) := []
  /-- rule table (R308) -/
  rules : Map Nat Line := []
  /-- inlet grants (R314) -/
  grants : Map Nat Word := []
  /-- the context whose `gstop` stops the partition (R382) -/
  stopped : Option (CoreId × Nat) := none
  /-- virtual fields (estate, field) that are moving, with the die they move to (R75) -/
  moving : Map (Nat × Nat) Nat := []
  /-- field counters by (estate, virtual field) (R282) -/
  fieldCtr : Map (Nat × Nat) Nat := []
  /-- field barriers by (estate, virtual field, number) (R350) -/
  fbars : Map (Nat × Nat × Nat) Barrier := []
  /-- bank list (R20, R312): bank, virtual field, estate of each entry -/
  banks : List (Nat × Nat × Nat) := []
  round : Word := 0
  /-- in round mode: a round is in progress (R365) -/
  inRound : Bool := false
  insflight : Nat := 0
  /-- the Levee (R41, R357): bits of `levee` but IDLE, and the cycle of the first idle sample -/
  stable : Bool := false
  pend : Bool := false
  rlimit : Bool := false
  sampled : Option Nat := none
  /-- the lane has been busy since the last declaration (R42) -/
  disturbed : Bool := true
  /-- coreside starvation has been reported since then (R61) -/
  coreStarved : Bool := false
  /-- inlet queue and host slot (R320, R406) -/
  inletq : List InletTile := []
  slot : Option Nat := none
  /-- Orangery slots in use, by estate -/
  oraUsed : List (Nat × Nat) := []
deriving DecidableEq, Repr

/-- What waits for a page walker beside data accesses: a fetch, a copy command's piece, a row of an `mst` (R222, R320). -/
inductive Waiter where
  | fetch (core : CoreId) (ctx : Nat)
  | cmd (core : CoreId) (id : Nat)
  | mst (core : CoreId) (acc : Nat)
deriving DecidableEq, Repr

/-- A physical cluster (estate, die, cluster): its second-level TLB, and what joined its walker wait queue, by order of arrival
among the messages (R222, R320). -/
structure Cluster where
  tlb : List TlbEntry := []
  waiters : List (Waiter × Nat) := []
  /-- partition it is assigned to (R11) -/
  owner : Option Nat := none
  /-- cycle in which it became free (R388) -/
  freed : Nat := 0
  /-- a fenced block has left it: it waits for firmware's test (R380) -/
  testing : Bool := false
  /-- a resize takes it from its partition once its block's spill is valid (R74) -/
  leaving : Bool := false
deriving DecidableEq, Repr

/-- A die (estate, die): Belvedere store, counters, registers held per die. -/
structure Die where
  recs : List ((Nat × Nat) × LineRec) := []
  sv : List (Nat × Held) := []
  bvroll : Word := 0
  bvevict : Word := 0
  eccfix : Word := 0
  weirref : Word := 0
  cmapsel : Word := 0
  evrsel : Word := 0
  /-- core map (R317) -/
  cmap : Map Nat Word := []
  /-- event recorder: entries by place in the ring, and the next place (R418) -/
  evr : Map Nat (BitVec 256) := []
  evrNext : Nat := 0
  /-- the firing at the head of its field queue (R57) -/
  fieldHead : Option Nat := none
deriving DecidableEq, Repr

/-- State of a lane (R395, R403). -/
inductive LaneState where
  | out | retraining | inService
deriving DecidableEq, Repr

structure Lane where
  st : LaneState := .out
  corrected : Nat := 0
  uncorrectable : Nat := 0
  retrains : Nat := 0
deriving DecidableEq, Repr

/-- State of a link (R403). -/
inductive LinkState where
  | down | training | up | dark
deriving DecidableEq, Repr

/-- What a packet carries (R396): a message or its answer, an insertion or its acknowledgement, a piece of a copy command or `mst`, a
partition's gang stop on its way to an estate, or nothing that waits for it. -/
inductive Cargo where
  | msg (id : Nat)
  | insert (id : Nat)
  | piece (core : CoreId) (id : Nat)
  | halt (pid estate : Nat)
  | note
deriving DecidableEq, Repr

/-- A packet (R396, R399): channel, cargo, the estate it goes to, its bytes, and how many of its flits have been sent. -/
structure Packet where
  vc : Nat
  cargo : Cargo
  dest : Nat
  num : Nat
  data : List Byte := []
  sent : Nat := 0
deriving DecidableEq, Repr

/-- A data flit that has been sent and is not acknowledged (R393, R394). -/
structure Sent where
  seq : Nat
  flit : Line
  /-- the packet, counting this flit as sent -/
  pkt : Packet
  /-- lanes in service and the beat counter when it was sent last -/
  lanes : List Nat
  beat : Nat
  /-- it has not come to the far end yet -/
  out : Bool := true
deriving DecidableEq, Repr

/-- A link of a package, both directions (R391 to R400, R403). -/
structure Link where
  st : LinkState := .down
  /-- lanes by (receive, number) -/
  lanes : Map (Bool × Nat) Lane := []
  /-- beat counter of the sending direction (R393) -/
  beat : Nat := 0
  resent : Nat := 0
  far : Option (Nat × Nat) := none
  /-- send allowance by channel (R359) -/
  allow : Map Nat Nat := []
  /-- packets not yet sent whole, oldest first (R396); next LSEQ to send -/
  sendq : List Packet := []
  txSeq : Nat := 0
  /-- next LSEQ expected; the replay buffer (R394) -/
  rxSeq : Nat := 0
  replay : List Sent := []
  /-- it discards until the flit with LSEQ `rxSeq` comes; its resend request has still to be sent (R394) -/
  asked : Bool := false
  ask : Bool := false
  /-- flits accepted, by channel, in the buffer until that is freed (R398) -/
  taken : List (Nat × Line) := []
  /-- receiving lanes that leave service with no loss, and the LSEQ at which both ends change once that is known (R393, R395) -/
  leaving : List (Nat × Option Nat) := []
  /-- modes written and in force, keys loaded and in force, by direction and channel (R397) -/
  modeT : Word := 0
  modeR : Word := 0
  liveT : Word := 0
  liveR : Word := 0
  newKeys : Map (Bool × Nat) (BitVec 256) := []
  keys : Map (Bool × Nat) (BitVec 256) := []
  /-- consecutive tag failures, stopped channels (R397) -/
  tagFails : Map Nat Nat := []
  stopped : List Nat := []
  /-- channels whose drain marker has arrived (R400) -/
  markers : List Nat := []
  /-- data flits first sent, and accepted, by channel: part of the nonce (R397) -/
  counts : Map Nat Nat := []
  rcounts : Map Nat Nat := []
deriving DecidableEq, Repr

/-- An estate: registers held per package. -/
structure Estate where
  /-- what firmware's alignment has added to the time base (R362) -/
  tbase : Word := 0
  ctr : Nat := 0
  /-- valid route map entries: first-hop pair (R316); RVALID of the own estate's (R425), valid at reset (log 11) -/
  routes : Map Nat Nat := []
  ownRoute : Bool := true
  /-- attached size of CXL port n (R217) -/
  cxl : Map Nat Nat := []
  cxlstat : Word := 0
  /-- phase of a circuit reconfiguration, 0 for none; route image being read, image read; the other fields of `fabstat`
  (R400, R403) -/
  phase : Nat := 0
  imgAddr : Option Nat := none
  image : List (BitVec 16) := []
  trainErr : Bool := false
  imgErr : Bool := false
  reconfs : Nat := 0
  fabxb : Word := 65536
  fecthr : Word := 4027
  fabfail : Word := 54000000
  links : Map Nat Link := []
  /-- cycle since when no link to a package has been up, by estate; packages declared failed (R404) -/
  lost : Map Nat Nat := []
  failed : List Nat := []
  ptstat : Word := 0
  pwrlim : Word := 3200
  /-- gating in force (R420) -/
  gating : Bool := false
  /-- partition-table images committed, oldest first (R419) -/
  committed : List (BitVec 1024) := []
  /-- port 0 is the host endpoint (R405; log 31) -/
  host : Bool := true
  /-- an image of the package has failed its check: its cores run nothing (R419) -/
  recovery : Bool := false
  /-- an SPDM session is open at its management interface (R421) -/
  session : Bool := false
deriving DecidableEq, Repr

/-- What firmware writes into a core in a debug halt (R110, R151, R160, R161, R189, R192). -/
inductive DebugWrite where
  | g (r : Reg) (v : Word)
  | v (r : Reg) (v : Line)
  | k (r : BitVec 3) (v : Word)
  /-- entry of the code table -/
  | code (i : Nat) (v : Byte)
  /-- byte of an operand slot of the core's block, and a slot's claim -/
  | slot (i off : Nat) (v : Byte)
  | claim (i : Nat) (c : Claim)
  /-- byte of an accumulator -/
  | acc (a off : Nat) (v : Byte)
deriving DecidableEq, Repr

/-- One turn of the machine: which agent moves next (log 2). -/
inductive Turn where
  | issue (core : CoreId) (ctx : Nat)
  | slot (core : CoreId) (vector : Bool)
  /-- an agent's step -/
  | event (i : Instr)
  /-- a message's next step -/
  | msg (id : Nat)
  /-- firmware does not recover the fault it took of this context (R370) -/
  | fatal (core : CoreId) (ctx : Nat)
  /-- the compatibility routine ends for a context whose class-0xF word it was called for (R103) -/
  | compat (core : CoreId) (ctx : Nat)
  /-- firmware writes into a halted context or core (R382) -/
  | debug (core : CoreId) (ctx : Nat) (write : DebugWrite)
  /-- an error of a die's memories is corrected (R209) -/
  | corrected (estate die : Nat)
  /-- the host reads eight bytes of a slot's BAR0 window (R406) -/
  | barRead (estate slot off : Nat)
  /-- the host writes its own memory, at an offset of the window that reaches it (R409) -/
  | hostWrite (estate off : Nat) (data : List Byte)
  /-- an SPDM session opens or closes at a package's management interface (R419, R421) -/
  | spdm (estate : Nat) (open_ : Bool)
  /-- firmware aligns an estate's time base with its domain's: it rises (R362) -/
  | align (estate by_ : Nat)
deriving DecidableEq, Repr

structure State where
  /-- the context whose turn it is -/
  cur : CoreId × Nat
  /-- words of the instruction at issue -/
  words : List Word := []
  agenda : List Turn := []
  fresh : Nat := 0
  cycle : Nat := 0
  nextId : Nat := 0
  mem : List Host.Cell := []
  poison : List Nat := []
  cores : Map CoreId Core := []
  phys : Map (Nat × Nat × Nat) Phys := []
  blocks : Map BlockId Block := []
  clusters : Map (Nat × Nat × Nat) Cluster := []
  parts : Map Nat Part := []
  dies : Map (Nat × Nat) Die := []
  estates : Map Nat Estate := []
  msgs : Map Nat Msg := []
  weirs : Map WeirKey WeirEntry := []
  banks : Map (Nat × Nat) Bank := []
  firings : Map Nat Firing := []
  inserts : Map Nat Insert := []
  /-- MSI-X vectors raised: estate, slot, vector (R409) -/
  irqs : List (Nat × Nat × Nat) := []
  /-- the last answer to the host or the management interface (R406, R407, R421) -/
  reply : List Word := []
deriving DecidableEq, Repr

/-- A context as a boot-mode core starts it (R412): the control context Ready at the firmware entry, at firmware level. -/
def bootCtx : Ctx := { run := .ready, level := .fw, pc := Config.firmwareEntry }

/-- A physical core in boot mode (R412). -/
def bootCore : Core := { ctxs := [(0, bootCtx)] }

/-- The machine right after cold reset (R412). -/
def State.reset : State := { cur := (.phys 0 0 0, 0) }

end Sys2Proof.Machine
end

