-- ==== Sys2Proof/Machine/Ops.lean ====
section
/-! DEFINITION. The named operations over the state: reading and writing registers, advancing past an instruction, taking an
exception (R370 to R374) and returning from one (R375). -/

namespace Sys2Proof

/-! ## Names and coordinates -/

/-- The partition a core belongs to; boot-mode cores use a record of their own that names no partition (R412; log 10). -/
def bootPid : Nat := 65536

def CoreId.pid : CoreId → Nat
  | .virt p _ => p
  | .phys .. => bootPid

/-- Virtual core number (R123); zero in boot mode (log 10). -/
def CoreId.num : CoreId → Nat
  | .virt _ n => n
  | .phys .. => 0

def numCore (n : Nat) : Nat := n % 16
def numBlock (n : Nat) : Nat := n / 16 % 64
def numField (n : Nat) : Nat := n / 1024 % 8
def numEstate (n : Nat) : Nat := n / 8192 % 64
def numLoose (n : Nat) : Bool := n / 524288 % 2 == 1

def CoreId.isVirt : CoreId → Bool
  | .virt .. => true
  | .phys .. => false

def CoreId.estate : CoreId → Nat
  | .virt _ n => numEstate n
  | .phys e _ _ => e

/-- The block of a core that is not loose (R7). -/
def CoreId.block : CoreId → Option BlockId
  | .virt p n => if numLoose n then none else some { pid := p, estate := numEstate n, field := numField n, vblock := numBlock n }
  | .phys .. => none

/-- The virtual core of a block's member (R56, R123). -/
def BlockId.core (b : BlockId) (m : Nat) : CoreId :=
  .virt b.pid (m + 16 * b.vblock + 1024 * b.field + 8192 * b.estate)

def BlockId.cores (b : BlockId) : List CoreId := (List.range 16).map b.core

/-- Levels of scopes (R8, R287). -/
def Scope.level : Scope → Nat
  | .thread => 0 | .core => 1 | .blk => 2 | .fld => 3 | .est => 4 | .dom => 5

def Scope.wider (a b : Scope) : Scope := if a.level < b.level then b else a

end Sys2Proof

namespace Sys2Proof.Machine

/-! ## Accessors -/

/-- What a core the state does not list holds: boot mode's reset state, or a blank virtual core (R68, R412). -/
def freshCore : CoreId → Core
  | .phys .. => bootCore
  | .virt .. => {}

/-- Entry n of a code table at reset (R151). -/
def resetCode (n : Nat) : Byte := BitVec.ofNat 8 (if n ≤ 7 then n else 240 + n)

def State.core (s : State) (c : CoreId) : Core := s.cores.get (freshCore c) c
def State.setCore (s : State) (c : CoreId) (k : Core) : State := { s with cores := s.cores.set c k }
def State.modCore (s : State) (c : CoreId) (f : Core → Core) : State := s.setCore c (f (s.core c))
def Core.ctx (k : Core) (n : Nat) : Ctx := k.ctxs.get {} n
def Core.setCtx (k : Core) (n : Nat) (x : Ctx) : Core := { k with ctxs := k.ctxs.set n x }
def State.ctx (s : State) (c : CoreId) (n : Nat) : Ctx := (s.core c).ctx n
def State.modCtx (s : State) (c : CoreId) (n : Nat) (f : Ctx → Ctx) : State :=
  s.modCore c fun k => k.setCtx n (f (k.ctx n))

/-- The core and context at issue. -/
def State.myCore (s : State) : Core := s.core s.cur.1
def State.modMyCore (s : State) (f : Core → Core) : State := s.modCore s.cur.1 f
def State.me (s : State) : Ctx := s.ctx s.cur.1 s.cur.2
def State.modMe (s : State) (f : Ctx → Ctx) : State := s.modCtx s.cur.1 s.cur.2 f

def State.pid (s : State) : Nat := s.cur.1.pid
def State.part (s : State) (p : Nat) : Part := s.parts.get {} p
def State.modPart (s : State) (p : Nat) (f : Part → Part) : State := { s with parts := s.parts.set p (f (s.part p)) }
def State.myPart (s : State) : Part := s.part s.pid
def State.block (s : State) (b : BlockId) : Block := s.blocks.get {} b
def State.modBlock (s : State) (b : BlockId) (f : Block → Block) : State :=
  { s with blocks := s.blocks.set b (f (s.block b)) }
def State.die (s : State) (d : Nat × Nat) : Die := s.dies.get {} d
def State.modDie (s : State) (d : Nat × Nat) (f : Die → Die) : State := { s with dies := s.dies.set d (f (s.die d)) }
def State.estate (s : State) (e : Nat) : Estate := s.estates.get {} e
def State.modEstate (s : State) (e : Nat) (f : Estate → Estate) : State :=
  { s with estates := s.estates.set e (f (s.estate e)) }
def State.physCore (s : State) (p : Nat × Nat × Nat) : Phys := s.phys.get {} p
def State.modPhys (s : State) (p : Nat × Nat × Nat) (f : Phys → Phys) : State :=
  { s with phys := s.phys.set p (f (s.physCore p)) }

/-! ## Registers -/

/-- g0 reads as zero (R109). -/
def Ctx.getG (x : Ctx) (r : Reg) : Word := if r = 0 then 0 else x.g.get 0 r

/-- A write to g0 is discarded; a write clears a register's error mark (R109, R258). -/
def Ctx.setG (x : Ctx) (r : Reg) (v : Word) : Ctx :=
  if r = 0 then x
  else { x with g := x.g.set r v, errs := x.errs.filter fun e => e.1 != some (.g r) }

def Ctx.getV (x : Ctx) (r : Reg) : Line := x.v.get 0 r

def Ctx.setV (x : Ctx) (r : Reg) (v : Line) : Ctx :=
  { x with v := x.v.set r v, errs := x.errs.filter fun e => e.1 != some (.v r) }

/-- k0 reads as all ones (R159). -/
def Ctx.getK (x : Ctx) (r : BitVec 3) : Word := if r = 0 then BitVec.allOnes 64 else x.k.get 0 r

/-- A write to k0 is discarded (R159). -/
def Ctx.setK (x : Ctx) (r : BitVec 3) (v : Word) : Ctx := if r = 0 then x else { x with k := x.k.set r v }

def State.readG (s : State) (r : Reg) : Word := s.me.getG r
def State.writeG (s : State) (r : Reg) (v : Word) : State := s.modMe (·.setG r v)
def State.readV (s : State) (r : Reg) : Line := s.me.getV r
def State.writeV (s : State) (r : Reg) (v : Line) : State := s.modMe (·.setV r v)

/-- A mask register named by a five-bit field (R163). -/
def regK (r : Reg) : BitVec 3 := r.truncate 3

def State.readK (s : State) (r : BitVec 3) : Word := s.me.getK r
def State.writeK (s : State) (r : BitVec 3) (v : Word) : State := s.modMe (·.setK r v)

/-- OR flags into `fflags` (R184). -/
def State.setFlags (s : State) (f : Word) : State := s.modMe fun x => { x with fflags := x.fflags ||| f }

/-! ## Advancing -/

/-- The instruction of `n` words is done: the PC moves past it and it counts as issued (R86, R134). -/
def State.retire (s : State) (n : Nat) : State :=
  s.modMe fun x => { x with pc := x.pc + BitVec.ofNat 64 (8 * n), icount := x.icount + 1 }

/-- The instruction is done and control goes to `t`. -/
def State.jump (s : State) (t : Word) : State := s.modMe fun x => { x with pc := t, icount := x.icount + 1 }

/-- An instruction that waits at issue: nothing is done, and it has not issued (R107, R257). -/
def State.stall (s : State) : State := s.modMe fun x => { x with run := .stalled }

/-- An instruction that has issued and Waits for another agent to end its wait (R47, R107); it counts as an issue (R139). -/
def State.wait (s : State) (i : Instr) : State := s.modMe fun x => { x with run := .waiting i, icount := x.icount + 1 }

/-- A value the manual leaves open: the next free number, and the state that has used it (log 5). -/
def State.useFresh (s : State) : Nat × State := (s.fresh, { s with fresh := s.fresh + 1 })

/-! ## Traps -/

def Level.code : Level → Nat
  | .app => 0 | .sup => 1 | .fw => 2

def Level.ofCode : Nat → Level
  | 0 => .app | 1 => .sup | _ => .fw

def Ctx.busy (x : Ctx) : Level → Bool
  | .app => x.busyA | .sup => x.busyS | .fw => x.busyF

def Ctx.setBusy (x : Ctx) (l : Level) (b : Bool) : Ctx :=
  match l with
  | .app => { x with busyA := b }
  | .sup => { x with busyS := b }
  | .fw => { x with busyF := b }

def Ctx.trap (x : Ctx) : Level → Trap
  | .app => x.trapA | .sup => x.trapS | .fw => x.trapF

def Ctx.setTrap (x : Ctx) (l : Level) (t : Trap) : Ctx :=
  match l with
  | .app => { x with trapA := t }
  | .sup => { x with trapS := t }
  | .fw => { x with trapF := t }

/-- Codes that `tdeleg` may send to application level (R373). -/
def delegable (c : Nat) : Bool :=
  c == 0x01 || c == 0x03 || c == 0x05 || (0x06 ≤ c && c ≤ 0x0A) || (0x0F ≤ c && c ≤ 0x1F) || c == 0x21

/-- Firmware-only codes (R373). -/
def firmwareOnly (c : Nat) : Bool := c == 0x22 || c == 0x23

/-- `Target` of R370; `none` fences the block. -/
def State.target (s : State) (code : Nat) : Option Level :=
  let x := s.me
  if x.level = .app ∧ delegable code ∧ s.myPart.tdeleg.getLsbD code ∧ x.avec ≠ 0 ∧ x.busyA = false then some .app
  else if x.level ≠ .fw ∧ s.myPart.svec ≠ 0 ∧ x.busyS = false ∧ firmwareOnly code = false then some .sup
  else if x.busyF = false then some .fw
  else none

/-- The level R370 would choose were no level BUSY and every vector set (NEST of R372). -/
def State.idealTarget (s : State) (code : Nat) : Level :=
  if s.me.level = .app ∧ delegable code ∧ s.myPart.tdeleg.getLsbD code then .app
  else if s.me.level ≠ .fw ∧ firmwareOnly code = false then .sup
  else .fw

/-- Layout of `tcause` (R372). -/
def causeWord (code from_ tlen nest orig : Nat) : Word :=
  BitVec.ofNat 64 (code % 256 + 256 * (from_ % 4) + 1024 * (tlen % 8) + 8192 * (nest % 2) + 16384 * (orig % 256))

/-- xTREC0 to xTREC7 (R373). -/
def trapRecords (words : List Word) (info : Info) : Map (BitVec 3) Word :=
  match info.race with
  | some ws => (List.range 8).map fun i => (BitVec.ofNat 3 i, ws.getD i 0)
  | none => [(0, words.getD 0 0), (1, words.getD 1 0), (2, words.getD 2 0), (3, words.getD 3 0),
             (4, info.r4), (5, info.r5), (6, info.r6), (7, 0)]

/-- The vector of a level (R371, R387). -/
def State.vector (s : State) : Level → Word
  | .app => s.me.avec
  | .sup => s.myPart.svec
  | .fw => s.myCore.fvec

/-- `Enter` of R371: the one way into a handler. -/
def State.enterTrap (s : State) (t : Level) (cause : Word) (addr : Word) (records : Map (BitVec 3) Word) : State :=
  let v := s.vector t
  s.modMe fun x =>
    let tr := { x.trap t with pc := x.pc, cause := cause, addr := addr, trec := records }
    { (x.setTrap t tr).setBusy t true with level := t, pc := v, run := .ready }

/-- A double fault at firmware level: the fence stops every context of the block and marks its remap entry (R379). A core that
belongs to no block is stopped alone (log 20). What else the fence does is `State.finishFence`. -/
def State.stopCore (s : State) (c : CoreId) : State :=
  match c.block with
  | some b => s.modBlock b fun k => { k with fenced := true, fenceDue := some 3 }
  | none => s.modCore c fun k => { k with fenced := true }

/-- TLEN: the instruction's words, 1 where none could be fetched (R372; log 21). -/
def State.tlen (s : State) : Nat := max 1 s.words.length

/-- xTREC4 of a double fault (R373): xTCAUSE of the highest busy level below firmware. -/
def Ctx.escalated (x : Ctx) : Word := if x.busyS then x.trapS.cause else if x.busyA then x.trapA.cause else 0

/-- A fault of the instruction at issue, delivered as R370 to R373 give; `fence` is what a fault that finds firmware BUSY
does. The instruction counts as issued. -/
def State.raiseOr (fence : State → State) (s : State) (code : Nat) (info : Info := {}) : State :=
  let x := s.me
  let s1 := s.modMe fun x => { x with icount := x.icount + 1, progress := x.progress.erase x.level }
  match s.target code with
  | none => fence s1
  | some t =>
    let nest := if (s.idealTarget code).code < t.code then 1 else 0
    if t = .fw ∧ x.level ≠ .fw ∧ firmwareOnly code = false then
      s1.enterTrap .fw (causeWord 0x23 x.level.code s.tlen nest code) info.addr
        (trapRecords s.words { info with r4 := x.escalated, r5 := 0, r6 := 0, race := none })
    else
      s1.enterTrap t (causeWord code x.level.code s.tlen nest 0) info.addr (trapRecords s.words info)

/-- `tret` and `tret.next` from a BUSY level (R375): FROM above the level is the level. -/
def State.trapReturn (s : State) (next : Bool) : State :=
  s.modMe fun x =>
    let t := x.trap x.level
    let from_ := Level.ofCode (t.cause.toNat / 256 % 4)
    let to_ := if from_.code ≤ x.level.code then from_ else x.level
    let len := if next then 8 * (t.cause.toNat / 1024 % 8) else 0
    { x.setBusy x.level false with level := to_, pc := t.pc + BitVec.ofNat 64 len, icount := x.icount + 1 }

end Sys2Proof.Machine
end

