-- ==== Sys2Proof/Machine/Fence.lean ====
section
/-! DEFINITION. Fencing (R379) and the fault operation every instruction uses: a fault that finds firmware BUSY fences the
block of the faulting context (R370). -/

namespace Sys2Proof.Machine

abbrev Out := Host.Outcome State Fault Refusal

/-- A fault of the instruction at issue (R369 to R373). -/
def State.raise (s : State) (code : Nat) (info : Info := {}) : State := s.raiseOr (fun s => s.stopCore s.cur.1) code info

end Sys2Proof.Machine
end

