-- ==== Sys2Proof/Machine/Clocks.lean ====
section
/-! DEFINITION. Clock vectors, releases and held vectors (R281 to R287, R296). -/

namespace Sys2Proof.Machine

/-- Index of a party's level-k unit within its parent (R281). -/
def Party.idx (p : Party) (k : Nat) : Nat :=
  match k with
  | 1 => p.ctx
  | 2 => if numLoose p.vcore then numBlock p.vcore % 16 else numCore p.vcore
  | 3 => if numLoose p.vcore then 60 + numBlock p.vcore / 16 else numBlock p.vcore
  | 4 => numField p.vcore
  | _ => numEstate p.vcore

/-- Do p and q lie in one unit of level k (1 to 5; 6 is the domain)? -/
def sameUnit (k : Nat) (p q : Party) : Bool := [1, 2, 3, 4, 5].all fun l => l < k || p.idx l == q.idx l

/-- ℓ(P, Q) of R281: the highest level at which they differ, 1 where they do not. -/
def sharedLevel (p q : Party) : Nat :=
  if p.idx 5 ≠ q.idx 5 then 5 else if p.idx 4 ≠ q.idx 4 then 4 else if p.idx 3 ≠ q.idx 3 then 3
  else if p.idx 2 ≠ q.idx 2 then 2 else 1

/-- Units at a level (R281). -/
def unitsAt (k : Nat) : Nat := match k with | 1 => 11 | 2 => 16 | 3 => 64 | 4 => 8 | _ => 64

/-- Pseudo-block of a loose core, or the core's block, as the holder of a block counter (R281, R282). -/
def counterBlock (pid vcore : Nat) : BlockId :=
  { pid := pid, estate := numEstate vcore, field := numField vcore, vblock := Party.idx { vcore := vcore } 3 }

/-- A counter held for its rollover sweep (R297). -/
def sweeping : Nat := 0xFFF0

/-- The counters of a party's own units, levels 1 to 5 (R282). -/
def State.counters (s : State) (c : CoreId) (n : Nat) : List Nat :=
  [(s.ctx c n).ctr, (s.core c).ctr, (s.block (counterBlock c.pid c.num)).ctr,
   (s.part c.pid).fieldCtr.get 0 (numEstate c.num, numField c.num), (s.estate c.estate).ctr]

/-- One more release: a counter that would reach 0xFFF0 is held there (R297). -/
def bump (n : Nat) : Nat := min sweeping (n + 1)

def partyOf (c : CoreId) (n : Nat) : Party := { vcore := c.num, ctx := n }

/-- The counters a release at the scope increments (R282). -/
def State.bumpCounters (s : State) (c : CoreId) (n : Nat) (scope : Scope) : State :=
  let s := s.modCtx c n fun x => { x with ctr := bump x.ctr }
  let s := if 2 ≤ scope.level then s.modCore c fun k => { k with ctr := bump k.ctr } else s
  let s := if 3 ≤ scope.level then s.modBlock (counterBlock c.pid c.num) fun b => { b with ctr := bump b.ctr } else s
  let s := if 4 ≤ scope.level then s.modPart c.pid fun p =>
      { p with fieldCtr := (p.fieldCtr.set (numEstate c.num, numField c.num)
                             (bump (p.fieldCtr.get 0 (numEstate c.num, numField c.num)))) } else s
  if 5 ≤ scope.level then s.modEstate c.estate fun e => { e with ctr := bump e.ctr } else s

/-- The vector a party publishes now (R285). -/
def State.snapshot (s : State) (c : CoreId) (n : Nat) (scope : Scope) : Snap :=
  { pid := c.pid, who := partyOf c n, ents := (s.ctx c n).clk, own := s.counters c n, scope := scope }

/-- A release: the vector published, and the counters moved on (R282). -/
def State.release (s : State) (c : CoreId) (n : Nat) (scope : Scope) : Snap × State :=
  (s.snapshot c n scope, s.bumpCounters c n scope)

/-- Entries with the publisher's own counters set among them (R285). -/
def Snap.full (v : Snap) : Clk :=
  [1, 2, 3, 4, 5].foldl (fun m k => m.set (k, v.who.idx k) (v.own.getD (k - 1) 0)) v.ents

def Snap.held (v : Snap) : Held := { pid := v.pid, level := 0, anchor := v.who, ents := v.full, scope := v.scope }

/-- Entry-wise maximum over the entries that pass the filter. -/
def mergeClk (keep : Nat × Nat → Bool) (m : Clk) (src : Clk) : Clk :=
  src.foldl (fun m e => if keep e.1 then m.set e.1 (max (m.get 0 e.1) e.2) else m) m

/-- Lowest level that a held vector of anchor level a keeps: the level of the anchor's sub-units, at which a thread inside the
anchor is compared with another sub-unit's parties (R253, R285, R298; log 51). -/
def levelFloor (a : Nat) : Nat := min (max (a - 1) 1) 5

def Held.floor (h : Held) : Nat := levelFloor h.level

def Held.contains (h : Held) (p : Party) : Bool := sameUnit (max h.level 1) h.anchor p

/-- `Contribute` of R285. -/
def contribute (h : Option Held) (v : Snap) : Held :=
  match h with
  | none => v.held
  | some h =>
    let a := if h.contains v.who then h.level else sharedLevel h.anchor v.who + 1
    let h1 : Held := if h.level < a then
        { h with level := a
                 ents := h.ents.filter fun e => levelFloor a ≤ e.1.1
                 contrib := [(h.anchor.idx (a - 1), if h.level = 0 then .one h.anchor else .many)] }
      else h
    let ents := mergeClk (fun e => h1.floor ≤ e.1) h1.ents v.full
    let sub := v.who.idx (h1.level - 1)
    let contrib := if 2 ≤ h1.level then
        h1.contrib.set sub (match h1.contrib.get? sub with
          | none => .one v.who
          | some w => if w = .one v.who then w else .many)
      else h1.contrib
    { h1 with ents := ents, contrib := contrib, scope := h1.scope.wider v.scope }

/-- `Saturate` of R287: every entry at levels lo to hi, but for those of own units, which are never held. -/
def saturate (lo hi : Nat) (m : Clk) : Clk :=
  ([1, 2, 3, 4, 5].filter fun k => lo ≤ k && k ≤ hi).foldl
    (fun m k => (List.range (unitsAt k)).foldl (fun m i => m.set (k, i) 0xFFFF) m) m

/-- `Join` of R286. -/
def joinHeld (t : Party) (m : Clk) (h : Held) : Clk :=
  let inside := h.contains t
  let j := if inside then h.floor else sharedLevel t h.anchor
  let m := mergeClk (fun e => j ≤ e.1 && e.2 != t.idx e.1) m h.ents
  if 2 ≤ h.level ∧ inside then
    match h.contrib.get? (t.idx (h.level - 1)) with
    | none => m
    | some w => if w = .one t then m else saturate 1 (min (h.level - 1) 4) m
  else m

def State.joinCtx (s : State) (c : CoreId) (n : Nat) (h : Held) : State :=
  s.modCtx c n fun x => { x with clk := joinHeld (partyOf c n) x.clk h }

def State.saturateCtx (s : State) (c : CoreId) (n : Nat) (hi : Nat) : State :=
  s.modCtx c n fun x => { x with clk := saturate 1 hi x.clk }

/-! ## The sync-vector store (R296) -/

/-- Entries 0x000 to 0xFF7. -/
def svCapacity : Nat := 4088

/-- Store a vector on a die; a full store loses its least recently used entry, counted in `bvevict` (R296, R303). -/
def State.storeVec (s : State) (d : Nat × Nat) (h : Held) : HeldRef × State :=
  let id := s.nextId
  let x := s.die d
  let full := svCapacity ≤ x.sv.length
  let sv := (if full then x.sv.drop 1 else x.sv) ++ [(id, h)]
  let ev := if full then x.bvevict + 0x100000000 else x.bvevict
  ({ die := d, id := id, scope := h.scope },
   { s with nextId := id + 1 }.modDie d fun x => { x with sv := sv, bvevict := ev })

/-- The vector a reference names; `none` once it is lost. -/
def State.vec (s : State) (r : HeldRef) : Option Held := Map.get? (s.die r.die).sv r.id

/-- A use makes the entry the most recent. -/
def State.touchVec (s : State) (r : HeldRef) : State :=
  match s.vec r with
  | none => s
  | some h => s.modDie r.die fun x => { x with sv := Map.erase x.sv r.id ++ [(r.id, h)] }

/-- Replace the vector a reference names, or store it anew. -/
def State.contributeRef (s : State) (d : Nat × Nat) (r : Option HeldRef) (v : Snap) : Option HeldRef × State :=
  match r with
  | none =>
    let (r, s) := s.storeVec d v.held
    (some r, s)
  | some r =>
    match s.vec r with
    | none => (some { r with scope := r.scope.wider v.scope }, s)
    | some h =>
      let h' := contribute (some h) v
      (some { r with scope := h'.scope },
       s.modDie r.die fun x => { x with sv := Map.erase x.sv r.id ++ [(r.id, h')] })

/-- Acquire a held vector: join it, or saturate up to `lost` levels where it is lost (R286, R287). -/
def State.acquireRef (s : State) (c : CoreId) (n : Nat) (r : Option HeldRef) (lost : HeldRef → Nat) : State :=
  match r with
  | none => s
  | some r =>
    match s.vec r with
    | some h => (s.touchVec r).joinCtx c n h
    | none => s.saturateCtx c n (lost r)

end Sys2Proof.Machine
end

