-- ==== Sys2Proof/WellFormed.lean ====
section
/-! DEFINITION. Which encodings are instructions (R94, R102, R111 to R115, R163 to R183, R199, R255, R322, R333, R345): the
fields an instruction does not accept are zero, types and orders are among those it accepts. A device step has no encoding
and is well formed. -/

namespace Sys2Proof

namespace ETy

/-- The type's code (R87). -/
def code : ETy → Nat
  | i8 => 0 | i16 => 1 | i32 => 2 | i64 => 3 | n8 => 4 | n16 => 5 | n32 => 6 | n64 => 7
  | f64 => 8 | f32 => 9 | f16 => 10 | bf16 => 11 | f8 => 12 | f8w => 13 | p => 14 | c4 => 15

/-- Width in bits; a bit-plane byte counts 8 and a code 4 (R140, R141, R150). -/
def width : ETy → Nat
  | i8 | n8 | f8 | f8w | p => 8
  | i16 | n16 | f16 | bf16 => 16
  | i32 | n32 | f32 => 32
  | i64 | n64 | f64 => 64
  | c4 => 4

/-- Lanes of a vector register (R158). -/
def lanes (t : ETy) : Nat := 512 / t.width

/-- Codes 0x0 to 0x7, the I of R163. -/
def isInt : ETy → Bool
  | i8 | i16 | i32 | i64 | n8 | n16 | n32 | n64 => true
  | _ => false

/-- An iN type. -/
def isSigned : ETy → Bool
  | i8 | i16 | i32 | i64 => true
  | _ => false

/-- Codes 0x8 to 0xD, the F of R163. -/
def isFloat : ETy → Bool
  | f64 | f32 | f16 | bf16 | f8 | f8w => true
  | _ => false

/-- Codes 0x0 to 0xD, the A of R163. -/
def isAny (t : ETy) : Bool := t.isInt || t.isFloat

/-- The types of the frozen functions (R157). -/
def isFrozen : ETy → Bool
  | f32 | f16 | bf16 => true
  | _ => false

end ETy

/-- The unsigned and ordered-only conditions of R167. -/
def Cond.isUnsigned : Cond → Bool
  | .ltu | .geu | .gtu | .leu => true
  | _ => false

/-- How an instruction of format A names a register field. -/
inductive RegUse where
  /-- not named: must be zero -/
  | none
  | reg
  /-- a mask register, 0 to 7 -/
  | mask
deriving DecidableEq, Repr

def RegUse.ok : RegUse → Reg → Bool
  | .none, r => r == 0
  | .reg, _ => true
  | .mask, r => r.ult 8

/-- What a format-A instruction accepts: its register fields, source modifiers, clamp, scale, rounding field and mask. -/
structure SigA where
  d : RegUse := .reg
  a : RegUse := .reg
  b : RegUse := .reg
  c : RegUse := .none
  mods : Bool := false
  clamp : Bool := false
  scale : Bool := false
  rnd : Bool := false
  k : Bool := false
deriving DecidableEq, Repr

def modOk (accept : Bool) (u : RegUse) (m : BitVec 2) : Bool := (accept && u != .none) || m == 0

/-- The fields of `o` are among those the instruction accepts; the rounding codes are 0 to 4 (R143; log 18). -/
def SigA.ok (g : SigA) (o : OpA) : Bool :=
  g.d.ok o.d && g.a.ok o.a && g.b.ok o.b && g.c.ok o.c
  && modOk g.mods g.a o.ma && modOk g.mods g.b o.mb && modOk g.mods g.c o.mc
  && (g.clamp || !o.clamp) && (g.scale || o.scale == 0)
  && (if g.rnd then o.rnd.ult 5 else o.rnd == 0) && (g.k || o.k == 0)

/-- Class 0x0, register form (R111, R112). -/
def wfInt (o : OpA) (clamp : Bool := false) (b : RegUse := .reg) : Bool :=
  SigA.ok { clamp := clamp, b := b } o && o.ty.isInt

/-- Type 0x3 only, with the register fields named (R117, R119, R124 and others). -/
def wfPlain (o : OpA) (d a b : RegUse) (c : RegUse := .none) : Bool :=
  SigA.ok { d := d, a := a, b := b, c := c } o && o.ty == .i64

/-- Scalar float with every modifier (R165). -/
def wfF (o : OpA) (b c : RegUse) : Bool :=
  SigA.ok { b := b, c := c, mods := true, clamp := true, scale := true, rnd := true } o && o.ty.isFloat

def wfFrozen (o : OpA) (k : Bool) : Bool :=
  SigA.ok { b := .none, mods := true, clamp := true, scale := true, k := k } o && o.ty.isFrozen

/-- Vector arithmetic with every modifier (R172). -/
def wfV (o : OpA) (b c : RegUse) : Bool :=
  SigA.ok { b := b, c := c, mods := true, clamp := true, scale := true, rnd := true, k := true } o

/-- Vector forms that accept a mask alone. -/
def wfVk (o : OpA) (b : RegUse := .reg) (c : RegUse := .none) : Bool :=
  SigA.ok { b := b, c := c, k := true } o

def wfRed (o : OpA) : Bool :=
  SigA.ok { b := .none, clamp := true, scale := true, rnd := true, k := true } o

/-- Mask instructions (R183). -/
def wfK (o : OpA) (d a b : RegUse) : Bool := SigA.ok { d := d, a := a, b := b } o && o.ty.isAny

/-- The conversion types and part number (R168). -/
def cvtOk (dst src : ETy) (part : BitVec 3) : Bool :=
  dst.isAny && src.isAny && decide (part.toNat < max dst.width src.width / min dst.width src.width)

/-- Common checks of format M (R93, R94): a non-plain order names a scope, and the order is accepted. -/
def wfM (o : OpM) (orders : List Order) (streams : Bool) : Bool :=
  orders.contains o.order && (o.order == .plain || o.scope != .thread) && (streams || o.stream == 0)

def typeLe13 (t : BitVec 4) : Bool := t.ult 14

/-- Types 0x2, 0x3 and 0x6 to 0x9 (R255, R273). -/
def typeAtomic (t : BitVec 4) : Bool := t == 2 || t == 3 || (t.ult 10 && !t.ult 6)

def typeAtomicInt (t : BitVec 4) : Bool := t == 2 || t == 3 || t == 6 || t == 7

/-- One vector, or a pair whose register is even (R255, R262). -/
def wfPair (o : OpM) : Bool := o.shape == 1 || (o.shape == 2 && !o.data.getLsbD 0)

def wfAmo (o : OpM) (float : Bool) : Bool :=
  wfM o [.plain, .acq, .rel, .acqrel, .rlx] false && o.scale == 0 && o.shape == 0
  && (if float then typeAtomic o.ty else typeAtomicInt o.ty)

def wfRedM (o : OpM) (float : Bool) : Bool :=
  wfM o [.plain, .rel, .rlx] true && o.scale == 0 && o.shape == 0 && o.data == 0
  && (if float then typeAtomic o.ty else typeAtomicInt o.ty)

/-- Word 1 of format E (R96, R97). -/
def EW.ok (w : EW) : Bool :=
  (w.wThr != 0 || w.wIdx == 0) && (w.sInc != 0 || w.sIdx == 0) && ((w.fa || w.fr) == (w.scope != .thread))

/-- A copy-engine command (R333): `cmdOk` bounds the word-0 command bits; word-1 bits [25:16] are zero. -/
def wfE (o : OpE) (d a b c : RegUse) (cmdOk : Bool) : Bool :=
  d.ok o.d && a.ok o.a && b.ok o.b && c.ok o.c && cmdOk && o.w.ok && o.w.cmd.ult 0x10000

/-- A matrix command (R199). `sig`: wait and signal; `rel`: R with a scope; `ao`: A and O. -/
def wfX (o : OpE) (d a b : RegUse) (cmdOk wait sig rel ao : Bool) : Bool :=
  d.ok o.d && a.ok o.a && b.ok o.b && o.c == 0 && cmdOk && o.w.ok && o.w.cmd == 0
  && (wait || o.w.wThr == 0) && (sig || o.w.sInc == 0) && (rel || !o.w.fr) && (ao || (!o.w.fa && !o.w.fo))

/-- First slot and count of a claim range stay within o63 (R199, R200). -/
def rangeOk (o : OpE) : Bool :=
  o.cmd.ult 0x1000 && decide ((o.cmd.extractLsb' 0 6).toNat + (o.cmd.extractLsb' 6 6).toNat ≤ 63)

/-- Format S (R100, R345). -/
def wfS (o : OpS) (d a : RegUse) (idx : Bool) (orders : List Order) (count : Bool) : Bool :=
  d.ok o.d && a.ok o.a && idx && orders.contains o.order
  && ((o.order == .plain) == (o.scope == .thread)) && count

/-- Special registers whose `sset` has an opcode-table row of its own (R104, R135, R300, R384, R313, R383, R409, R421,
R413 to R415). -/
def ownRow (n : BitVec 12) : Bool :=
  n == 0x012 || n == 0x005 || n == 0x100 || n == 0xF11 || n == 0xF12 || n == 0xF10 || n == 0x513 || n == 0x550
  || n == 0x530 || n == 0x531 || n == 0x532 || n == 0x533 || n == 0x536 || n == 0x539

/-- Level of a special register (R134, R208, R227, R303, R342, R361, R387, R403, R411, R416, R418, R421): 0 application,
1 supervisor, 2 firmware; `none` where no chapter assigns the number (R133). -/
def sregLevel (n : Nat) : Option Nat :=
  if n ≤ 0x012 then some 0
  else if n == 0x100 || n == 0x101 || n == 0x102 || n == 0x103 || n == 0x104 then some 1
  else if 0x105 ≤ n && n ≤ 0x108 then some 0
  else if 0x109 ≤ n && n ≤ 0x10B then some 1
  else if 0x180 ≤ n && n ≤ 0x18F then some 0
  else if 0x1C0 ≤ n && n ≤ 0x1C6 then some 0
  else if n == 0x205 then some 1
  else if 0x200 ≤ n && n ≤ 0x207 then some 0
  else if n == 0x210 || n == 0x211 then some 0
  else if 0x212 ≤ n && n ≤ 0x214 then some 1
  else if 0x240 ≤ n && n ≤ 0x27F then some 0
  else if n == 0x2C0 || n == 0x2C1 then some 1
  else if n ≤ 0x305 && 0x300 ≤ n then some 0
  else if 0x308 ≤ n && n ≤ 0x30F then some 0
  else if 0x310 ≤ n && n ≤ 0x315 then some 1
  else if 0x318 ≤ n && n ≤ 0x31F then some 1
  else if n == 0x320 || n == 0x32B || n == 0x32C then some 0
  else if 0x321 ≤ n && n ≤ 0x32A then some 1
  else if n == 0x32D then some 1
  else if n == 0x401 then some 0
  else if 0x400 ≤ n && n ≤ 0x406 then some 1
  else if n == 0x501 || n == 0x503 || n == 0x504 || n == 0x505 then some 1
  else if n == 0x500 || n == 0x502 || (0x506 ≤ n && n ≤ 0x508) then some 2
  else if n == 0x512 then some 0
  else if n == 0x510 || n == 0x511 || n == 0x513 || n == 0x514 then some 1
  else if 0x530 ≤ n && n ≤ 0x539 then some 2
  else if 0x540 ≤ n && n ≤ 0x544 then some 2
  else if n == 0x550 || n == 0x551 then some 2
  else if n == 0xE00 then some 0
  else if 0xE10 ≤ n && n ≤ 0xE1B then some 0
  else if 0xF00 ≤ n && n ≤ 0xF05 then some 2
  else if 0xF08 ≤ n && n ≤ 0xF13 then some 2
  else none

/-- Barrier number and quota of `bar` and `barcfg` (R345). -/
def barOk (fld : Bool) (o : OpS) : Bool := if fld then o.idx.ult 8 else o.idx.ult 16

/-- `mmac` words 2 and 3 of a linked group (R99): no wait, no A, no O. -/
def wfMmac (o : OpE) (linked : Bool) : Bool :=
  wfX o .none .none .none (o.cmd.ult 0x8000) (!linked) true true false

/-- Is the instruction one the X8 encodes? `false` raises the illegal-instruction fault (R102). -/
def WellFormed : Instr → Bool
  | .add o => wfInt o (clamp := true)
  | .sub o => wfInt o (clamp := true)
  | .mul o => wfInt o (clamp := true)
  | .mulh o => wfInt o
  | .mulhu o => wfInt o
  | .div o => wfInt o (clamp := true)
  | .divu o => wfInt o
  | .rem o => wfInt o
  | .remu o => wfInt o
  | .and o => wfInt o
  | .or o => wfInt o
  | .xor o => wfInt o
  | .andn o => wfInt o
  | .shl o => wfInt o (clamp := true)
  | .shr o => wfInt o
  | .sar o => wfInt o
  | .rol o => wfInt o
  | .min o => wfInt o
  | .max o => wfInt o
  | .minu o => wfInt o
  | .maxu o => wfInt o
  | .cset c o => wfInt o && c != .al
  | .sel o => wfPlain o .reg .reg .reg .reg
  | .bext o => wfInt o && (o.ty == .i64 || o.ty == .n64)
  | .bins o => wfInt o && (o.ty == .i64 || o.ty == .n64)
  | .clz o => wfInt o (b := .none)
  | .ctz o => wfInt o (b := .none)
  | .popc o => wfInt o (b := .none)
  | .brev o => wfInt o (b := .none)
  | .addi o => o.ty.isInt
  | .subi o => o.ty.isInt
  | .muli o => o.ty.isInt
  | .andi o => o.ty.isInt
  | .ori o => o.ty.isInt
  | .xori o => o.ty.isInt
  | .shli o => o.ty.isInt && o.imm.ult 64
  | .shri o => o.ty.isInt && o.imm.ult 64
  | .sari o => o.ty.isInt && o.imm.ult 64
  | .cseti c o => o.ty.isInt && c != .al
  | .movi o => o.ty.isInt && o.a == 0
  | .movl o => (o.ty == .i64 || o.ty == .n64) && o.a == 0
  | .addl o => o.ty == .i64 || o.ty == .n64
  | .andl o => o.ty == .i64 || o.ty == .n64
  | .orl o => o.ty == .i64 || o.ty == .n64
  | .b c _ x y _ => c != .al || (x == 0 && y == 0)
  | .call _ _ _ => true
  | .jr o => wfPlain o .none .reg .none
  | .callr o => wfPlain o .reg .reg .none
  | .hstart o => wfPlain o .reg .reg .reg
  | .hstop o => wfPlain o .none .none .none
  | .fdone o => wfPlain o .none .none .none
  | .yield o => wfPlain o .none .none .none
  | .fadd o => wfF o .reg .none
  | .fsub o => wfF o .reg .none
  | .fmul o => wfF o .reg .none
  | .fdiv o => wfF o .reg .none
  | .fsqrt o => wfF o .none .none
  | .ffma o => wfF o .reg .reg
  | .ffms o => wfF o .reg .reg
  | .fmin o => SigA.ok { mods := true } o && o.ty.isFloat
  | .fmax o => SigA.ok { mods := true } o && o.ty.isFloat
  | .fcset c o => SigA.ok { mods := true } o && o.ty.isFloat && c != .al && !c.isUnsigned
  | .fcvt src o => SigA.ok { b := .none, mods := true, clamp := true, scale := true, rnd := true } o
      && o.ty.isAny && src.isAny && (o.ty.isFloat || src.isFloat)
  | .frcp o => wfFrozen o false
  | .frsq o => wfFrozen o false
  | .fexp2 o => wfFrozen o false
  | .flog2 o => wfFrozen o false
  | .fclass o => SigA.ok { b := .none } o && o.ty.isFloat
  | .fround o => SigA.ok { b := .none, mods := true, rnd := true } o && o.ty.isFloat
  | .vadd o => wfV o .reg .none && o.ty.isAny
  | .vsub o => wfV o .reg .none && o.ty.isAny
  | .vmul o => wfV o .reg .none && o.ty.isAny
  | .vmulh o => wfVk o && o.ty.isInt
  | .vfma o => wfV o .reg .reg && o.ty.isAny
  | .vfms o => wfV o .reg .reg && o.ty.isAny
  | .vdiv o => wfV o .reg .none && o.ty.isFloat
  | .vsqrt o => wfV o .none .none && o.ty.isFloat
  | .vmin o => SigA.ok { mods := true, k := true } o && o.ty.isAny
  | .vmax o => SigA.ok { mods := true, k := true } o && o.ty.isAny
  | .vand o => wfVk o && o.ty.isInt
  | .vor o => wfVk o && o.ty.isInt
  | .vxor o => wfVk o && o.ty.isInt
  | .vandn o => wfVk o && o.ty.isInt
  | .vshl o => SigA.ok { clamp := true, k := true } o && o.ty.isInt
  | .vshr o => wfVk o && o.ty.isInt
  | .vsar o => wfVk o && o.ty.isInt
  | .vcmp c o => SigA.ok { d := .mask, mods := true, k := true } o && o.ty.isAny && c != .al
      && !(o.ty.isFloat && c.isUnsigned)
  | .vsel o => wfVk o && o.ty.isAny
  | .vcvt part src o => wfV o .none .none && cvtOk o.ty src part
  | .vrcp o => wfFrozen o true
  | .vrsq o => wfFrozen o true
  | .vexp2 o => wfFrozen o true
  | .vlog2 o => wfFrozen o true
  | .vbcst o => wfVk o .none && o.ty.isAny
  | .vmovi o => o.ty.isAny && o.a == 0
  | .vshuf o => wfVk o .reg .reg && o.ty.isAny
  | .vperm m o => wfVk o .none && o.ty.isAny && decide (m.toNat < o.ty.lanes)
  | .vslideDn o => wfVk o .reg .reg && o.ty.isAny
  | .vslideUp o => wfVk o .reg .reg && o.ty.isAny
  | .vredAdd o => wfRed o && o.ty.isAny
  | .vredMin o => wfRed o && o.ty.isAny
  | .vredMax o => wfRed o && o.ty.isAny
  | .vredAnd o => wfRed o && o.ty.isInt
  | .vredOr o => wfRed o && o.ty.isInt
  | .vredXor o => wfRed o && o.ty.isInt
  | .vlut _ o => wfVk o .none && o.ty == .c4
  | .ctld o => SigA.ok { d := .none, b := .none } o && o.ty == .i8
  | .vpack o => SigA.ok { b := .none } o && o.ty == .p
  | .vunpk _ planes o => wfVk o .none && (o.ty == .i8 || o.ty == .n8) && !planes.ult 2 && planes.ult 9
  | .vext o => SigA.ok {} o && o.ty.isAny
  | .vins o => SigA.ok {} o && o.ty.isAny
  | .vcompress o => wfVk o .none && o.ty.isAny
  | .vexpand o => wfVk o .none && o.ty.isAny
  | .kand o => wfK o .mask .mask .mask
  | .kor o => wfK o .mask .mask .mask
  | .kxor o => wfK o .mask .mask .mask
  | .kandn o => wfK o .mask .mask .mask
  | .knot o => wfK o .mask .mask .none
  | .kmovKFromG o => wfK o .mask .reg .none
  | .kmovGFromK o => wfK o .reg .mask .none
  | .kpopc o => wfK o .reg .mask .none
  | .kseti o => o.ty.isAny && o.a == 0 && o.d.ult 8
  | .vmov o => wfVk o .none && o.ty.isAny
  | .ld o => wfM o [.plain, .acq, .rlx] false && o.shape == 0 && typeLe13 o.ty
  | .st o => wfM o [.plain, .rel, .rlx] true && o.shape == 0 && typeLe13 o.ty
  | .vld o => wfM o [.plain, .acq] false && wfPair o && typeLe13 o.ty
  | .vst o => wfM o [.plain, .rel] true && wfPair o && typeLe13 o.ty
  | .stm o => wfM o [.plain, .rel, .rlx] true && o.shape == 0 && typeLe13 o.ty && o.scale.ult 2
  | .vstm o => wfM o [.plain, .rel] true && wfPair o && typeLe13 o.ty && o.scale.ult 2
  | .vgat o => wfM o [.plain] false && o.shape == 1 && typeAtomic o.ty
  | .vsct o => wfM o [.plain] true && o.shape == 1 && typeAtomic o.ty
  | .pref o => wfM o [.plain] false && o.scope == .thread && o.shape == 0 && o.ty == 3 && o.data == 0
  | .sclose o => wfM o [.plain] true && o.scope == .thread && o.shape == 0 && o.ty == 0 && o.data == 0
      && o.base == 0 && o.index == 0 && o.scale == 0 && o.off == 0
  | .amoAdd o => wfAmo o true
  | .amoAnd o => wfAmo o false
  | .amoOr o => wfAmo o false
  | .amoXor o => wfAmo o false
  | .amoMin o => wfAmo o true
  | .amoMax o => wfAmo o true
  | .amoSwap o => wfAmo o true
  | .amoCas o => wfAmo o true
  | .redAdd o => wfRedM o true
  | .redAnd o => wfRedM o false
  | .redOr o => wfRedM o false
  | .redXor o => wfRedM o false
  | .redMin o => wfRedM o true
  | .redMax o => wfRedM o true
  | .post o => wfPlain o .reg .reg .reg
  | .xget o => wfPlain o .reg .reg .none
  | .xtry o => wfPlain o .reg .reg .reg
  | .xpeek o => wfPlain o .reg .reg .reg
  | .rld o => (if o.shape == 0 then wfM o [.plain, .acq, .rlx] false else wfM o [.plain, .acq] false && wfPair o)
      && o.ty == 3
  | .ins o => wfM o [.plain] false && o.scope == .thread && o.shape == 0 && o.ty.ult 2 && o.data == 0
  | .insGrant o => wfM o [.plain] false && o.scope == .thread && o.shape == 0 && o.ty.ult 2
  | .probe o => wfPlain o .reg .reg .reg .reg && !o.c.getLsbD 0
  | .take o => wfPlain o .reg .reg .reg
  | .rset o => wfPlain o .reg .reg .reg
  | .rget o => wfPlain o .reg .reg .reg
  | .cpy o => wfE o .reg .reg .reg .none (o.cmd == 0)
  | .cpyt o => wfE o .reg .reg .reg .reg (o.cmd == 0)
  | .cpySlot o => wfE o .none .reg .reg .none (o.cmd.ult 64)
  | .cpySlotLink o m _ => wfE o .none .reg .reg .none (o.cmd.ult 64) && wfMmac m true
  | .cpyDeal o => wfE o .reg .reg .reg .none (o.cmd == 0)
  | .cpyMc o => wfE o .reg .reg .reg .reg (o.cmd == 0)
  | .cpyStamp o => wfE o .reg .reg .reg .none (o.cmd == 0)
  | .cpyFill o => wfE o .reg .reg .reg .none (o.cmd == 0)
  | .cnop o => wfE o .none .none .none .none (o.cmd == 0)
  | .mclaim o => wfX o .none .none .none (rangeOk o) false false false false
  | .mclaimSh o => wfX o .none .none .none (rangeOk o) false false false false
  | .mclaimTry o => wfX o .reg .none .none (rangeOk o) false false false false
  | .mclaimShtry o => wfX o .reg .none .none (rangeOk o) false false false false
  | .mrel o => wfX o .none .none .none (rangeOk o) false false false false
  | .mfmt o => wfX o .reg .none .none (o.cmd == 0) false false false false
  | .mzero o => wfX o .none .none .none (o.cmd.ult 8) true true false false
  | .mmac o => wfMmac o false
  | .mmacSet o => wfMmac o false
  | .macc o => wfX o .reg .reg .reg (o.cmd.ult 8) false false false false
  | .mst o => wfX o .reg .reg .none (o.cmd.ult 8) true true true true
  | .swait o => wfS o .none .none true [.plain, .acq] true
  | .ssig o => wfS o .none .none true [.plain, .rel] (o.count != 0)
  | .stry o => wfS o .reg .none true [.plain, .acq] true
  | .smrd o => wfS o .reg .none true [.plain] (o.count == 0)
  | .smset o => wfS o .none .reg true [.plain] (o.count == 0)
  | .bar fld o => wfS o .none .none (barOk fld o) [.plain] (o.count == 0)
  | .barcfg fld o => wfS o .reg .reg (barOk fld o) [.plain]
      (o.count != 0 && (if fld then o.count.ult 256 else o.count.ult 12))
  | .wstill o => wfS o .reg .none (o.idx == 0) [.plain] (o.count == 0)
  | .sget _ n => (sregLevel n.toNat).isSome
  | .sset n _ => (sregLevel n.toNat).isSome && !ownRow n
  | .trap _ => true
  | .tret => true
  | .tretNext => true
  | .tlbiAsid _ => true
  | .tlbiPage _ _ => true
  | .tlbiAll => true
  | .pgdone _ _ _ => true
  | .gstop _ => true
  | .gstopGo _ => true
  | .brk => true
  | .deferredEncoding w => w.extractLsb' 60 4 == 0xF
  | .cmpqWrite _ => true
  | .rmodeWrite _ => true
  | .bvmodeWrite _ => true
  | .preempt _ => true
  | .blkcmdThaw _ => true
  | .blkcmdRevive _ => true
  | .ptcommit _ => true
  | .dbgctlHalt _ => true
  | .hostirq _ => true
  | .pwrlimWrite _ => true
  | .nbpost _ _ => true
  | .cwgo _ => true
  | .cmapvalWrite _ => true
  | .fabcmdOpen _ => true
  | .fabcmdClose _ _ => true
  | .routeImageRead _ _ => true
  | .reconfigQuiesceEnd _ => true
  | .drainMarker _ _ => true
  | .reconfigDark _ => true
  | .linkTrainComplete _ _ => true
  | .flitReceive _ _ _ => true
  | .resendRequest _ _ => true
  | .cumulativeAck _ _ => true
  | .allowanceReturn _ _ _ => true
  | .fecWindowEnd _ _ _ _ => true
  | .laneLoss _ _ _ _ => true
  | .laneRejoin _ _ _ => true
  | .linkDown _ => true
  | .packageFailure _ _ => true
  | .bankCommitInsertions _ _ _ => true
  | .sluiceDecision _ _ => true
  | .polderRequestServe _ _ _ => true
  | .firingDispatch _ _ => true
  | .firingStart _ => true
  | .blockFiringStart _ => true
  | .fieldFiringStart _ _ _ => true
  | .coresideSetStart _ _ => true
  | .fetchLine _ _ _ => true
  | .insertionSend _ _ => true
  | .insertionRetry _ _ => true
  | .insertionAck _ _ => true
  | .polderFullReport _ _ => true
  | .roundClose _ => true
  | .leveeSample _ => true
  | .barrierWatchdog _ _ _ _ _ => true
  | .inletTileWrite _ _ _ _ _ => true
  | .inletPayloadWrite _ _ _ => true
  | .inletApertureRead _ _ _ => true
  | .inletInsert _ => true
  | .inletAccept _ _ _ => true
  | .postArrival _ => true
  | .postSend _ => true
  | .heldPostApply _ _ => true
  | .mailboxOverrunReport _ => true
  | .overflowPostResend _ => true
  | .rldReply _ => true
  | .loadReply _ => true
  | .lateReply _ => true
  | .remoteRequestTimeout _ => true
  | .tagQuarantineEnd _ _ => true
  | .loadPerform _ => true
  | .storeArrival _ => true
  | .weirResend _ => true
  | .storeAck _ => true
  | .closeMarkerCommit _ => true
  | .weirEntryTimeout _ _ _ _ => true
  | .storeFailureNotice _ => true
  | .releaseSend _ => true
  | .atomicPerform _ => true
  | .rolloverSweepComplete _ _ => true
  | .pageWalkComplete _ _ => true
  | .swapThresholdExpiry _ => true
  | .swapOut _ => true
  | .shadowSwitchComplete _ => true
  | .imageValid _ => true
  | .spillFailure _ => true
  | .readmission _ => true
  | .resize _ _ => true
  | .fieldMove _ _ _ _ => true
  | .copyCommandStart _ _ => true
  | .copyPiece _ _ _ => true
  | .copyCommandComplete _ _ => true
  | .linkedMmacHandover _ _ => true
  | .matrixGrant _ => true
  | .matrixStepEnd _ => true
  | .mmacFinish _ => true
  | .mstCapture _ _ => true
  | .mstComplete _ _ => true
  | .semaphoreCycle _ => true
  | .supervisorNotice _ => true
  | .fence _ _ => true
  | .fencePropagate _ => true
  | .uncorrectableError _ _ _ => true
  | .haltArrival _ => true
  | .powerThrottle _ _ => true
  | .coldReset _ => true
  | .warmReset => true
  | .cxlPortTrain _ _ _ _ => true
  | .causewayLine _ => true
  | .causewayDone _ _ => true
  | .hostCompletion _ _ _ => true
  | .mgmtSetPowerLimit _ _ => true
  | .mgmtReadPower _ => true
  | .mgmtCommitPartition _ _ => true
  | .mgmtReadEventRecorder _ _ _ _ => true
  | .mgmtReadAttestation _ => true
  | .readmissionHoldResend _ => true
  | .slotReopenHoldEnd _ _ _ _ => true
  | .imageLineExchange _ => true
  | .fieldMoveCopyDone _ _ _ => true
  | .clusterServiceTest _ _ _ _ => true
  | .inletGrantChange _ _ _ => true
  | .inletSlotAssign _ _ => true
  | .linkKeyLoad _ _ _ => true

end Sys2Proof
end

