-- ==== Sys2Proof/Decode.lean ====
section
/-! DEFINITION. From words to instructions (R86 to R106): fields are cut out here, once, and the well-formedness check
refuses what the opcode's instruction does not accept. The encoder after it is written from the same tables. -/

namespace Sys2Proof

/-- Why an encoding is no instruction; every one of them raises the illegal-instruction fault (R102). -/
inductive DecodeError where
  /-- fewer words than the major opcode asks for -/
  | truncated
  /-- classes 0xD and 0xE, reserved majors of classes 0x0 to 0xC -/
  | reservedMajor
  /-- minor function not defined in the family -/
  | badMinor
  /-- a reserved bit that is not zero -/
  | reservedBits
  /-- condition, hint, order or scope code not in use -/
  | badCode
  /-- the link bit outside major 0x92, or word 2 of a group not an `mmac` -/
  | badLink
  /-- a field the instruction does not accept (`WellFormed` is false) -/
  | illFormed
deriving DecidableEq, Repr

def ETy.ofBits (b : BitVec 4) : ETy :=
  match b.toNat with
  | 0 => .i8 | 1 => .i16 | 2 => .i32 | 3 => .i64 | 4 => .n8 | 5 => .n16 | 6 => .n32 | 7 => .n64
  | 8 => .f64 | 9 => .f32 | 10 => .f16 | 11 => .bf16 | 12 => .f8 | 13 => .f8w | 14 => .p | _ => .c4

def Cond.ofCode : Nat → Option Cond
  | 0 => some .al | 1 => some .eq | 2 => some .ne | 3 => some .lt | 4 => some .ge | 5 => some .ltu
  | 6 => some .geu | 7 => some .gt | 8 => some .le | 9 => some .gtu | 10 => some .leu | _ => none

def Cond.code : Cond → Nat
  | .al => 0 | .eq => 1 | .ne => 2 | .lt => 3 | .ge => 4 | .ltu => 5
  | .geu => 6 | .gt => 7 | .le => 8 | .gtu => 9 | .leu => 10

def Scope.ofCode : Nat → Option Scope
  | 0 => some .thread | 1 => some .core | 2 => some .blk | 3 => some .fld | 4 => some .est | 5 => some .dom | _ => none

def Scope.code : Scope → Nat
  | .thread => 0 | .core => 1 | .blk => 2 | .fld => 3 | .est => 4 | .dom => 5

def Order.ofCode : Nat → Option Order
  | 0 => some .plain | 1 => some .acq | 2 => some .rel | 3 => some .acqrel | 4 => some .rlx | _ => none

def Order.code : Order → Nat
  | .plain => 0 | .acq => 1 | .rel => 2 | .acqrel => 3 | .rlx => 4

def Hint.ofCode : Nat → Option Hint
  | 0 => some .none | 1 => some .taken | 2 => some .notTaken | _ => Option.none

def Hint.code : Hint → Nat
  | .none => 0 | .taken => 1 | .notTaken => 2

/-- Major opcode of a first word (R86). -/
def majorOf (w : Word) : Nat := (w.extractLsb' 56 8).toNat

/-- Number of words of the instruction a first word begins (R86). -/
def wordCount (w : Word) : Nat :=
  let m := majorOf w
  if m = 0x92 ∧ w.getLsbD 25 then 4
  else if m = 0x0F ∨ m / 16 = 9 ∨ m / 16 = 10 then 2
  else 1

/-- Format A (R88), but for the operation. -/
def parseA (w : Word) : OpA :=
  { d := w.extractLsb' 51 5, a := w.extractLsb' 46 5, b := w.extractLsb' 41 5, c := w.extractLsb' 36 5
    k := w.extractLsb' 33 3, ty := ETy.ofBits (w.extractLsb' 29 4)
    ma := w.extractLsb' 27 2, mb := w.extractLsb' 25 2, mc := w.extractLsb' 23 2
    clamp := w.getLsbD 22, scale := w.extractLsb' 18 4, rnd := w.extractLsb' 15 3 }

/-- Operation field [14:8] of format A (R88, R163). -/
def opOf (w : Word) : Nat := (w.extractLsb' 8 7).toNat

/-- Format I (R91). -/
def parseI (w : Word) : OpI :=
  { d := w.extractLsb' 51 5, a := w.extractLsb' 46 5, ty := ETy.ofBits (w.extractLsb' 32 4), imm := w.extractLsb' 0 32 }

/-- Minor field [45:36] of formats I and X. -/
def minorI (w : Word) : Nat := (w.extractLsb' 36 10).toNat

/-- Format X (R92). -/
def parseX (w w1 : Word) : OpX :=
  { d := w.extractLsb' 51 5, a := w.extractLsb' 46 5, ty := ETy.ofBits (w.extractLsb' 32 4), imm := w1 }

/-- Format M (R93). -/
def parseM (w : Word) : Except DecodeError OpM :=
  match Order.ofCode (w.extractLsb' 38 3).toNat, Scope.ofCode (w.extractLsb' 35 3).toNat with
  | some order, some scope =>
    .ok { data := w.extractLsb' 51 5, base := w.extractLsb' 46 5, index := w.extractLsb' 41 5, order := order
          scope := scope, stream := w.extractLsb' 32 3, scale := w.extractLsb' 30 2, shape := w.extractLsb' 28 2
          ty := w.extractLsb' 24 4, off := w.extractLsb' 0 24 }
  | _, _ => .error .badCode

/-- Word 1 of format E (R96). -/
def parseEW (w : Word) : Except DecodeError EW :=
  match Scope.ofCode (w.extractLsb' 26 3).toNat with
  | some scope =>
    .ok { wIdx := w.extractLsb' 56 8, wThr := w.extractLsb' 48 8, sIdx := w.extractLsb' 40 8, sInc := w.extractLsb' 32 8
          fa := w.getLsbD 31, fr := w.getLsbD 30, fo := w.getLsbD 29, scope := scope, cmd := w.extractLsb' 0 26 }
  | none => .error .badCode

/-- Format E (R96). -/
def parseE (w w1 : Word) : Except DecodeError OpE :=
  match parseEW w1 with
  | .ok ew => .ok { d := w.extractLsb' 51 5, a := w.extractLsb' 46 5, b := w.extractLsb' 41 5, c := w.extractLsb' 36 5
                    cmd := w.extractLsb' 0 25, w := ew }
  | .error e => .error e

/-- Minor field [35:26] of format E. -/
def minorE (w : Word) : Nat := (w.extractLsb' 26 10).toNat

/-- Format S (R100). -/
def parseS (w : Word) : Except DecodeError OpS :=
  match Order.ofCode (w.extractLsb' 32 3).toNat, Scope.ofCode (w.extractLsb' 35 3).toNat with
  | some order, some scope =>
    if order = .rlx ∨ w.extractLsb' 0 6 ≠ 0 then .error .badCode
    else .ok { d := w.extractLsb' 51 5, a := w.extractLsb' 46 5, idx := w.extractLsb' 38 8, scope := scope
               order := order, count := w.extractLsb' 16 16 }
  | _, _ => .error .badCode

/-- Minor field [15:6] of format S. -/
def minorS (w : Word) : Nat := (w.extractLsb' 6 10).toNat

/-- `sset`: a register with a row of its own is that row's instruction (R132). -/
def ssetOf (n : BitVec 12) (a : Reg) : Instr :=
  match n.toNat with
  | 0x012 => .cmpqWrite a
  | 0x005 => .rmodeWrite a
  | 0x100 => .bvmodeWrite a
  | 0xF11 => .preempt a
  | 0xF12 => .ptcommit a
  | 0xF10 => .dbgctlHalt a
  | 0x513 => .hostirq a
  | 0x550 => .pwrlimWrite a
  | 0x530 => .nbpost 0 a
  | 0x531 => .nbpost 1 a
  | 0x532 => .nbpost 2 a
  | 0x533 => .nbpost 3 a
  | 0x536 => .cwgo a
  | 0x539 => .cmapvalWrite a
  | _ => .sset n a

/-- Class 0x0, format A. -/
def decodeA0 (major op : Nat) (o : OpA) : Except DecodeError Instr :=
  match major with
  | 0x00 => match op with
    | 0 => .ok (.add o)
    | 1 => .ok (.sub o)
    | _ => .error .badMinor
  | 0x01 => match op with
    | 0 => .ok (.mul o)
    | 1 => .ok (.mulh o)
    | 2 => .ok (.mulhu o)
    | _ => .error .badMinor
  | 0x02 => match op with
    | 0 => .ok (.div o)
    | 1 => .ok (.divu o)
    | 2 => .ok (.rem o)
    | 3 => .ok (.remu o)
    | _ => .error .badMinor
  | 0x03 => match op with
    | 0 => .ok (.and o)
    | 1 => .ok (.or o)
    | 2 => .ok (.xor o)
    | 3 => .ok (.andn o)
    | _ => .error .badMinor
  | 0x04 => match op with
    | 0 => .ok (.shl o)
    | 1 => .ok (.shr o)
    | 2 => .ok (.sar o)
    | 3 => .ok (.rol o)
    | _ => .error .badMinor
  | 0x05 => match op with
    | 0 => .ok (.min o)
    | 1 => .ok (.max o)
    | 2 => .ok (.minu o)
    | 3 => .ok (.maxu o)
    | _ => .error .badMinor
  | 0x07 => match op with
    | 0 => .ok (.sel o)
    | _ => .error .badMinor
  | 0x08 => match op with
    | 0 => .ok (.bext o)
    | 1 => .ok (.bins o)
    | _ => .error .badMinor
  | 0x09 => match op with
    | 0 => .ok (.clz o)
    | 1 => .ok (.ctz o)
    | 2 => .ok (.popc o)
    | 3 => .ok (.brev o)
    | _ => .error .badMinor
  | 0x06 => match Cond.ofCode op with
    | some c => .ok (.cset c o)
    | none => .error .badCode
  | _ => .error .reservedMajor

/-- Class 0x1, format A. -/
def decodeA1 (major op : Nat) (o : OpA) : Except DecodeError Instr :=
  match major with
  | 0x12 => match op with
    | 0 => .ok (.jr o)
    | 1 => .ok (.callr o)
    | _ => .error .badMinor
  | 0x13 => match op with
    | 0 => .ok (.hstart o)
    | _ => .error .badMinor
  | 0x14 => match op with
    | 0 => .ok (.hstop o)
    | _ => .error .badMinor
  | 0x15 => match op with
    | 0 => .ok (.fdone o)
    | _ => .error .badMinor
  | 0x16 => match op with
    | 0 => .ok (.yield o)
    | _ => .error .badMinor
  | _ => .error .reservedMajor

/-- Class 0x2, format A. -/
def decodeA2 (major op : Nat) (o : OpA) : Except DecodeError Instr :=
  match major with
  | 0x20 => match op with
    | 0 => .ok (.fadd o)
    | 1 => .ok (.fsub o)
    | _ => .error .badMinor
  | 0x21 => match op with
    | 0 => .ok (.fmul o)
    | _ => .error .badMinor
  | 0x22 => match op with
    | 0 => .ok (.fdiv o)
    | _ => .error .badMinor
  | 0x23 => match op with
    | 0 => .ok (.fsqrt o)
    | _ => .error .badMinor
  | 0x24 => match op with
    | 0 => .ok (.ffma o)
    | 1 => .ok (.ffms o)
    | _ => .error .badMinor
  | 0x25 => match op with
    | 0 => .ok (.fmin o)
    | 1 => .ok (.fmax o)
    | _ => .error .badMinor
  | 0x28 => match op with
    | 0 => .ok (.frcp o)
    | _ => .error .badMinor
  | 0x29 => match op with
    | 0 => .ok (.frsq o)
    | _ => .error .badMinor
  | 0x2A => match op with
    | 0 => .ok (.fexp2 o)
    | _ => .error .badMinor
  | 0x2B => match op with
    | 0 => .ok (.flog2 o)
    | _ => .error .badMinor
  | 0x2C => match op with
    | 0 => .ok (.fclass o)
    | _ => .error .badMinor
  | 0x2D => match op with
    | 0 => .ok (.fround o)
    | _ => .error .badMinor
  | 0x26 => match Cond.ofCode op with
    | some c => .ok (.fcset c o)
    | none => .error .badCode
  | 0x27 => if op < 16 then .ok (.fcvt (ETy.ofBits (BitVec.ofNat 4 op)) o) else .error .badMinor
  | _ => .error .reservedMajor

/-- Class 0x3, format A. -/
def decodeA3 (major op : Nat) (o : OpA) : Except DecodeError Instr :=
  match major with
  | 0x30 => match op with
    | 0 => .ok (.vadd o)
    | 1 => .ok (.vsub o)
    | _ => .error .badMinor
  | 0x31 => match op with
    | 0 => .ok (.vmul o)
    | 1 => .ok (.vmulh o)
    | _ => .error .badMinor
  | 0x32 => match op with
    | 0 => .ok (.vfma o)
    | 1 => .ok (.vfms o)
    | _ => .error .badMinor
  | 0x33 => match op with
    | 0 => .ok (.vdiv o)
    | _ => .error .badMinor
  | 0x34 => match op with
    | 0 => .ok (.vsqrt o)
    | _ => .error .badMinor
  | 0x35 => match op with
    | 0 => .ok (.vmin o)
    | 1 => .ok (.vmax o)
    | _ => .error .badMinor
  | 0x36 => match op with
    | 0 => .ok (.vand o)
    | 1 => .ok (.vor o)
    | 2 => .ok (.vxor o)
    | 3 => .ok (.vandn o)
    | _ => .error .badMinor
  | 0x37 => match op with
    | 0 => .ok (.vshl o)
    | 1 => .ok (.vshr o)
    | 2 => .ok (.vsar o)
    | _ => .error .badMinor
  | 0x39 => match op with
    | 0 => .ok (.vsel o)
    | _ => .error .badMinor
  | 0x3B => match op with
    | 0 => .ok (.vrcp o)
    | 1 => .ok (.vrsq o)
    | _ => .error .badMinor
  | 0x3C => match op with
    | 0 => .ok (.vexp2 o)
    | 1 => .ok (.vlog2 o)
    | _ => .error .badMinor
  | 0x3D => match op with
    | 0 => .ok (.vbcst o)
    | _ => .error .badMinor
  | 0x38 => match Cond.ofCode op with
    | some c => .ok (.vcmp c o)
    | none => .error .badCode
  | 0x3A => .ok (.vcvt (BitVec.ofNat 3 (op / 16)) (ETy.ofBits (BitVec.ofNat 4 op)) o)
  | _ => .error .reservedMajor

/-- Class 0x4, format A. -/
def decodeA4 (major op : Nat) (o : OpA) : Except DecodeError Instr :=
  match major with
  | 0x40 => match op with
    | 0 => .ok (.vshuf o)
    | _ => .error .badMinor
  | 0x42 => match op with
    | 0 => .ok (.vslideDn o)
    | 1 => .ok (.vslideUp o)
    | _ => .error .badMinor
  | 0x43 => match op with
    | 0 => .ok (.vredAdd o)
    | 1 => .ok (.vredMin o)
    | 2 => .ok (.vredMax o)
    | 3 => .ok (.vredAnd o)
    | 4 => .ok (.vredOr o)
    | 5 => .ok (.vredXor o)
    | _ => .error .badMinor
  | 0x45 => match op with
    | 0 => .ok (.ctld o)
    | _ => .error .badMinor
  | 0x46 => match op with
    | 8 => .ok (.vpack o)
    | _ => .error .badMinor
  | 0x48 => match op with
    | 0 => .ok (.vext o)
    | 1 => .ok (.vins o)
    | _ => .error .badMinor
  | 0x49 => match op with
    | 0 => .ok (.kand o)
    | 1 => .ok (.kor o)
    | 2 => .ok (.kxor o)
    | 3 => .ok (.kandn o)
    | 4 => .ok (.knot o)
    | _ => .error .badMinor
  | 0x4A => match op with
    | 0 => .ok (.kmovKFromG o)
    | 1 => .ok (.kmovGFromK o)
    | 2 => .ok (.kpopc o)
    | _ => .error .badMinor
  | 0x4C => match op with
    | 0 => .ok (.vmov o)
    | _ => .error .badMinor
  | 0x4D => match op with
    | 0 => .ok (.vcompress o)
    | 1 => .ok (.vexpand o)
    | _ => .error .badMinor
  | 0x41 => if op < 64 then .ok (.vperm (BitVec.ofNat 6 op) o) else .error .badMinor
  | 0x44 => match op with
    | 0 => .ok (.vlut false o)
    | 1 => .ok (.vlut true o)
    | _ => .error .badMinor
  | 0x47 => if op < 32 then .ok (.vunpk (decide (16 ≤ op)) (BitVec.ofNat 4 op) o) else .error .badMinor
  | _ => .error .reservedMajor

/-- Class 0x7, format A. -/
def decodeA7 (major op : Nat) (o : OpA) : Except DecodeError Instr :=
  match major with
  | 0x70 => match op with
    | 0 => .ok (.post o)
    | _ => .error .badMinor
  | 0x71 => match op with
    | 0 => .ok (.xget o)
    | _ => .error .badMinor
  | 0x72 => match op with
    | 0 => .ok (.xtry o)
    | _ => .error .badMinor
  | 0x73 => match op with
    | 0 => .ok (.xpeek o)
    | _ => .error .badMinor
  | _ => .error .reservedMajor

/-- Class 0x8, format A. -/
def decodeA8 (major op : Nat) (o : OpA) : Except DecodeError Instr :=
  match major with
  | 0x82 => match op with
    | 0 => .ok (.probe o)
    | _ => .error .badMinor
  | 0x83 => match op with
    | 0 => .ok (.take o)
    | _ => .error .badMinor
  | 0x84 => match op with
    | 0 => .ok (.rset o)
    | _ => .error .badMinor
  | 0x85 => match op with
    | 0 => .ok (.rget o)
    | _ => .error .badMinor
  | _ => .error .reservedMajor

/-- Formats I of classes 0x0, 0x3 and 0x4 (R114, R176, R183). -/
def decodeI (major minor : Nat) (o : OpI) : Except DecodeError Instr :=
  match major with
  | 0x0A => match minor with
    | 0 => .ok (.addi o)
    | 1 => .ok (.subi o)
    | 2 => .ok (.muli o)
    | _ => .error .badMinor
  | 0x0B => match minor with
    | 0 => .ok (.andi o)
    | 1 => .ok (.ori o)
    | 2 => .ok (.xori o)
    | _ => .error .badMinor
  | 0x0C => match minor with
    | 0 => .ok (.shli o)
    | 1 => .ok (.shri o)
    | 2 => .ok (.sari o)
    | _ => .error .badMinor
  | 0x0E => match minor with
    | 0 => .ok (.movi o)
    | _ => .error .badMinor
  | 0x3E => match minor with
    | 0 => .ok (.vmovi o)
    | _ => .error .badMinor
  | 0x4B => match minor with
    | 0 => .ok (.kseti o)
    | _ => .error .badMinor
  | 0x0D => match Cond.ofCode minor with
    | some c => .ok (.cseti c o)
    | none => .error .badCode
  | _ => .error .reservedMajor

/-- Major 0x0F, format X (R115). -/
def decodeX (minor : Nat) (o : OpX) : Except DecodeError Instr :=
  match minor with
  | 0 => .ok (.movl o)
  | 1 => .ok (.addl o)
  | 2 => .ok (.andl o)
  | 3 => .ok (.orl o)
  | _ => .error .badMinor

/-- Format M: classes 0x5 and 0x6, `rld`, `ins` and `ins.grant` (R255, R322). -/
def decodeM (major : Nat) (o : OpM) : Except DecodeError Instr :=
  match major with
  | 0x50 => .ok (.ld o)
  | 0x51 => .ok (.st o)
  | 0x52 => .ok (.vld o)
  | 0x53 => .ok (.vst o)
  | 0x54 => .ok (.stm o)
  | 0x55 => .ok (.vstm o)
  | 0x56 => .ok (.vgat o)
  | 0x57 => .ok (.vsct o)
  | 0x58 => .ok (.pref o)
  | 0x59 => .ok (.sclose o)
  | 0x60 => .ok (.amoAdd o)
  | 0x61 => .ok (.amoAnd o)
  | 0x62 => .ok (.amoOr o)
  | 0x63 => .ok (.amoXor o)
  | 0x64 => .ok (.amoMin o)
  | 0x65 => .ok (.amoMax o)
  | 0x66 => .ok (.amoSwap o)
  | 0x67 => .ok (.amoCas o)
  | 0x68 => .ok (.redAdd o)
  | 0x69 => .ok (.redAnd o)
  | 0x6A => .ok (.redOr o)
  | 0x6B => .ok (.redXor o)
  | 0x6C => .ok (.redMin o)
  | 0x6D => .ok (.redMax o)
  | 0x74 => .ok (.rld o)
  | 0x80 => .ok (.ins o)
  | 0x81 => .ok (.insGrant o)
  | _ => .error .reservedMajor

/-- Format E without Link: classes 0x9 and 0xA (R333, R199). -/
def decodeE (major minor : Nat) (o : OpE) : Except DecodeError Instr :=
  match major with
  | 0x90 => match minor with
    | 0 => .ok (.cpy o)
    | _ => .error .badMinor
  | 0x91 => match minor with
    | 0 => .ok (.cpyt o)
    | _ => .error .badMinor
  | 0x92 => match minor with
    | 0 => .ok (.cpySlot o)
    | _ => .error .badMinor
  | 0x93 => match minor with
    | 0 => .ok (.cpyDeal o)
    | _ => .error .badMinor
  | 0x94 => match minor with
    | 0 => .ok (.cpyMc o)
    | _ => .error .badMinor
  | 0x95 => match minor with
    | 0 => .ok (.cpyStamp o)
    | _ => .error .badMinor
  | 0x96 => match minor with
    | 0 => .ok (.cpyFill o)
    | _ => .error .badMinor
  | 0x97 => match minor with
    | 0 => .ok (.cnop o)
    | _ => .error .badMinor
  | 0xA0 => match minor with
    | 0 => .ok (.mclaim o)
    | 1 => .ok (.mclaimSh o)
    | 2 => .ok (.mclaimTry o)
    | 3 => .ok (.mclaimShtry o)
    | _ => .error .badMinor
  | 0xA1 => match minor with
    | 0 => .ok (.mrel o)
    | _ => .error .badMinor
  | 0xA2 => match minor with
    | 0 => .ok (.mfmt o)
    | _ => .error .badMinor
  | 0xA3 => match minor with
    | 0 => .ok (.mzero o)
    | _ => .error .badMinor
  | 0xA4 => match minor with
    | 0 => .ok (.mmac o)
    | 1 => .ok (.mmacSet o)
    | _ => .error .badMinor
  | 0xA5 => match minor with
    | 0 => .ok (.macc o)
    | _ => .error .badMinor
  | 0xA6 => match minor with
    | 0 => .ok (.mst o)
    | _ => .error .badMinor
  | _ => .error .reservedMajor

/-- Format S, class 0xB (R345). -/
def decodeS (major minor : Nat) (o : OpS) : Except DecodeError Instr :=
  match major with
  | 0xB0 => if minor = 0 then .ok (.swait o) else .error .badMinor
  | 0xB1 => if minor = 0 then .ok (.ssig o) else .error .badMinor
  | 0xB2 => if minor = 0 then .ok (.stry o) else .error .badMinor
  | 0xB3 => if minor = 0 then .ok (.smrd o) else .error .badMinor
  | 0xB4 => if minor = 0 then .ok (.smset o) else .error .badMinor
  | 0xB7 => if minor = 0 then .ok (.wstill o) else .error .badMinor
  | 0xB5 => match minor with
    | 0 => .ok (.bar false o)
    | 1 => .ok (.bar true o)
    | _ => .error .badMinor
  | 0xB6 => match minor with
    | 0 => .ok (.barcfg false o)
    | 1 => .ok (.barcfg true o)
    | _ => .error .badMinor
  | _ => .error .reservedMajor

/-- Class 0xC in format I: `sget`, `sset`, `trap`, `tret` (R132, R374, R375). -/
def decodeC (major minor : Nat) (o : OpI) : Except DecodeError Instr :=
  if o.ty ≠ .i64 then .error .illFormed
  else match major, minor with
  | 0xC0, 0 => if o.a = 0 ∧ o.imm.extractLsb' 12 20 = 0 then .ok (.sget o.d (o.imm.extractLsb' 0 12)) else .error .reservedBits
  | 0xC1, 0 => if o.d = 0 ∧ o.imm.extractLsb' 12 20 = 0 then .ok (ssetOf (o.imm.extractLsb' 0 12) o.a) else .error .reservedBits
  | 0xC2, 0 => if o.d = 0 ∧ o.a = 0 ∧ o.imm.extractLsb' 16 16 = 0 then .ok (.trap (o.imm.extractLsb' 0 16))
    else .error .reservedBits
  | 0xC3, 0 => if o.d = 0 ∧ o.a = 0 ∧ o.imm = 0 then .ok .tret else .error .reservedBits
  | 0xC3, 1 => if o.d = 0 ∧ o.a = 0 ∧ o.imm = 0 then .ok .tretNext else .error .reservedBits
  | _, _ => .error .badMinor

/-- Class 0xC in format A: `tlbi`, `pgdone`, `gstop`, `brk` (R224, R225, R382, R376). -/
def decodeCA (major op : Nat) (o : OpA) : Except DecodeError Instr :=
  match major, op with
  | 0xC4, 0 => if wfPlain o .none .none .reg then .ok (.tlbiAsid o.b) else .error .illFormed
  | 0xC4, 1 => if wfPlain o .none .reg .reg then .ok (.tlbiPage o.a o.b) else .error .illFormed
  | 0xC4, 2 => if wfPlain o .none .none .none then .ok .tlbiAll else .error .illFormed
  | 0xC5, 0 => if wfPlain o .reg .reg .reg then .ok (.pgdone o.d o.a o.b) else .error .illFormed
  | 0xC6, 0 => if wfPlain o .reg .none .none then .ok (.gstop o.d) else .error .illFormed
  | 0xC6, 1 => if wfPlain o .reg .none .none then .ok (.gstopGo o.d) else .error .illFormed
  | 0xC7, 0 => if wfPlain o .none .none .none then .ok .brk else .error .illFormed
  | _, _ => .error .badMinor

/-- Format B (R95). -/
def decodeB (w : Word) : Except DecodeError Instr :=
  match Cond.ofCode (w.extractLsb' 42 4).toNat, Hint.ofCode (w.extractLsb' 40 2).toNat with
  | some c, some h =>
    if majorOf w = 0x10 then .ok (.b c h (w.extractLsb' 51 5) (w.extractLsb' 46 5) (w.extractLsb' 0 40))
    else if w.extractLsb' 46 5 = 0 ∧ c = .al then .ok (.call (w.extractLsb' 51 5) h (w.extractLsb' 0 40))
    else .error .reservedBits
  | _, _ => .error .badCode

/-- One linked group (R99). -/
def decodeLinked (w w1 w2 w3 : Word) : Except DecodeError Instr :=
  if minorE w ≠ 0 ∨ majorOf w2 ≠ 0xA4 ∨ w2.getLsbD 25 then .error .badLink
  else match parseE w w1, parseE w2 w3, minorE w2 with
  | .ok o, .ok m, 0 => .ok (.cpySlotLink o m false)
  | .ok o, .ok m, 1 => .ok (.cpySlotLink o m true)
  | .ok _, .ok _, _ => .error .badMinor
  | .error e, _, _ => .error e
  | _, .error e, _ => .error e

/-- One pair of format E. -/
def decodePair (w w1 : Word) : Except DecodeError Instr :=
  if w.getLsbD 25 then .error .badLink
  else match parseE w w1 with
  | .ok o => decodeE (majorOf w) (minorE w) o
  | .error e => .error e

/-- A one-word instruction in format A. -/
def decodeAny (w : Word) : Except DecodeError Instr :=
  if w.extractLsb' 0 8 ≠ 0 then .error .reservedBits
  else match majorOf w / 16 with
  | 0 => decodeA0 (majorOf w) (opOf w) (parseA w)
  | 1 => decodeA1 (majorOf w) (opOf w) (parseA w)
  | 2 => decodeA2 (majorOf w) (opOf w) (parseA w)
  | 3 => decodeA3 (majorOf w) (opOf w) (parseA w)
  | 4 => decodeA4 (majorOf w) (opOf w) (parseA w)
  | 7 => decodeA7 (majorOf w) (opOf w) (parseA w)
  | 8 => decodeA8 (majorOf w) (opOf w) (parseA w)
  | _ => decodeCA (majorOf w) (opOf w) (parseA w)

/-- One word of format M. -/
def decodeMem (w : Word) : Except DecodeError Instr :=
  match parseM w with
  | .ok o => decodeM (majorOf w) o
  | .error e => .error e

/-- One word of format S. -/
def decodeSem (w : Word) : Except DecodeError Instr :=
  match parseS w with
  | .ok o => decodeS (majorOf w) (minorS w) o
  | .error e => .error e

/-- The format of a one-word instruction, by its major opcode (R101, R106). -/
def decodeOne (w : Word) : Except DecodeError Instr :=
  let m := majorOf w
  if m / 16 = 15 then .ok (.deferredEncoding w)
  else if m = 0x10 ∨ m = 0x11 then decodeB w
  else if (0x0A ≤ m ∧ m ≤ 0x0E) ∨ m = 0x3E ∨ m = 0x4B then decodeI m (minorI w) (parseI w)
  else if m / 16 = 5 ∨ m / 16 = 6 ∨ m = 0x74 ∨ m = 0x80 ∨ m = 0x81 then decodeMem w
  else if m / 16 = 11 then decodeSem w
  else if 0xC0 ≤ m ∧ m ≤ 0xC3 then decodeC m (minorI w) (parseI w)
  else if m / 16 = 13 ∨ m / 16 = 14 ∨ (m / 16 = 12 ∧ 0xC7 < m) then .error .reservedMajor
  else decodeAny w

/-- The instruction the words spell, before the checks of R102 on its fields. -/
def parseWords : List Word → Except DecodeError Instr
  | [] => .error .truncated
  | w :: rest =>
    match wordCount w, rest with
    | 1, _ => decodeOne w
    | 2, w1 :: _ =>
      if majorOf w = 0x0F then
        if w.extractLsb' 0 32 ≠ 0 then .error .reservedBits else decodeX (minorI w) (parseX w w1)
      else decodePair w w1
    | 4, w1 :: w2 :: w3 :: _ => decodeLinked w w1 w2 w3
    | _, _ => .error .truncated

/-- The instruction the words spell, or why they spell none. -/
def decodeWords (ws : List Word) : Except DecodeError Instr :=
  match parseWords ws with
  | .ok i => if WellFormed i then .ok i else .error .illFormed
  | .error e => .error e

/-- Little-endian value of bytes, the first the least significant (R14). -/
def leNat : List Byte → Nat
  | [] => 0
  | b :: bs => b.toNat + 256 * leNat bs

/-- The `n` bytes of a value, least significant first (R14). -/
def leBytes : Nat → Nat → List Byte
  | 0, _ => []
  | n + 1, v => BitVec.ofNat 8 v :: leBytes n (v / 256)

/-- The `n` words held in bytes (R86). -/
def wordsOf : Nat → List Byte → List Word
  | 0, _ => []
  | n + 1, bs => BitVec.ofNat 64 (leNat (bs.take 8)) :: wordsOf n (bs.drop 8)

/-- Decode the head of a byte list: the instruction and the bytes after it (R86). -/
def decode (bs : List Byte) : Except DecodeError (Instr × List Byte) :=
  if bs.length < 8 then .error .truncated
  else
    let n := wordCount (BitVec.ofNat 64 (leNat (bs.take 8)))
    if bs.length < 8 * n then .error .truncated
    else match decodeWords (wordsOf n bs) with
      | .ok i => .ok (i, bs.drop (8 * n))
      | .error e => .error e

/-! ## The encoder -/

def ETy.bits (t : ETy) : BitVec 4 := BitVec.ofNat 4 t.code

def encA (major op : Nat) (o : OpA) : Word :=
  BitVec.ofNat 8 major ++ o.d ++ o.a ++ o.b ++ o.c ++ o.k ++ o.ty.bits ++ o.ma ++ o.mb ++ o.mc ++ BitVec.ofBool o.clamp
    ++ o.scale ++ o.rnd ++ BitVec.ofNat 7 op ++ (0 : BitVec 8)

def encI (major minor : Nat) (o : OpI) : Word :=
  BitVec.ofNat 8 major ++ o.d ++ o.a ++ BitVec.ofNat 10 minor ++ o.ty.bits ++ o.imm

def encX (minor : Nat) (o : OpX) : Word :=
  BitVec.ofNat 8 0x0F ++ o.d ++ o.a ++ BitVec.ofNat 10 minor ++ o.ty.bits ++ (0 : BitVec 32)

def encM (major : Nat) (o : OpM) : Word :=
  BitVec.ofNat 8 major ++ o.data ++ o.base ++ o.index ++ BitVec.ofNat 3 o.order.code ++ BitVec.ofNat 3 o.scope.code
    ++ o.stream ++ o.scale ++ o.shape ++ o.ty ++ o.off

def encB (major : Nat) (x y : Reg) (c : Cond) (h : Hint) (off : BitVec 40) : Word :=
  BitVec.ofNat 8 major ++ x ++ y ++ BitVec.ofNat 4 c.code ++ BitVec.ofNat 2 h.code ++ off

def encE (major minor : Nat) (link : Bool) (o : OpE) : Word :=
  BitVec.ofNat 8 major ++ o.d ++ o.a ++ o.b ++ o.c ++ BitVec.ofNat 10 minor ++ BitVec.ofBool link ++ o.cmd

def encEW (w : EW) : Word :=
  w.wIdx ++ w.wThr ++ w.sIdx ++ w.sInc ++ BitVec.ofBool w.fa ++ BitVec.ofBool w.fr ++ BitVec.ofBool w.fo
    ++ BitVec.ofNat 3 w.scope.code ++ w.cmd

def encPair (major minor : Nat) (o : OpE) : List Word := [encE major minor false o, encEW o.w]

def encS (major minor : Nat) (o : OpS) : Word :=
  BitVec.ofNat 8 major ++ o.d ++ o.a ++ o.idx ++ BitVec.ofNat 3 o.scope.code ++ BitVec.ofNat 3 o.order.code ++ o.count
    ++ BitVec.ofNat 10 minor ++ (0 : BitVec 6)

/-- `sset` of special register `n`. -/
def encSset (n : Nat) (a : Reg) : List Word := [encI 0xC1 0 { a := a, imm := BitVec.ofNat 32 n }]

/-- The words of a well-formed instruction; a device step has none. -/
def encode : Instr → List Word
  | .add o => [encA 0x00 0 o]
  | .sub o => [encA 0x00 1 o]
  | .mul o => [encA 0x01 0 o]
  | .mulh o => [encA 0x01 1 o]
  | .mulhu o => [encA 0x01 2 o]
  | .div o => [encA 0x02 0 o]
  | .divu o => [encA 0x02 1 o]
  | .rem o => [encA 0x02 2 o]
  | .remu o => [encA 0x02 3 o]
  | .and o => [encA 0x03 0 o]
  | .or o => [encA 0x03 1 o]
  | .xor o => [encA 0x03 2 o]
  | .andn o => [encA 0x03 3 o]
  | .shl o => [encA 0x04 0 o]
  | .shr o => [encA 0x04 1 o]
  | .sar o => [encA 0x04 2 o]
  | .rol o => [encA 0x04 3 o]
  | .min o => [encA 0x05 0 o]
  | .max o => [encA 0x05 1 o]
  | .minu o => [encA 0x05 2 o]
  | .maxu o => [encA 0x05 3 o]
  | .cset c o => [encA 0x06 c.code o]
  | .sel o => [encA 0x07 0 o]
  | .bext o => [encA 0x08 0 o]
  | .bins o => [encA 0x08 1 o]
  | .clz o => [encA 0x09 0 o]
  | .ctz o => [encA 0x09 1 o]
  | .popc o => [encA 0x09 2 o]
  | .brev o => [encA 0x09 3 o]
  | .addi o => [encI 0x0A 0 o]
  | .subi o => [encI 0x0A 1 o]
  | .muli o => [encI 0x0A 2 o]
  | .andi o => [encI 0x0B 0 o]
  | .ori o => [encI 0x0B 1 o]
  | .xori o => [encI 0x0B 2 o]
  | .shli o => [encI 0x0C 0 o]
  | .shri o => [encI 0x0C 1 o]
  | .sari o => [encI 0x0C 2 o]
  | .cseti c o => [encI 0x0D c.code o]
  | .movi o => [encI 0x0E 0 o]
  | .movl o => [encX 0 o, o.imm]
  | .addl o => [encX 1 o, o.imm]
  | .andl o => [encX 2 o, o.imm]
  | .orl o => [encX 3 o, o.imm]
  | .b c h x y off => [encB 0x10 x y c h off]
  | .call l h off => [encB 0x11 l 0 .al h off]
  | .jr o => [encA 0x12 0 o]
  | .callr o => [encA 0x12 1 o]
  | .hstart o => [encA 0x13 0 o]
  | .hstop o => [encA 0x14 0 o]
  | .fdone o => [encA 0x15 0 o]
  | .yield o => [encA 0x16 0 o]
  | .fadd o => [encA 0x20 0 o]
  | .fsub o => [encA 0x20 1 o]
  | .fmul o => [encA 0x21 0 o]
  | .fdiv o => [encA 0x22 0 o]
  | .fsqrt o => [encA 0x23 0 o]
  | .ffma o => [encA 0x24 0 o]
  | .ffms o => [encA 0x24 1 o]
  | .fmin o => [encA 0x25 0 o]
  | .fmax o => [encA 0x25 1 o]
  | .fcset c o => [encA 0x26 c.code o]
  | .fcvt src o => [encA 0x27 src.code o]
  | .frcp o => [encA 0x28 0 o]
  | .frsq o => [encA 0x29 0 o]
  | .fexp2 o => [encA 0x2A 0 o]
  | .flog2 o => [encA 0x2B 0 o]
  | .fclass o => [encA 0x2C 0 o]
  | .fround o => [encA 0x2D 0 o]
  | .vadd o => [encA 0x30 0 o]
  | .vsub o => [encA 0x30 1 o]
  | .vmul o => [encA 0x31 0 o]
  | .vmulh o => [encA 0x31 1 o]
  | .vfma o => [encA 0x32 0 o]
  | .vfms o => [encA 0x32 1 o]
  | .vdiv o => [encA 0x33 0 o]
  | .vsqrt o => [encA 0x34 0 o]
  | .vmin o => [encA 0x35 0 o]
  | .vmax o => [encA 0x35 1 o]
  | .vand o => [encA 0x36 0 o]
  | .vor o => [encA 0x36 1 o]
  | .vxor o => [encA 0x36 2 o]
  | .vandn o => [encA 0x36 3 o]
  | .vshl o => [encA 0x37 0 o]
  | .vshr o => [encA 0x37 1 o]
  | .vsar o => [encA 0x37 2 o]
  | .vcmp c o => [encA 0x38 c.code o]
  | .vsel o => [encA 0x39 0 o]
  | .vcvt part src o => [encA 0x3A (16 * part.toNat + src.code) o]
  | .vrcp o => [encA 0x3B 0 o]
  | .vrsq o => [encA 0x3B 1 o]
  | .vexp2 o => [encA 0x3C 0 o]
  | .vlog2 o => [encA 0x3C 1 o]
  | .vbcst o => [encA 0x3D 0 o]
  | .vmovi o => [encI 0x3E 0 o]
  | .vshuf o => [encA 0x40 0 o]
  | .vperm m o => [encA 0x41 m.toNat o]
  | .vslideDn o => [encA 0x42 0 o]
  | .vslideUp o => [encA 0x42 1 o]
  | .vredAdd o => [encA 0x43 0 o]
  | .vredMin o => [encA 0x43 1 o]
  | .vredMax o => [encA 0x43 2 o]
  | .vredAnd o => [encA 0x43 3 o]
  | .vredOr o => [encA 0x43 4 o]
  | .vredXor o => [encA 0x43 5 o]
  | .vlut hi o => [encA 0x44 hi.toNat o]
  | .ctld o => [encA 0x45 0 o]
  | .vpack o => [encA 0x46 8 o]
  | .vunpk ctr planes o => [encA 0x47 (16 * ctr.toNat + planes.toNat) o]
  | .vext o => [encA 0x48 0 o]
  | .vins o => [encA 0x48 1 o]
  | .vcompress o => [encA 0x4D 0 o]
  | .vexpand o => [encA 0x4D 1 o]
  | .kand o => [encA 0x49 0 o]
  | .kor o => [encA 0x49 1 o]
  | .kxor o => [encA 0x49 2 o]
  | .kandn o => [encA 0x49 3 o]
  | .knot o => [encA 0x49 4 o]
  | .kmovKFromG o => [encA 0x4A 0 o]
  | .kmovGFromK o => [encA 0x4A 1 o]
  | .kpopc o => [encA 0x4A 2 o]
  | .kseti o => [encI 0x4B 0 o]
  | .vmov o => [encA 0x4C 0 o]
  | .ld o => [encM 0x50 o]
  | .st o => [encM 0x51 o]
  | .vld o => [encM 0x52 o]
  | .vst o => [encM 0x53 o]
  | .stm o => [encM 0x54 o]
  | .vstm o => [encM 0x55 o]
  | .vgat o => [encM 0x56 o]
  | .vsct o => [encM 0x57 o]
  | .pref o => [encM 0x58 o]
  | .sclose o => [encM 0x59 o]
  | .amoAdd o => [encM 0x60 o]
  | .amoAnd o => [encM 0x61 o]
  | .amoOr o => [encM 0x62 o]
  | .amoXor o => [encM 0x63 o]
  | .amoMin o => [encM 0x64 o]
  | .amoMax o => [encM 0x65 o]
  | .amoSwap o => [encM 0x66 o]
  | .amoCas o => [encM 0x67 o]
  | .redAdd o => [encM 0x68 o]
  | .redAnd o => [encM 0x69 o]
  | .redOr o => [encM 0x6A o]
  | .redXor o => [encM 0x6B o]
  | .redMin o => [encM 0x6C o]
  | .redMax o => [encM 0x6D o]
  | .post o => [encA 0x70 0 o]
  | .xget o => [encA 0x71 0 o]
  | .xtry o => [encA 0x72 0 o]
  | .xpeek o => [encA 0x73 0 o]
  | .rld o => [encM 0x74 o]
  | .ins o => [encM 0x80 o]
  | .insGrant o => [encM 0x81 o]
  | .probe o => [encA 0x82 0 o]
  | .take o => [encA 0x83 0 o]
  | .rset o => [encA 0x84 0 o]
  | .rget o => [encA 0x85 0 o]
  | .cpy o => encPair 0x90 0 o
  | .cpyt o => encPair 0x91 0 o
  | .cpySlot o => encPair 0x92 0 o
  | .cpySlotLink o m set => [encE 0x92 0 true o, encEW o.w] ++ encPair 0xA4 set.toNat m
  | .cpyDeal o => encPair 0x93 0 o
  | .cpyMc o => encPair 0x94 0 o
  | .cpyStamp o => encPair 0x95 0 o
  | .cpyFill o => encPair 0x96 0 o
  | .cnop o => encPair 0x97 0 o
  | .mclaim o => encPair 0xA0 0 o
  | .mclaimSh o => encPair 0xA0 1 o
  | .mclaimTry o => encPair 0xA0 2 o
  | .mclaimShtry o => encPair 0xA0 3 o
  | .mrel o => encPair 0xA1 0 o
  | .mfmt o => encPair 0xA2 0 o
  | .mzero o => encPair 0xA3 0 o
  | .mmac o => encPair 0xA4 0 o
  | .mmacSet o => encPair 0xA4 1 o
  | .macc o => encPair 0xA5 0 o
  | .mst o => encPair 0xA6 0 o
  | .swait o => [encS 0xB0 0 o]
  | .ssig o => [encS 0xB1 0 o]
  | .stry o => [encS 0xB2 0 o]
  | .smrd o => [encS 0xB3 0 o]
  | .smset o => [encS 0xB4 0 o]
  | .bar fld o => [encS 0xB5 fld.toNat o]
  | .barcfg fld o => [encS 0xB6 fld.toNat o]
  | .wstill o => [encS 0xB7 0 o]
  | .sget d n => [encI 0xC0 0 { d := d, imm := n.zeroExtend 32 }]
  | .sset n a => encSset n.toNat a
  | .trap n => [encI 0xC2 0 { imm := n.zeroExtend 32 }]
  | .tret => [encI 0xC3 0 {}]
  | .tretNext => [encI 0xC3 1 {}]
  | .tlbiAsid b => [encA 0xC4 0 { b := b }]
  | .tlbiPage a b => [encA 0xC4 1 { a := a, b := b }]
  | .tlbiAll => [encA 0xC4 2 {}]
  | .pgdone d a b => [encA 0xC5 0 { d := d, a := a, b := b }]
  | .gstop d => [encA 0xC6 0 { d := d }]
  | .gstopGo d => [encA 0xC6 1 { d := d }]
  | .brk => [encA 0xC7 0 {}]
  | .deferredEncoding w => [w]
  | .cmpqWrite a => encSset 0x012 a
  | .rmodeWrite a => encSset 0x005 a
  | .bvmodeWrite a => encSset 0x100 a
  | .preempt a => encSset 0xF11 a
  | .blkcmdThaw _ => []
  | .blkcmdRevive _ => []
  | .ptcommit a => encSset 0xF12 a
  | .dbgctlHalt a => encSset 0xF10 a
  | .hostirq a => encSset 0x513 a
  | .pwrlimWrite a => encSset 0x550 a
  | .nbpost dir a => encSset (0x530 + dir.toNat) a
  | .cwgo a => encSset 0x536 a
  | .cmapvalWrite a => encSset 0x539 a
  | .fabcmdOpen _ => []
  | .fabcmdClose _ _ => []
  | .routeImageRead _ _ => []
  | .reconfigQuiesceEnd _ => []
  | .drainMarker _ _ => []
  | .reconfigDark _ => []
  | .linkTrainComplete _ _ => []
  | .flitReceive _ _ _ => []
  | .resendRequest _ _ => []
  | .cumulativeAck _ _ => []
  | .allowanceReturn _ _ _ => []
  | .fecWindowEnd _ _ _ _ => []
  | .laneLoss _ _ _ _ => []
  | .laneRejoin _ _ _ => []
  | .linkDown _ => []
  | .packageFailure _ _ => []
  | .bankCommitInsertions _ _ _ => []
  | .sluiceDecision _ _ => []
  | .polderRequestServe _ _ _ => []
  | .firingDispatch _ _ => []
  | .firingStart _ => []
  | .blockFiringStart _ => []
  | .fieldFiringStart _ _ _ => []
  | .coresideSetStart _ _ => []
  | .fetchLine _ _ _ => []
  | .insertionSend _ _ => []
  | .insertionRetry _ _ => []
  | .insertionAck _ _ => []
  | .polderFullReport _ _ => []
  | .roundClose _ => []
  | .leveeSample _ => []
  | .barrierWatchdog _ _ _ _ _ => []
  | .inletTileWrite _ _ _ _ _ => []
  | .inletPayloadWrite _ _ _ => []
  | .inletApertureRead _ _ _ => []
  | .inletInsert _ => []
  | .inletAccept _ _ _ => []
  | .postArrival _ => []
  | .postSend _ => []
  | .heldPostApply _ _ => []
  | .mailboxOverrunReport _ => []
  | .overflowPostResend _ => []
  | .rldReply _ => []
  | .loadReply _ => []
  | .lateReply _ => []
  | .remoteRequestTimeout _ => []
  | .tagQuarantineEnd _ _ => []
  | .loadPerform _ => []
  | .storeArrival _ => []
  | .weirResend _ => []
  | .storeAck _ => []
  | .closeMarkerCommit _ => []
  | .weirEntryTimeout _ _ _ _ => []
  | .storeFailureNotice _ => []
  | .releaseSend _ => []
  | .atomicPerform _ => []
  | .rolloverSweepComplete _ _ => []
  | .pageWalkComplete _ _ => []
  | .swapThresholdExpiry _ => []
  | .swapOut _ => []
  | .shadowSwitchComplete _ => []
  | .imageValid _ => []
  | .spillFailure _ => []
  | .readmission _ => []
  | .resize _ _ => []
  | .fieldMove _ _ _ _ => []
  | .copyCommandStart _ _ => []
  | .copyPiece _ _ _ => []
  | .copyCommandComplete _ _ => []
  | .linkedMmacHandover _ _ => []
  | .matrixGrant _ => []
  | .matrixStepEnd _ => []
  | .mmacFinish _ => []
  | .mstCapture _ _ => []
  | .mstComplete _ _ => []
  | .semaphoreCycle _ => []
  | .supervisorNotice _ => []
  | .fence _ _ => []
  | .fencePropagate _ => []
  | .uncorrectableError _ _ _ => []
  | .haltArrival _ => []
  | .powerThrottle _ _ => []
  | .coldReset _ => []
  | .warmReset => []
  | .cxlPortTrain _ _ _ _ => []
  | .causewayLine _ => []
  | .causewayDone _ _ => []
  | .hostCompletion _ _ _ => []
  | .mgmtSetPowerLimit _ _ => []
  | .mgmtReadPower _ => []
  | .mgmtCommitPartition _ _ => []
  | .mgmtReadEventRecorder _ _ _ _ => []
  | .mgmtReadAttestation _ => []
  | .readmissionHoldResend _ => []
  | .slotReopenHoldEnd _ _ _ _ => []
  | .imageLineExchange _ => []
  | .fieldMoveCopyDone _ _ _ => []
  | .clusterServiceTest _ _ _ _ => []
  | .inletGrantChange _ _ _ => []
  | .inletSlotAssign _ _ => []
  | .linkKeyLoad _ _ _ => []

/-- Is the instruction one the X8 encodes, and not a step of a device? -/
def isEncoded : Instr → Bool
  | .add _ => true
  | .sub _ => true
  | .mul _ => true
  | .mulh _ => true
  | .mulhu _ => true
  | .div _ => true
  | .divu _ => true
  | .rem _ => true
  | .remu _ => true
  | .and _ => true
  | .or _ => true
  | .xor _ => true
  | .andn _ => true
  | .shl _ => true
  | .shr _ => true
  | .sar _ => true
  | .rol _ => true
  | .min _ => true
  | .max _ => true
  | .minu _ => true
  | .maxu _ => true
  | .cset _ _ => true
  | .sel _ => true
  | .bext _ => true
  | .bins _ => true
  | .clz _ => true
  | .ctz _ => true
  | .popc _ => true
  | .brev _ => true
  | .addi _ => true
  | .subi _ => true
  | .muli _ => true
  | .andi _ => true
  | .ori _ => true
  | .xori _ => true
  | .shli _ => true
  | .shri _ => true
  | .sari _ => true
  | .cseti _ _ => true
  | .movi _ => true
  | .movl _ => true
  | .addl _ => true
  | .andl _ => true
  | .orl _ => true
  | .b _ _ _ _ _ => true
  | .call _ _ _ => true
  | .jr _ => true
  | .callr _ => true
  | .hstart _ => true
  | .hstop _ => true
  | .fdone _ => true
  | .yield _ => true
  | .fadd _ => true
  | .fsub _ => true
  | .fmul _ => true
  | .fdiv _ => true
  | .fsqrt _ => true
  | .ffma _ => true
  | .ffms _ => true
  | .fmin _ => true
  | .fmax _ => true
  | .fcset _ _ => true
  | .fcvt _ _ => true
  | .frcp _ => true
  | .frsq _ => true
  | .fexp2 _ => true
  | .flog2 _ => true
  | .fclass _ => true
  | .fround _ => true
  | .vadd _ => true
  | .vsub _ => true
  | .vmul _ => true
  | .vmulh _ => true
  | .vfma _ => true
  | .vfms _ => true
  | .vdiv _ => true
  | .vsqrt _ => true
  | .vmin _ => true
  | .vmax _ => true
  | .vand _ => true
  | .vor _ => true
  | .vxor _ => true
  | .vandn _ => true
  | .vshl _ => true
  | .vshr _ => true
  | .vsar _ => true
  | .vcmp _ _ => true
  | .vsel _ => true
  | .vcvt _ _ _ => true
  | .vrcp _ => true
  | .vrsq _ => true
  | .vexp2 _ => true
  | .vlog2 _ => true
  | .vbcst _ => true
  | .vmovi _ => true
  | .vshuf _ => true
  | .vperm _ _ => true
  | .vslideDn _ => true
  | .vslideUp _ => true
  | .vredAdd _ => true
  | .vredMin _ => true
  | .vredMax _ => true
  | .vredAnd _ => true
  | .vredOr _ => true
  | .vredXor _ => true
  | .vlut _ _ => true
  | .ctld _ => true
  | .vpack _ => true
  | .vunpk _ _ _ => true
  | .vext _ => true
  | .vins _ => true
  | .vcompress _ => true
  | .vexpand _ => true
  | .kand _ => true
  | .kor _ => true
  | .kxor _ => true
  | .kandn _ => true
  | .knot _ => true
  | .kmovKFromG _ => true
  | .kmovGFromK _ => true
  | .kpopc _ => true
  | .kseti _ => true
  | .vmov _ => true
  | .ld _ => true
  | .st _ => true
  | .vld _ => true
  | .vst _ => true
  | .stm _ => true
  | .vstm _ => true
  | .vgat _ => true
  | .vsct _ => true
  | .pref _ => true
  | .sclose _ => true
  | .amoAdd _ => true
  | .amoAnd _ => true
  | .amoOr _ => true
  | .amoXor _ => true
  | .amoMin _ => true
  | .amoMax _ => true
  | .amoSwap _ => true
  | .amoCas _ => true
  | .redAdd _ => true
  | .redAnd _ => true
  | .redOr _ => true
  | .redXor _ => true
  | .redMin _ => true
  | .redMax _ => true
  | .post _ => true
  | .xget _ => true
  | .xtry _ => true
  | .xpeek _ => true
  | .rld _ => true
  | .ins _ => true
  | .insGrant _ => true
  | .probe _ => true
  | .take _ => true
  | .rset _ => true
  | .rget _ => true
  | .cpy _ => true
  | .cpyt _ => true
  | .cpySlot _ => true
  | .cpySlotLink _ _ _ => true
  | .cpyDeal _ => true
  | .cpyMc _ => true
  | .cpyStamp _ => true
  | .cpyFill _ => true
  | .cnop _ => true
  | .mclaim _ => true
  | .mclaimSh _ => true
  | .mclaimTry _ => true
  | .mclaimShtry _ => true
  | .mrel _ => true
  | .mfmt _ => true
  | .mzero _ => true
  | .mmac _ => true
  | .mmacSet _ => true
  | .macc _ => true
  | .mst _ => true
  | .swait _ => true
  | .ssig _ => true
  | .stry _ => true
  | .smrd _ => true
  | .smset _ => true
  | .bar _ _ => true
  | .barcfg _ _ => true
  | .wstill _ => true
  | .sget _ _ => true
  | .sset _ _ => true
  | .trap _ => true
  | .tret => true
  | .tretNext => true
  | .tlbiAsid _ => true
  | .tlbiPage _ _ => true
  | .tlbiAll => true
  | .pgdone _ _ _ => true
  | .gstop _ => true
  | .gstopGo _ => true
  | .brk => true
  | .deferredEncoding _ => true
  | .cmpqWrite _ => true
  | .rmodeWrite _ => true
  | .bvmodeWrite _ => true
  | .preempt _ => true
  | .blkcmdThaw _ => false
  | .blkcmdRevive _ => false
  | .ptcommit _ => true
  | .dbgctlHalt _ => true
  | .hostirq _ => true
  | .pwrlimWrite _ => true
  | .nbpost _ _ => true
  | .cwgo _ => true
  | .cmapvalWrite _ => true
  | .fabcmdOpen _ => false
  | .fabcmdClose _ _ => false
  | .routeImageRead _ _ => false
  | .reconfigQuiesceEnd _ => false
  | .drainMarker _ _ => false
  | .reconfigDark _ => false
  | .linkTrainComplete _ _ => false
  | .flitReceive _ _ _ => false
  | .resendRequest _ _ => false
  | .cumulativeAck _ _ => false
  | .allowanceReturn _ _ _ => false
  | .fecWindowEnd _ _ _ _ => false
  | .laneLoss _ _ _ _ => false
  | .laneRejoin _ _ _ => false
  | .linkDown _ => false
  | .packageFailure _ _ => false
  | .bankCommitInsertions _ _ _ => false
  | .sluiceDecision _ _ => false
  | .polderRequestServe _ _ _ => false
  | .firingDispatch _ _ => false
  | .firingStart _ => false
  | .blockFiringStart _ => false
  | .fieldFiringStart _ _ _ => false
  | .coresideSetStart _ _ => false
  | .fetchLine _ _ _ => false
  | .insertionSend _ _ => false
  | .insertionRetry _ _ => false
  | .insertionAck _ _ => false
  | .polderFullReport _ _ => false
  | .roundClose _ => false
  | .leveeSample _ => false
  | .barrierWatchdog _ _ _ _ _ => false
  | .inletTileWrite _ _ _ _ _ => false
  | .inletPayloadWrite _ _ _ => false
  | .inletApertureRead _ _ _ => false
  | .inletInsert _ => false
  | .inletAccept _ _ _ => false
  | .postArrival _ => false
  | .postSend _ => false
  | .heldPostApply _ _ => false
  | .mailboxOverrunReport _ => false
  | .overflowPostResend _ => false
  | .rldReply _ => false
  | .loadReply _ => false
  | .lateReply _ => false
  | .remoteRequestTimeout _ => false
  | .tagQuarantineEnd _ _ => false
  | .loadPerform _ => false
  | .storeArrival _ => false
  | .weirResend _ => false
  | .storeAck _ => false
  | .closeMarkerCommit _ => false
  | .weirEntryTimeout _ _ _ _ => false
  | .storeFailureNotice _ => false
  | .releaseSend _ => false
  | .atomicPerform _ => false
  | .rolloverSweepComplete _ _ => false
  | .pageWalkComplete _ _ => false
  | .swapThresholdExpiry _ => false
  | .swapOut _ => false
  | .shadowSwitchComplete _ => false
  | .imageValid _ => false
  | .spillFailure _ => false
  | .readmission _ => false
  | .resize _ _ => false
  | .fieldMove _ _ _ _ => false
  | .copyCommandStart _ _ => false
  | .copyPiece _ _ _ => false
  | .copyCommandComplete _ _ => false
  | .linkedMmacHandover _ _ => false
  | .matrixGrant _ => false
  | .matrixStepEnd _ => false
  | .mmacFinish _ => false
  | .mstCapture _ _ => false
  | .mstComplete _ _ => false
  | .semaphoreCycle _ => false
  | .supervisorNotice _ => false
  | .fence _ _ => false
  | .fencePropagate _ => false
  | .uncorrectableError _ _ _ => false
  | .haltArrival _ => false
  | .powerThrottle _ _ => false
  | .coldReset _ => false
  | .warmReset => false
  | .cxlPortTrain _ _ _ _ => false
  | .causewayLine _ => false
  | .causewayDone _ _ => false
  | .hostCompletion _ _ _ => false
  | .mgmtSetPowerLimit _ _ => false
  | .mgmtReadPower _ => false
  | .mgmtCommitPartition _ _ => false
  | .mgmtReadEventRecorder _ _ _ _ => false
  | .mgmtReadAttestation _ => false
  | .readmissionHoldResend _ => false
  | .slotReopenHoldEnd _ _ _ _ => false
  | .imageLineExchange _ => false
  | .fieldMoveCopyDone _ _ _ => false
  | .clusterServiceTest _ _ _ _ => false
  | .inletGrantChange _ _ _ => false
  | .inletSlotAssign _ _ => false
  | .linkKeyLoad _ _ _ => false

/-- The instruction the decoder reads from `nbits` bits with value `w`, bit 0 the least significant bit of the first word;
the bits above `nbits`, up to the longest instruction of four words, are zero. -/
def decodeTableWord (nbits w : Nat) : Option Instr :=
  let v := w % 2 ^ nbits
  match decode (leBytes 32 v) with
  | .ok (i, _) => some i
  | .error _ => none

end Sys2Proof
end

