-- ==== Sys2Proof/Machine/Memory.lean ====
section
/-! DEFINITION. The one byte memory of the model (R212): scratchpads, field memory, HBM and CXL, operand slots and
accumulators, each at locations of its own; an unlisted location reads zero (R412; log 7). -/

namespace Sys2Proof.Machine

/-- Read one byte. -/
def Memory.get : List Host.Cell → Nat → Byte
  | [], _ => 0
  | (k, v) :: m, a => if k = a then v else Memory.get m a

/-- Write one byte: addresses stay rising and no entry is zero. -/
def Memory.put : List Host.Cell → Nat → Byte → List Host.Cell
  | [], a, b => if b = 0 then [] else [(a, b)]
  | (k, v) :: m, a, b =>
    if a < k then (if b = 0 then (k, v) :: m else (a, b) :: (k, v) :: m)
    else if a = k then (if b = 0 then m else (a, b) :: m)
    else (k, v) :: Memory.put m a b

/-- Every address is above `lo`, rising, and every byte is non-zero. -/
def Memory.wfAbove : Nat → List Host.Cell → Bool
  | _, [] => true
  | lo, (k, v) :: m => decide (lo ≤ k) && v != 0 && Memory.wfAbove (k + 1) m

/-- The canonical form. -/
def Memory.wf (m : List Host.Cell) : Bool := Memory.wfAbove 0 m

def State.peek (s : State) (loc : Nat) : Byte := Memory.get s.mem loc
def State.poke (s : State) (loc : Nat) (b : Byte) : State := { s with mem := Memory.put s.mem loc b }

/-- `n` bytes from a location up. -/
def State.peekBytes (s : State) (loc n : Nat) : List Byte := (List.range n).map fun i => s.peek (loc + i)

/-- Bytes written in ascending order (R14). -/
def State.pokeBytes (s : State) (loc : Nat) : List Byte → State
  | [] => s
  | b :: bs => (s.poke loc b).pokeBytes (loc + 1) bs

def State.peekNat (s : State) (loc n : Nat) : Nat := leNat (s.peekBytes loc n)

/-! ## Where each memory lies -/

/-- Byte `pa` of the HBM or CXL tier of estate `e` (R217). -/
def physLoc (e pa : Nat) : Nat := e * 2 ^ 52 + pa

/-- Number of a core among all cores, virtual and physical. -/
def coreKey : CoreId → Nat
  | .virt p n => p * 2 ^ 20 + n
  | .phys e d m => 2 ^ 40 + (e * 8 + d) * 1024 + m

def blockKey (b : BlockId) : Nat := ((b.pid * 64 + b.estate) * 8 + b.field) * 64 + b.vblock

/-- Byte `off` of a core's scratchpad (R214). -/
def scratchLoc (c : CoreId) (off : Nat) : Nat := 2 ^ 90 + coreKey c * 2 ^ 19 + off

/-- Byte of a die's field memory, lines counted per bank and interleaved over the 256 banks (R216). -/
def fieldLoc (e d base off : Nat) : Nat := 2 * 2 ^ 90 + (e * 8 + d) * 2 ^ 33 + base * 16384 + off

/-- Byte of operand slot `i` of a block (R186). -/
def slotLoc (b : BlockId) (i off : Nat) : Nat := 3 * 2 ^ 90 + blockKey b * 2 ^ 19 + i * 8192 + off

/-- Byte of accumulator `a` of a core (R190). -/
def accLoc (c : CoreId) (a off : Nat) : Nat := 4 * 2 ^ 90 + coreKey c * 2 ^ 17 + a * 16384 + off

/-! ## Poison (R379, R381) -/

/-- 64-byte lines touched by a range of locations. -/
def linesOf (loc n : Nat) : List Nat := (List.range ((loc + n - 1) / 64 + 1 - loc / 64)).map (loc / 64 + ·)

/-- The core of a scratchpad line. -/
def padCore (line : Nat) : CoreId :=
  let key := (64 * line - 2 ^ 90) / 2 ^ 19
  if key < 2 ^ 40 then .virt (key / 2 ^ 20) (key % 2 ^ 20)
  else .phys ((key - 2 ^ 40) / 8192) ((key - 2 ^ 40) / 1024 % 8) ((key - 2 ^ 40) % 1024)

/-- The block of a core is fenced, or the core alone is (R379; log 20). -/
def State.isFenced (s : State) (c : CoreId) : Bool :=
  (match c.block with
    | some b => (s.block b).fenced
    | none => false) || (s.core c).fenced

/-- A line holds poison of its own, or is one of a fenced block's scratchpads (R379, R381). -/
def State.linePoisoned (s : State) (line : Nat) : Bool :=
  s.poison.contains line || (decide (2 ^ 90 ≤ 64 * line) && decide (64 * line < 2 ^ 90 + 2 ^ 60) && s.isFenced (padCore line))

def State.poisonedAt (s : State) (loc n : Nat) : Bool := (linesOf loc n).any s.linePoisoned

def State.addPoison (s : State) (line : Nat) : State :=
  if s.poison.contains line then s else { s with poison := line :: s.poison }

def State.clearPoison (s : State) (line : Nat) : State := { s with poison := s.poison.filter (· != line) }

/-- A write commits: its bytes land, and a line wholly overwritten loses its poison (R381). -/
def State.commitBytes (s : State) (loc : Nat) (bs : List Byte) : State :=
  let s := s.pokeBytes loc bs
  (linesOf loc bs.length).foldl (fun s l => if loc ≤ 64 * l ∧ 64 * l + 64 ≤ loc + bs.length then s.clearPoison l else s) s

end Sys2Proof.Machine
end

