-- ==== Sys2Proof/Machine/Tables.lean ====
section
/-! DEFINITION. The partition-table record and what it says of the machine's layout (R312), membership of cores and blocks
(R7, R11, R123), the physical place of a virtual core (R138), routes (R316). -/

namespace Sys2Proof.Machine

abbrev Record := BitVec 1024

/-- A record at its reset values (R312). -/
def resetRecord : Record := BitVec.ofNat 1024 (8192 * 2 ^ 32 + 200000 * 2 ^ 256 + 2000000 * 2 ^ 288)

def State.record (s : State) (p e : Nat) : Record := (s.part p).record.get resetRecord e

/-- Bits [lo+n-1:lo] of a record. -/
def Record.bits (r : Record) (lo n : Nat) : Nat := r.toNat / 2 ^ lo % 2 ^ n

def Record.asid (r : Record) : Nat := Record.bits r 16 14
def Record.roundM (r : Record) : Bool := Record.bits r 30 1 == 1
def Record.active (r : Record) : Bool := Record.bits r 31 1 == 1
def Record.settle (r : Record) : Nat := max 2048 (Record.bits r 32 32)
def Record.runEntry (r : Record) : Nat := Record.bits r 64 64
def Record.dcc (r : Record) : Nat := Record.bits r 128 20
def Record.banks (r : Record) : Nat := Record.bits r 152 12 + 1
def Record.regcap (r : Record) : Nat := Record.bits r 164 6 + 1
def Record.blptr (r : Record) : Nat := Record.bits r 192 64
def Record.swapthr (r : Record) : Nat := Record.bits r 256 32
def Record.rrtimeout (r : Record) : Nat := max 65536 (Record.bits r 288 32)
def Record.orabase (r : Record) : Nat := Record.bits r 320 64
def Record.orasize (r : Record) : Nat := Record.bits r 384 32
def Record.fbase (r : Record) (f : Nat) : Nat := Record.bits r (416 + 64 * f) 17
def Record.flen (r : Record) (f : Nat) : Nat := Record.bits r (416 + 64 * f + 17) 17
/-- Lines of a bank (R212). -/
def bankLines : Nat := 5 * 2 ^ 20 / 64

/-- Bytes of a field's allocation that lie in its banks: DESIGN CHOICE (log 131), lines past a bank's end are beyond the
field's range (R5, R216). -/
def Record.fbytes (r : Record) (f : Nat) : Nat := min (Record.flen r f) (bankLines - Record.fbase r f) * 16384

def Record.fdie (r : Record) (f : Nat) : Nat := Record.bits r (416 + 64 * f + 34) 3
def Record.fvalid (r : Record) (f : Nat) : Bool := Record.bits r (416 + 64 * f + 37) 1 == 1

/-- The record of the issuing core's partition and estate. -/
def State.recordOf (s : State) (c : CoreId) : Record := s.record c.pid c.estate

def State.asidOf (s : State) (c : CoreId) : Nat := Record.asid (s.recordOf c)

/-- ASIDs under which records of a partition are kept: those of its active records (R221, R294). -/
def State.asidsOf (s : State) (p : Nat) : List Nat :=
  ((List.range 64).filter fun e => Record.active (s.record p e)).map fun e => Record.asid (s.record p e)

/-! ## Members -/

/-- A virtual block the partition has, resident or absent (R11, R315). -/
def State.hasBlock (s : State) (b : BlockId) : Bool := (s.block b).residence != .invalid

/-- A core of the partition (R123). With LOOSE 1 a CORE field that is not 0 names no core, and is no zero field: DESIGN CHOICE
(R215; log 137). -/
def State.hasCore (s : State) (c : CoreId) : Bool :=
  match c with
  | .virt p n =>
    match c.block with
    | some b => s.hasBlock b
    | none => n % 16 == 0 && (Map.get? (s.part p).loose n).isSome
  | .phys .. => true

/-- Mesh position of core k of cluster l: four rows of four (R138). -/
def meshOf (cluster k : Nat) : Nat := (cluster / 8 * 4 + k / 4) * 32 + (cluster % 8 * 4 + k % 4)

/-- Physical cluster of a mesh position (R138). -/
def clusterOf (m : Nat) : Nat := m / 32 / 4 * 8 + m % 32 / 4

/-- Physical cores there are: eight dies of 1,024 in each of 64 estates (R1, R2). -/
def realCore (e d m : Nat) : Bool := decide (e < 64) && decide (d < 8) && decide (m < 1024)

/-- The physical core a core runs on; none while its block is absent (R138), and none for boot mode once the physical core has
joined a partition (R412). -/
def State.place (s : State) (c : CoreId) : Option (Nat × Nat × Nat) :=
  match c with
  | .phys e d m =>
    if realCore e d m && !(s.physCore (e, d, m)).joined && (s.clusters.get {} (e, d, clusterOf m)).owner.isNone && !(s.parts.any fun p => p.2.loose.any fun q => q.2 == (e, d, m))
    then some (e, d, m) else none
  | .virt p n =>
    match c.block with
    | some b => match (s.block b).residence with
      | .resident (e, d, k) => some (e, d, meshOf k (numCore n))
      | _ => none
    | none => Map.get? (s.part p).loose n

/-- The die a virtual field of a partition is mapped to (R312). -/
def State.fieldDie (s : State) (p e f : Nat) : Nat × Nat := (e, Record.fdie (s.record p e) f)

/-- The die a core lies on: its field's, its own in boot mode. -/
def State.dieOf (s : State) (c : CoreId) : Nat × Nat :=
  match c with
  | .phys e d _ => (e, d)
  | .virt p n => s.fieldDie p (numEstate n) (numField n)

/-- Has the core's block stopped issuing for a swap (R67)? -/
def State.swapping (s : State) (c : CoreId) : Bool :=
  match c.block with
  | some b => (s.block b).swap != .none
  | none => false

/-- Is the block of a core, or the core, in the machine now: issues and engines run (R67, R70)? -/
def State.isResident (s : State) (c : CoreId) : Bool := (s.place c).isSome

/-- Route from estate e to estate t; the entry of its own estate is checked like any other (R248, R316, R425). -/
def State.hasRoute (s : State) (e t : Nat) : Bool :=
  if e = t then (s.estate e).ownRoute else (Map.get? (s.estate e).routes t).isSome

/-- A circuit reconfiguration holds traffic that leaves the estate (R401). -/
def State.fabricHolds (s : State) (c : CoreId) (e : Nat) : Bool := c.estate != e && (s.estate c.estate).phase != 0

/-- No route for an access of a core to estate t; one that a reconfiguration holds is checked when it is released (R400, R425). -/
def State.noRoute (s : State) (c : CoreId) (t : Nat) : Bool := !s.fabricHolds c t && !s.hasRoute c.estate t

/-- Party U lies within the scope of party T (R240); cores of one partition. -/
def State.within (s : State) (scope : Scope) (t u : CoreId) : Bool :=
  match scope with
  | .thread => false
  | .core => t == u
  | .blk => t == u || (match t.block, u.block with
    | some a, some b => a == b
    | _, _ => false)
  | .fld => s.dieOf t == s.dieOf u
  | .est => t.estate == u.estate
  | .dom => true

/-- Narrowest scope containing both cores (R130). -/
def State.narrowest (s : State) (t u : CoreId) : Scope :=
  if s.within .core t u then .core else if s.within .blk t u then .blk else if s.within .fld t u then .fld
  else if s.within .est t u then .est else .dom

/-- The package time base: one each nanosecond, at 2.7 cycles each (R3, R362). -/
def State.tbaseOf (s : State) (e : Nat) : Word := (s.estate e).tbase + BitVec.ofNat 64 (s.cycle * 10 / 27)

/-- The estate whose HBM holds a partition's rings and halt records: its lowest (log 25). -/
def State.homeEstate (s : State) (p : Nat) : Nat :=
  ((List.range 64).find? fun e => Record.active (s.record p e)).getD 0

/-- HBM, or a CXL port's window below its attached size (R217). -/
def State.physBacked (s : State) (e pa : Nat) : Bool :=
  pa < 0xC000000000
  || (0x400000000000 ≤ pa && pa < 0x500000000000
      && (pa - 0x400000000000) % 2 ^ 41 < (s.estate e).cxl.get 0 ((pa - 0x400000000000) / 2 ^ 41))

end Sys2Proof.Machine
end

