-- ==== Sys2Proof/Machine/Translate.lean ====
section
/-! DEFINITION. Addresses: regions (R213 to R216), the page walk (R218 to R220), TLBs (R222), and what an access's address
resolves to. -/

namespace Sys2Proof.Machine

/-- What an access is to the translation (R220). -/
inductive XKind where
  | read | write | fetch
deriving DecidableEq, Repr

/-- Bits of a page-table entry (R219). -/
def pteV (e : Word) : Bool := e.getLsbD 0
def pteLeaf (e : Word) : Bool := e.getLsbD 1
def pteW (e : Word) : Bool := e.getLsbD 2
def pteX (e : Word) : Bool := e.getLsbD 3
def pteMig (e : Word) : Bool := e.getLsbD 4
def ptePoi (e : Word) : Bool := e.getLsbD 5
def pteA (e : Word) : Bool := e.getLsbD 6
def pteD (e : Word) : Bool := e.getLsbD 7
/-- ADDR as a physical address. -/
def pteAddr (e : Word) : Nat := (e.extractLsb' 8 44).toNat * 256
def pteEstate (e : Word) : Nat := (e.extractLsb' 52 6).toNat
def pteNT (e : Word) : Bool := e.getLsbD 58

/-- Shift and index width of a level, and alignment of the next level's table (R218). -/
def levelShift (l : Nat) : Nat := match l with | 1 => 43 | 2 => 30 | 3 => 21 | _ => 16
def levelBits (l : Nat) : Nat := match l with | 1 => 13 | 2 => 13 | 3 => 9 | _ => 5
def nextAlign (l : Nat) : Nat := match l with | 1 => 65536 | 2 => 4096 | _ => 256

def levelIndex (va l : Nat) : Nat := va / 2 ^ levelShift l % 2 ^ levelBits l

/-- An entry of level `l` read in estate `e` breaks R217 or R219. A leaf is judged by its first byte, though its page may reach past
a port's attached size: DESIGN CHOICE (log 136). -/
def State.pteBad (s : State) (e l : Nat) (w : Word) : Bool :=
  if pteLeaf w then
    l == 1 || pteAddr w % 2 ^ levelShift l != 0 || !s.physBacked (pteEstate w) (pteAddr w) || w.extractLsb' 59 5 != 0
  else
    l == 4 || pteAddr w % nextAlign l != 0 || !s.physBacked e (pteAddr w) || w.extractLsb' 59 5 != 0
      || w.extractLsb' 52 6 != 0 || w.extractLsb' 2 6 != 0 || pteNT w

/-- How a walk ends (R220). -/
inductive WalkEnd where
  | leaf (w : Word) (page : Page) (loc : Nat)
  /-- not present, or in migration: the page waited for (R226) -/
  | park (page : Page) (mig : Bool)
  | fault (code level : Nat) (w : Word)
deriving DecidableEq, Repr

def pageOf (va l : Nat) : Page := { va := va / 2 ^ levelShift l * 2 ^ levelShift l, size := 2 ^ levelShift l }

/-- The levels left to read, from the table at `t` (R220). -/
def State.walkFrom (s : State) (e va : Nat) (kind : XKind) : List Nat → Nat → WalkEnd
  | [], _ => .park (pageOf va 4) false
  | l :: ls, t =>
    let loc := physLoc e (t + 8 * levelIndex va l)
    let w : Word := BitVec.ofNat 64 (s.peekNat loc 8)
    if s.poisonedAt loc 8 then .fault 0x0E l w
    else if !pteV w then .park (pageOf va 4) false
    else if s.pteBad e l w then .fault 0x0D l w
    else if pteLeaf w then
      if pteMig w then .park (pageOf va l) true
      else if ptePoi w then .fault 0x0C l w
      else if (kind = .write ∧ !pteW w) ∨ (kind = .fetch ∧ !pteX w) then .fault 0x0B l w
      else .leaf w (pageOf va l) loc
    else s.walkFrom e va kind ls (pteAddr w)

/-- The entries that a walk reads, in order: level, location, entry. -/
def State.readsFrom (s : State) (e va : Nat) : List Nat → Nat → List (Nat × Nat × Word)
  | [], _ => []
  | l :: ls, t =>
    let loc := physLoc e (t + 8 * levelIndex va l)
    let w : Word := BitVec.ofNat 64 (s.peekNat loc 8)
    (l, loc, w) :: (if pteV w && !s.pteBad e l w && !pteLeaf w && !s.poisonedAt loc 8 then s.readsFrom e va ls (pteAddr w) else [])

/-- The table root of a partition (R227). -/
def State.root (s : State) (p : Nat) : Nat := (s.part p).ttroot.toNat / 65536 % 2 ^ 36 * 65536

/-- `Walk` of R220, but for the update of A and D. -/
def State.walk (s : State) (c : CoreId) (va : Nat) (kind : XKind) : WalkEnd :=
  s.walkFrom c.estate va kind [1, 2, 3, 4] (s.root c.pid)

/-- The entry at which an uncorrectable error is read during a walk: any that the walk reads (R223; log 24). -/
def State.walkError (s : State) (c : CoreId) (va : Nat) : (Nat × Nat × Word) × State :=
  let es := s.readsFrom c.estate va [1, 2, 3, 4] (s.root c.pid)
  let (k, s) := s.useFresh
  (es.getD (Config.walkError k % es.length) (1, 0, 0), s)

/-- A and D set at the entry (R220). -/
def State.markPte (s : State) (w : Word) (loc : Nat) (kind : XKind) : Word × State :=
  let w' := w ||| (if kind = .write then 0xC0 else 0x40)
  (w', if w' = w then s else s.poke loc (w'.truncate 8))

/-! ## TLBs (R222) -/

def alignedTo (a : Word) (n : Nat) : Bool := a.toNat % n == 0

def Page.has (p : Page) (va : Nat) : Bool := p.va ≤ va && va < p.va + p.size

/-- A use makes the entry the most recent (R222). -/
def tlbTouch (t : List TlbEntry) (e : TlbEntry) : List TlbEntry := t.erase e ++ [e]

def tlbFind (t : List TlbEntry) (asid va : Nat) : Option TlbEntry := t.find? fun e => e.asid == asid && e.page.has va

/-- Most recent last; the least recent goes when the TLB is full. -/
def tlbFill (cap : Nat) (t : List TlbEntry) (e : TlbEntry) : List TlbEntry :=
  let t := t.filter (fun x => !(x.asid == e.asid && x.page == e.page)) ++ [e]
  if cap < t.length then t.drop 1 else t

/-- Eight ways of a set chosen by a hash the manual does not define (R222; log 16). -/
def tlb2Fill (t : List TlbEntry) (e : TlbEntry) : List TlbEntry :=
  let t := t.filter fun x => !(x.asid == e.asid && x.page == e.page)
  if t.length < 8 then t ++ [e]
  else
    let set (x : TlbEntry) := Config.tlbSet x.asid (x.page.va / x.page.size) % 512
    let mates := t.filter fun x => set x == set e
    if mates.length < 8 then t ++ [e]
    else match mates with
      | m :: _ => t.erase m ++ [e]
      | [] => t ++ [e]

def State.cluster (s : State) (k : Nat × Nat × Nat) : Cluster := s.clusters.get {} k
def State.modCluster (s : State) (k : Nat × Nat × Nat) (f : Cluster → Cluster) : State :=
  { s with clusters := s.clusters.set k (f (s.cluster k)) }

/-- Every entry of a cluster's TLBs goes (R222). -/
def State.emptyTlbs (s : State) (k : Nat × Nat × Nat) : State :=
  ({ s with phys := s.phys.map fun q =>
      if (q.1.1, q.1.2.1, clusterOf q.1.2.2) = k then (q.1, { q.2 with itlb := [], dtlb := [] }) else q } : State).modCluster k
    fun x => { x with tlb := [] }

/-- Fill a leaf into a core's private TLB of the kind and its cluster's second level (R222). -/
def State.fillTlb (s : State) (c : CoreId) (kind : XKind) (e : TlbEntry) : State :=
  match s.place c with
  | none => s
  | some (es, d, m) =>
    let s := s.modPhys (es, d, m) fun p =>
      if kind = .fetch then { p with itlb := tlbFill 32 p.itlb e } else { p with dtlb := tlbFill 64 p.dtlb e }
    s.modCluster (es, d, clusterOf m) fun k => { k with tlb := tlb2Fill k.tlb e }

/-- An entry for the address: one the access's own walk has found, a private one, or one of the second level (R222, R224). -/
def State.tlbHit (s : State) (c : CoreId) (kind : XKind) (va : Nat) (own : List TlbEntry := []) : Option TlbEntry :=
  match tlbFind own (s.asidOf c) va, s.place c with
  | some e, _ => some e
  | none, none => none
  | none, some (es, d, m) =>
    let p := s.physCore (es, d, m)
    match tlbFind (if kind = .fetch then p.itlb else p.dtlb) (s.asidOf c) va with
    | some e => some e
    | none => tlbFind (s.cluster (es, d, clusterOf m)).tlb (s.asidOf c) va

/-- A hit makes its entry the most recent of its TLB (R222). -/
def State.touchTlb (s : State) (c : CoreId) (kind : XKind) (va : Nat) : State :=
  match s.place c with
  | none => s
  | some (es, d, m) =>
    let p := s.physCore (es, d, m)
    match tlbFind (if kind = .fetch then p.itlb else p.dtlb) (s.asidOf c) va with
    | some e => s.modPhys (es, d, m) fun p =>
        if kind = .fetch then { p with itlb := tlbTouch p.itlb e } else { p with dtlb := tlbTouch p.dtlb e }
    | none => match tlbFind (s.cluster (es, d, clusterOf m)).tlb (s.asidOf c) va with
      | some e => s.modCluster (es, d, clusterOf m) fun k => { k with tlb := tlbTouch k.tlb e }
      | none => s

/-- A lookup that the core's private TLB does not answer is counted, and one that the second level does not answer either
(R363). -/
def State.countMiss (s : State) (c : CoreId) (kind : XKind) (va : Nat) (walks : Bool) : State :=
  match c.isVirt, s.place c with
  | true, some q =>
    let p := s.physCore q
    if (tlbFind (if kind = .fetch then p.itlb else p.dtlb) (s.asidOf c) va).isSome then s
    else s.modPhys q fun x =>
      let x := { x with perf := x.perf.set 8 (x.perf.get 0 8 + 1) }
      if walks then { x with perf := x.perf.set 9 (x.perf.get 0 9 + 1) } else x
  | _, _ => s

/-- What a paged address comes to without a walk. -/
inductive Xlate where
  | ok (estate pa : Nat) (nt : Bool)
  | miss
  | fault (code : Nat)
deriving DecidableEq, Repr

/-- Physical address in a page's leaf. -/
def leafPa (e : TlbEntry) (va : Nat) : Nat := pteAddr e.leaf + (va - e.page.va)

/-- Translate through the TLBs (R222, R223); in boot mode an address is a physical address of the own estate (log 23). -/
def State.xlate (s : State) (c : CoreId) (kind : XKind) (va : Nat) (own : List TlbEntry := []) : Xlate :=
  match c with
  | .phys e _ _ => if s.physBacked e va then .ok e va true else .fault 0x06
  | .virt _ _ =>
    match s.tlbHit c kind va own with
    | none => .miss
    | some t =>
      if (kind = .write ∧ !pteW t.leaf) ∨ (kind = .fetch ∧ !pteX t.leaf) then .fault 0x0B
      else if kind = .write ∧ !pteD t.leaf then .miss
      else if s.noRoute c (pteEstate t.leaf) then .fault 0x09
      else .ok (pteEstate t.leaf) (leafPa t va) (pteNT t.leaf)

/-! ## Regions and targets (R213 to R216, R241, R256, R279) -/

/-- Bank group of HBM and CXL (R279). -/
def memGroup (own e pa : Nat) : Nat :=
  if own ≠ e then 60 + e % 4
  else if pa < 0x400000000000 then 48 + pa / 256 % 8
  else 56 + (pa - 0x400000000000) / 2 ^ 41 / 2

/-- What an address resolves to. -/
inductive Located where
  | own (off : Nat)
  | remote (ts : List Target)
  /-- a page of this address must be walked first -/
  | walk (va : Nat)
  | fault (code : Nat) (addr : Word)
deriving DecidableEq, Repr

/-- A core's scratchpad as a target, with its any-core address (R215, R230). -/
def State.scratchTarget (s : State) (c t : CoreId) (off size : Nat) : Target :=
  { loc := scratchLoc t off, len := size
    va := (0xFE * 2 ^ 56 + t.num * 2 ^ 29) + off
    unit := (match t.block with
      | some b => .block b
      | none => .loose t.pid t.num)
    estate := t.estate
    group := if t.estate ≠ c.estate then 60 + t.estate % 4 else 40 + (if t.isVirt then numField t.num else (s.dieOf t).2) }

/-- Any core's scratchpad (R215). -/
def State.locateAny (s : State) (c : CoreId) (a : Word) (size : Nat) : Located :=
  let num := (a.extractLsb' 29 20).toNat
  let off := (a.extractLsb' 0 19).toNat
  let t := CoreId.virt c.pid num
  if a.extractLsb' 49 7 ≠ 0 ∨ a.extractLsb' 19 10 ≠ 0 then .fault 0x06 a
  else if !s.hasCore t ∨ !c.isVirt then .fault 0x07 a
  else if s.noRoute c (numEstate num) then .fault 0x09 a
  else if 2 ^ 19 < off + size then .fault 0x06 a
  else .remote [s.scratchTarget c t off size]

/-- Field memory (R216). -/
def State.locateField (s : State) (c : CoreId) (a : Word) (size : Nat) : Located :=
  let e := (a.extractLsb' 42 6).toNat
  let f := (a.extractLsb' 39 3).toNat
  let off := (a.extractLsb' 0 31).toNat
  let r := s.record c.pid e
  if a.extractLsb' 48 8 ≠ 0 ∨ a.extractLsb' 31 8 ≠ 0 then .fault 0x06 a
  else if !Record.fvalid r f ∨ !c.isVirt then .fault 0x07 a
  else if s.noRoute c e then .fault 0x09 a
  else if Record.fbytes r f < off + size then .fault 0x08 a
  else
    let d := Record.fdie r f
    .remote [{ loc := fieldLoc e d (Record.fbase r f) off, len := size, va := a.toNat, unit := .field e d, estate := e
               group := if e ≠ c.estate then 60 + e % 4 else if s.dieOf c = (e, d) then off / 64 % 256 / 8 else 32 + f }]

/-- One page's share of a paged access. -/
def pagedTarget (own e va pa len : Nat) (nt : Bool) : Target :=
  { loc := physLoc e pa, len := len, va := va, unit := .estate e, estate := e, group := memGroup own e pa, notrack := nt }

/-- A paged access; one that crosses a 64 KiB boundary may lie on two pages (R256). -/
def State.locatePaged (s : State) (c : CoreId) (kind : XKind) (a : Word) (size : Nat) (own : List TlbEntry) : Located :=
  let va := a.toNat
  let first := min size (65536 - va % 65536)
  match s.xlate c kind va own with
  | .miss => .walk va
  | .fault code => .fault code a
  | .ok e pa nt =>
    if size ≤ first then .remote [pagedTarget c.estate e va pa size nt]
    else match s.xlate c kind (va + first) own with
      | .miss => .walk (va + first)
      | .fault code => .fault code (BitVec.ofNat 64 (va + first))
      | .ok e2 pa2 nt2 => .remote [pagedTarget c.estate e va pa first nt, pagedTarget c.estate e2 (va + first) pa2 (size - first) nt2]

/-- Resolve the bytes of an access (R213, R256), with the leaves its own walks have found. -/
def State.locate (s : State) (c : CoreId) (kind : XKind) (a : Word) (size : Nat) (own : List TlbEntry := []) : Located :=
  let top := (a.extractLsb' 56 8).toNat
  if ((a + BitVec.ofNat 64 (size - 1)).extractLsb' 56 8).toNat ≠ top then .fault 0x06 a
  else match top with
    | 0x00 => s.locatePaged c kind a size own
    | 0xFC => if a.extractLsb' 19 37 ≠ 0 ∨ 2 ^ 19 < (a.extractLsb' 0 19).toNat + size then .fault 0x06 a
              else .own (a.extractLsb' 0 19).toNat
    | 0xFD => s.locateField c a size
    | 0xFE => s.locateAny c a size
    | _ => .fault 0x06 a

/-! ## Walkers (R222) -/

/-- The message's access waits for a walk. -/
def State.missing (s : State) (m : Msg) : Bool :=
  m.stage == .walk && (match m.body with
    | .access a _ =>
      let kind : XKind := match a.kind with
        | .load | .rld => .read
        | _ => .write
      (match s.locate m.core kind a.addr a.size m.leafs with
        | .walk _ => true
        | _ => false)
    | _ => false)

/-- Physical cluster whose walkers serve a core (R222). -/
def State.walkCluster (s : State) (c : CoreId) : Option (Nat × Nat × Nat) :=
  (s.place c).map fun p => (p.1, p.2.1, clusterOf p.2.2)

/-- Data accesses of a cluster that have missed, in arrival order (R222). -/
def State.misses (s : State) (k : Nat × Nat × Nat) : List Nat :=
  (s.msgs.filter fun m => s.walkCluster m.2.core == some k && s.missing m.2).map Prod.fst

def Waiter.core : Waiter → CoreId
  | .fetch c _ | .cmd c _ | .mst c _ => c

/-- It still waits for its walk. -/
def State.awaitsWalker (s : State) (w : Waiter) : Bool :=
  match w with
  | .fetch c n => (s.ctx c n).run == .ready || (s.ctx c n).run == .stalled
  | .cmd c id => (s.core c).cmds.any fun x => x.1 == id && x.2.running && x.2.park.isNone
  | .mst c a => (s.core c).mreqs.any fun r => r.acc == a && r.started && r.park.isNone

/-- What waits for a walker of the cluster beside data accesses, with its order of arrival. -/
def State.waitersOf (s : State) (k : Nat × Nat × Nat) : List (Waiter × Nat) :=
  (s.cluster k).waiters.filter fun w => s.walkCluster w.1.core == some k && s.awaitsWalker w.1

/-- Everything before a place of the walker wait queue: the first eight have walkers (R222, R320). -/
def State.aheadOf (s : State) (k : Nat × Nat × Nat) (ord : Nat) : Nat :=
  ((s.misses k).filter fun i => decide (i < ord)).length + ((s.waitersOf k).filter fun w => decide (w.2 < ord)).length

/-- A fetch or an engine's piece has a walker, at its turn in the queue. -/
def State.walkerFree (s : State) (w : Waiter) : Bool :=
  match s.walkCluster w.core with
  | some k => decide (s.aheadOf k (((s.cluster k).waiters.find? fun x => x.1 == w).map Prod.snd |>.getD s.nextId) < 8)
  | none => true

/-- It takes its place in the queue, once. -/
def State.joinQueue (s : State) (w : Waiter) : State :=
  match s.walkCluster w.core with
  | some k =>
    if (s.cluster k).waiters.any fun x => x.1 == w then s
    else { s with nextId := s.nextId + 1 }.modCluster k fun x => { x with waiters := x.waiters ++ [(w, s.nextId)] }
  | none => s

/-- It waits no more. -/
def State.leaveQueue (s : State) (w : Waiter) : State :=
  match s.walkCluster w.core with
  | some k =>
    if (s.cluster k).waiters.any fun x => x.1 == w then
      s.modCluster k fun x => { x with waiters := x.waiters.filter fun y => y.1 != w }
    else s
  | none => s

/-! ## Fetch (R58, R118, R213) -/

/-- How a fetch ends; what its walks have done stays. -/
inductive Fetched where
  | words (ws : List Word) (s : State)
  | park (va : Nat) (page : Page) (mig : Bool) (s : State)
  | fault (cause level : Nat) (w : Word) (s : State)
  /-- the walkers are taken, or a reconfiguration holds the fetch (R401) -/
  | wait (s : State)

/-- Level of the leaf of a page (R218). -/
def Page.level (p : Page) : Nat := if p.size = 2 ^ 30 then 2 else if p.size = 2 ^ 21 then 3 else 4

/-- One word at a paged address, for a context, walking in the same turn on a miss (log 24). -/
def State.fetchWord (s : State) (c : CoreId) (n : Nat) (a : Word) : Except Fetched (Word × State) :=
  let va := a.toNat
  if a.extractLsb' 56 8 ≠ 0 then .error (.fault 0x06 0 0 s)
  else if va < 0x10000 then .error (.fault 0 0 0 s)
  else
    -- a poisoned line is reported with the leaf that the walk read, if one was made (R373)
    let rd (s : State) (e pa level : Nat) (leaf : Word) : Except Fetched (Word × State) :=
      if s.fabricHolds c e then .error (.wait s)
      else if s.poisonedAt (physLoc e pa) 8 then .error (.fault 0x0C level leaf s)
      else .ok (BitVec.ofNat 64 (s.peekNat (physLoc e pa) 8), s)
    match s.xlate c .fetch va with
    | .ok e pa _ =>
      rd (if c.isVirt then ((s.countMiss c .fetch va false).touchTlb c .fetch va).leaveQueue (.fetch c n) else s) e pa 0 0
    | .fault code => .error (.fault code 0 0 s)
    | .miss =>
      if !s.walkerFree (.fetch c n) then .error (.wait (s.joinQueue (.fetch c n)))
      else
      let s := (s.countMiss c .fetch va true).leaveQueue (.fetch c n)
      match s.walk c va .fetch with
      | .park p mig => .error (.park va p mig s)
      | .fault code l w => .error (.fault code l w s)
      | .leaf w p loc =>
        let (w, s) := s.markPte w loc .fetch
        let s := s.fillTlb c .fetch { asid := s.asidOf c, page := p, leaf := w }
        if s.noRoute c (pteEstate w) then .error (.fault 0x09 0 0 s)
        else rd s (pteEstate w) (pteAddr w + (va - p.va)) p.level w

/-- `n` words from an address up. -/
def State.fetchMore (s : State) (c : CoreId) (n : Nat) (a : Word) : Nat → List Word → Fetched
  | 0, acc => .words acc.reverse s
  | k + 1, acc =>
    match s.fetchWord c n a with
    | .error e => e
    | .ok (w, s) => s.fetchMore c n (a + 8) k (w :: acc)

/-- The words of a context's instruction at an address (R86). -/
def State.fetchInstr (s : State) (c : CoreId) (n : Nat) (a : Word) : Fetched :=
  match s.fetchWord c n a with
  | .error e => e
  | .ok (w, s) => s.fetchMore c n (a + 8) (wordCount w - 1) [w]

/-- Record of an instruction-fetch fault (R373). -/
def fetchInfo (a : Word) (cause level : Nat) (w : Word) : Info :=
  { addr := a, r4 := BitVec.ofNat 64 cause, r5 := BitVec.ofNat 64 level, r6 := w }

end Sys2Proof.Machine
end

