-- ==== Sys2Proof/Machine/Rings.lean ====
section
/-! DEFINITION. Notices (R378) and the rings of records in HBM: the race log (R302) and the page-request queue (R226). -/

namespace Sys2Proof.Machine

/-- A notice sets its bit in `snotice` (R378). -/
def State.notice (s : State) (p bit : Nat) : State :=
  s.modPart p fun x => { x with snotice := x.snotice ||| BitVec.ofNat 64 (2 ^ bit) }

def noticePreq := 0
def noticePfull := 1
def noticeMovr := 2
def noticeStarve := 3
def noticeFence := 4
def noticeSwap := 5

/-- Words as bytes, little-endian (R14). -/
def wordBytes (ws : List Word) : List Byte := ws.flatMap fun w => leBytes 8 w.toNat

/-- Address and size in records of a ring (R227, R303). -/
def ringBase (w : Word) : Nat := w.toNat / 4096 % 2 ^ 40 * 4096
def ringSize (w : Word) : Nat := w.toNat % 4096 + 1

/-- Is the ring full: head and tail count records without end (log 26)? -/
def ringFull (size : Nat) (head tail : Word) : Bool := size ≤ (tail - head).toNat

/-- One more, stopping at 2^64 − 1. -/
def satInc (w : Word) : Word := if w = BitVec.allOnes 64 then w else w + 1

/-- Bytes stored by the hardware itself at a physical address: untracked. -/
def State.physWrite (s : State) (e pa : Nat) (bs : List Byte) : State := s.commitBytes (physLoc e pa) bs

/-- A race trap record is appended to the log, or dropped (R302, R303). -/
def State.logRace (s : State) (p : Nat) (ws : List Word) : State :=
  let x := s.part p
  if ringBase x.rlogbase = 0 ∨ ringFull (ringSize x.rlogbase) x.rloghead x.rlogtail then
    s.modPart p fun x => { x with rlogdrop := satInc x.rlogdrop }
  else
    let s := s.physWrite (s.homeEstate p) (ringBase x.rlogbase + x.rlogtail.toNat % ringSize x.rlogbase * 64) (wordBytes ws)
    s.modPart p fun x => { x with rlogtail := x.rlogtail + 1 }

/-- KIND of a page request (R226). -/
def XKind.code : XKind → Nat
  | .read => 0 | .write => 1 | .fetch => 2

/-- A page request is appended, or dropped and counted; the supervisor is told of one appended (R65, R226, R378). -/
def State.pageRequest (s : State) (c : CoreId) (va kind ctx : Nat) (mig : Bool) : State :=
  let p := c.pid
  let x := s.part p
  if ringFull (ringSize x.preqbase) x.preqhead x.preqtail then
    s.modPart p fun x => { x with preqlost := satInc x.preqlost, preqDropped := true }
  else
    let lo := va % 2 ^ 56 + kind * 2 ^ 56 + (if mig then 2 ^ 58 else 0)
    let hi := c.num + ctx * 2 ^ 20 + s.asidOf c * 2 ^ 24
    let s := s.physWrite (s.homeEstate p) (ringBase x.preqbase + x.preqtail.toNat % ringSize x.preqbase * 16)
      (wordBytes [BitVec.ofNat 64 lo, BitVec.ofNat 64 hi])
    (s.modPart p fun x => { x with preqtail := x.preqtail + 1 }).notice p noticePreq

/-- A park is counted (R363). -/
def State.countPark (s : State) (c : CoreId) : State :=
  match s.place c with
  | some q => s.modPhys q fun x => { x with perf := x.perf.set 5 (x.perf.get 0 5 + 1) }
  | none => s

/-- Add a number to a list. -/
def addTo (n : Nat) (ns : List Nat) : List Nat := if ns.contains n then ns else n :: ns

/-! ## Events and errors of memory (R410, R411, R418) -/

/-- An entry of a die's event recorder. -/
def State.logEvent (s : State) (d : Nat × Nat) (kind unit info : Nat) : State :=
  let e := BitVec.ofNat 256 ((s.tbaseOf d.1).toNat + kind % 256 * 2 ^ 64 + unit % 2 ^ 24 * 2 ^ 72 + info % 2 ^ 160 * 2 ^ 96)
  s.modDie d fun x => { x with evr := x.evr.set (x.evrNext % 4096) e, evrNext := (x.evrNext + 1) % 4096 }

/-- CXL port whose range holds a physical address (R217). -/
def portOf (pa : Nat) : Option Nat :=
  if 0x400000000000 ≤ pa ∧ (pa - 0x400000000000) / 2 ^ 41 < 8 then some ((pa - 0x400000000000) / 2 ^ 41) else none

/-- Poison received on a CXL port shows in `cxlstat` (R217, R411). -/
def State.portPoison (s : State) (e pa : Nat) : State :=
  match portOf pa with
  | some n => s.modEstate e fun x => { x with cxlstat := x.cxlstat ||| BitVec.ofNat 64 (2 ^ (16 + n)) }
  | none => s

/-- An uncorrectable error is read at a location: the line is poisoned, the port shows it, and it is recorded (R381, R410, R418;
log 36); in a scratchpad it fences the core's block, or stops a core that has none (R379; log 20). -/
def State.readError (s : State) (loc : Nat) : State :=
  if loc < 2 ^ 90 then
    let e := loc / 2 ^ 52
    let pa := loc % 2 ^ 52
    (((s.addPoison (loc / 64)).portPoison e pa).logEvent (e, 0) 5 ((portOf pa).getD 0) 0)
  else if loc < 2 ^ 90 + 2 ^ 60 then
    let c := padCore (loc / 64)
    match c.block with
    | some b => s.modBlock b fun x => if x.fenced then x else { x with fenceDue := some (x.fenceDue.getD 1) }
    | none => s.modCore c fun k => { k with fenced := true }
  else (s.addPoison (loc / 64)).logEvent ((loc - 2 ^ 91) / 2 ^ 33 / 8, (loc - 2 ^ 91) / 2 ^ 33 % 8) 5 0 0

end Sys2Proof.Machine
end

