-- ==== Sys2Proof/Machine/Belvedere.lean ====
section
/-! DEFINITION. The Belvedere: records, the check and the update (R288 to R303). -/

namespace Sys2Proof

/-- A release (R260). -/
def Order.releases : Order → Bool
  | .rel | .acqrel => true
  | _ => false

def Order.acquires : Order → Bool
  | .acq | .acqrel => true
  | _ => false

end Sys2Proof

namespace Sys2Proof.Machine

/-- What is checked: who accesses, with what clocks, and how (R291). -/
structure Check where
  core : CoreId
  ctx : Nat
  snap : Snap
  read : Bool
  write : Bool
  atomic : Bool
  /-- a release write: the vector published is `snap` -/
  release : Bool
  order : Order
  scope : Scope
  pc : Word
  cmd : Bool := false
  mode : Nat
  /-- a write made for the Polder, which commits in every mode (R300) -/
  always : Bool := false
  /-- its bytes are atomic one by one (R231) -/
  parts : Bool := false
deriving DecidableEq, Repr

/-- The bytes of an access in one line (R289, R291). -/
structure Seg where
  die : Nat × Nat
  line : Nat
  off : Nat
  n : Nat
  addr : Nat
  /-- location of the line's first byte -/
  base : Nat := 0
  image : Bool := false
deriving DecidableEq, Repr

/-! ## Lines -/

/-- The die that keeps a target's records (R294). -/
def State.recordDie (s : State) (t : Target) : Nat × Nat :=
  match t.unit with
  | .block b => s.fieldDie b.pid b.estate b.field
  | .loose p n => s.fieldDie p (numEstate n) (numField n)
  | .field e d => (e, d)
  | .estate e => (e, t.va / 64 % 8)

/-- Is the target an absent block's image (R70)? -/
def State.toImage (s : State) (t : Target) : Bool :=
  match t.unit with
  | .block b => (s.block b).residence == .absent
  | _ => false

/-- The bytes of a target, line by line; an NT page is not tracked (R294). -/
def State.segsOf (s : State) (t : Target) : List Seg :=
  if t.notrack ∨ t.len = 0 then []
  else
    let first := t.va / 64
    let last := (t.va + t.len - 1) / 64
    (List.range (last + 1 - first)).map fun i =>
      let l := first + i
      let lo := max t.va (64 * l)
      let hi := min (t.va + t.len) (64 * l + 64)
      { die := s.recordDie t, line := l, off := lo - 64 * l, n := hi - lo, addr := lo, base := t.loc + 64 * l - t.va, image := s.toImage t }

/-- Bytes of the recorded range (R289). -/
def rangeSize (n : Nat) : Nat :=
  if 64 ≤ n then 64 else if 32 ≤ n then 32 else if 16 ≤ n then 16 else if 8 ≤ n then 8 else if 4 ≤ n then 4
  else if 2 ≤ n then 2 else 1

/-- WSIZE of a range (R288). -/
def sizeCode (n : Nat) : Nat :=
  if n = 64 then 6 else if n = 32 then 5 else if n = 16 then 4 else if n = 8 then 3 else if n = 4 then 2
  else if n = 2 then 1 else 0

def overlaps (a n b m : Nat) : Bool := a < b + m && b < a + n

/-! ## The check (R291) -/

/-- Entry of level k, index i: a live counter for an own unit (R283). -/
def Snap.entry (v : Snap) (k i : Nat) : Nat := if v.who.idx k = i then v.own.getD (k - 1) 0 else v.ents.get 0 (k, i)

/-- The counter of a party's level-k unit. -/
def State.unitCounter (s : State) (pid : Nat) (p : Party) (k : Nat) : Nat :=
  (s.counters (.virt pid p.vcore) p.ctx).getD (k - 1) 0

/-- The race found: what R301 records of it. -/
structure Race where
  other : Nat
  level : Nat
  mine : Nat
  theirs : Nat
  oatom : Bool
  ovcore : Nat
  octx : Nat
  ooff : Nat
  osize : Nat
deriving DecidableEq, Repr

/-- Is `theirs` unknown to the accessor at level m? Units that sweep count as 0, and a context never races with itself
(R291, R297). -/
def State.unseen (s : State) (ck : Check) (m : Nat) (p : Party) (theirs : Nat) : Bool :=
  decide (ck.snap.entry m (p.idx m) < theirs) && ck.snap.who != p && s.unitCounter ck.core.pid p m != sweeping

def State.raceWith (s : State) (ck : Check) (other : Nat) (p : Party) (clk : List Nat) (oatom : Bool) (off size : Nat) :
    Option Race :=
  let m := sharedLevel ck.snap.who p
  if s.unseen ck m p (clk.getD (m - 1) 0) then
    some { other := other, level := m, mine := ck.snap.entry m (p.idx m), theirs := clk.getD (m - 1) 0, oatom := oatom
           ovcore := p.vcore, octx := p.ctx, ooff := off, osize := sizeCode size }
  else none

def Reads.slots : Reads → List Reader
  | .one a => [a]
  | .two a b => [a, b]
  | _ => []

/-- Any byte of [off, off+n) in the mask. -/
def maskHits (m : List Bool) (off n : Nat) : Bool := ((m.drop off).take n).any id

/-- `Races` of R291 at one line. -/
def State.races (s : State) (ck : Check) (g : Seg) (r : LineRec) : Option Race :=
  let writer :=
    if r.kind ≠ .noWrite ∧ overlaps g.off g.n r.off r.size ∧ ¬(ck.atomic ∧ r.kind ≠ .plain) then
      s.raceWith ck 0 r.who r.clk (r.kind != .plain) r.off r.size
    else none
  match writer with
  | some x => some x
  | none =>
    if ck.write then
      let slot := r.reads.slots.findSome? fun a =>
        if overlaps g.off g.n a.off a.size ∧ ¬(ck.atomic ∧ a.atom) then s.raceWith ck 1 a.who a.clk a.atom a.off a.size
        else none
      match slot with
      | some x => some x
      | none => match r.reads with
        | .shared clkMax sl u allAtom mask =>
          let m := sharedLevel ck.snap.who u
          if maskHits mask g.off g.n ∧ ¬(ck.atomic ∧ allAtom) ∧ !sameUnit sl ck.snap.who u
              ∧ s.unseen ck m u (clkMax.getD (m - 1) 0) then
            some { other := 2, level := m, mine := ck.snap.entry m (u.idx m), theirs := clkMax.getD (m - 1) 0
                   oatom := allAtom, ovcore := u.vcore, octx := 15, ooff := 0, osize := 7 }
          else none
        | _ => none
    else none

/-- The race trap record (R301). FIRINFO is the accessor's register as the check finds it: DESIGN CHOICE (log 138). -/
def State.raceWords (s : State) (ck : Check) (g : Seg) (r : Race) : List Word :=
  let b (x : Bool) : Nat := if x then 1 else 0
  let akind := if ck.write then (if ck.read then 2 else 1) else 0
  [ck.pc, BitVec.ofNat 64 g.addr,
   BitVec.ofNat 64 (akind + ck.order.code * 2 ^ 2 + b ck.cmd * 2 ^ 5 + b g.image * 2 ^ 6 + b (ck.mode == 1) * 2 ^ 7
     + (g.n - 1) * 2 ^ 8 + ck.scope.code * 2 ^ 15 + r.level * 2 ^ 18 + r.other * 2 ^ 21 + b r.oatom * 2 ^ 23
     + r.mine * 2 ^ 32 + r.theirs * 2 ^ 48),
   BitVec.ofNat 64 (r.ovcore + r.octx * 2 ^ 20 + r.ooff * 2 ^ 24 + r.osize * 2 ^ 30),
   BitVec.ofNat 64 (ck.core.num + ck.ctx * 2 ^ 20 + s.asidOf ck.core * 2 ^ 24),
   s.tbaseOf ck.core.estate, (s.part ck.core.pid).bvraces, (s.ctx ck.core ck.ctx).firinfo]

/-! ## The store of records (R295) -/

/-- Ways a line's records take: one, and two more with a read record. -/
def LineRec.ways (r : LineRec) : Nat := if r.reads = .none then 1 else 3

def waysOf (m : List ((Nat × Nat) × LineRec)) : Nat := (m.map fun e => e.2.ways).sum

/-- The set of a line, one of 262,144 (R295; log 16). -/
def belvSet (key : Nat × Nat) : Nat := Config.belvSet (key.1 * 2 ^ 58 + key.2) % 262144

/-- Forget a stored vector. -/
def State.dropVec (s : State) (r : Option HeldRef) : State :=
  match r with
  | none => s
  | some r => s.modDie r.die fun x => { x with sv := Map.erase x.sv r.id }

def Svp.toRef : Svp → Option HeldRef
  | .ref r => some r
  | _ => Option.none

/-- Victims leave until the sixteen ways of the set hold the rest: read records first, then records of no write, then any,
each least recent first (R295). -/
def State.evictFrom (s : State) (d : Nat × Nat) (key : Nat × Nat) (set : Nat) : Nat → State
  | 0 => s
  | fuel + 1 =>
    let x := s.die d
    let mates := x.recs.filter fun e => belvSet e.1 == set
    if waysOf mates ≤ 16 then s
    else
      let others := mates.filter fun e => e.1 != key
      match others.find? fun e => e.2.reads != .none with
      | some e => (s.modDie d fun x => { x with recs := Map.set x.recs e.1 { e.2 with reads := .none } }).evictFrom d key set fuel
      | none =>
        let v := match others.find? fun e => e.2.kind == .noWrite with
          | some e => some e
          | none => others.head?
        match v with
        | none => s
        | some e =>
          let low := x.bvevict.truncate 32 + 1#32
          ((s.modDie d fun x => { x with recs := Map.erase x.recs e.1
                                         bvevict := (x.bvevict >>> 32 <<< 32) ||| low.zeroExtend 64 }).dropVec
            e.2.svp.toRef).evictFrom d key set fuel

/-- Put a line's record in as the most recent (R295). A die with at most sixteen ways in use needs no set (log 16). -/
def State.putRec (s : State) (d : Nat × Nat) (key : Nat × Nat) (r : LineRec) : State :=
  let s := s.modDie d fun x => { x with recs := Map.erase x.recs key ++ [(key, r)] }
  if waysOf (s.die d).recs ≤ 16 then s
  else s.evictFrom d key (belvSet key) 64

/-! ## The update (R290, R292) -/

/-- A unit's coordinates with what lies below the level zero (R290). -/
def Party.unitOf (p : Party) (k : Nat) : Party :=
  if k ≤ 1 then p
  else if k = 2 then { vcore := p.vcore, ctx := 0 }
  else if k = 3 then { vcore := p.vcore / 16 * 16 - (if numLoose p.vcore then numBlock p.vcore % 16 * 16 else 0), ctx := 0 }
  else if k = 4 then { vcore := p.vcore % 524288 / 1024 * 1024, ctx := 0 }
  else if k = 5 then { vcore := p.vcore % 524288 / 8192 * 8192, ctx := 0 }
  else { vcore := 0, ctx := 0 }

/-- Lowest level at which two parties lie in one unit; 6 for the domain. -/
def joinLevel (lo : Nat) (p q : Party) : Nat := ([1, 2, 3, 4, 5].find? fun k => lo ≤ k && sameUnit k p q).getD 6

def maxes (a b : List Nat) : List Nat := [0, 1, 2, 3, 4].map fun i => max (a.getD i 0) (b.getD i 0)

/-- Bytes [off, off+n) of a line. -/
def byteMask (off n : Nat) : List Bool := (List.range 64).map fun i => off ≤ i && i < off + n

def andMask (a b : List Bool) : List Bool := (a.zip b).map fun p => p.1 && p.2

/-- A reader joins the read-shared form. -/
def shareMore (clk : List Nat) (sl : Nat) (u : Party) (atom : Bool) (mask : List Bool) (r : Reader) (off n : Nat) : Reads :=
  let sl' := joinLevel sl u r.who
  .shared (maxes clk r.clk) sl' (u.unitOf sl') (atom && r.atom) (andMask mask (byteMask off n))

/-- R290: the reader's own slot, a free slot, or the read-shared form. -/
def Reads.add (rs : Reads) (r : Reader) (off n : Nat) : Reads :=
  match rs with
  | .none => .one r
  | .one a => if a.who = r.who then .one r else .two a r
  | .two a b =>
    if a.who = r.who then .two r b
    else if b.who = r.who then .two a r
    else
      let sl := joinLevel 1 a.who b.who
      shareMore (maxes a.clk b.clk) sl (a.who.unitOf sl) (a.atom && b.atom)
        (andMask (byteMask a.off a.size) (byteMask b.off b.size)) r off n
  | .shared clk sl u atom mask => shareMore clk sl u atom mask r off n

/-- The scope of what SVP marks or names. -/
def Svp.scope? : Svp → Option Scope
  | .none => Option.none
  | .ref r => some r.scope
  | .lost sc => some sc

/-- One vector from an old held vector and a new release: the old is lost where the store has lost it (R285, R292). -/
def State.mergeSvp (s : State) (d : Nat × Nat) (old : Svp) (v : Snap) : Svp × State :=
  match old with
  | .lost sc => (.lost (sc.wider v.scope), s)
  | .none =>
    let (r, s) := s.storeVec d v.held
    (.ref r, s)
  | .ref r => match s.vec r with
    | none => (.lost (r.scope.wider v.scope), s)
    | some h =>
      let (r', s) := (s.dropVec (some r)).storeVec d (contribute (some h) v)
      (.ref r', s)

/-- `Update` of R292 at one line. -/
def State.updateRec (s : State) (ck : Check) (g : Seg) (key : Nat × Nat) (old : Option LineRec) : State :=
  let r := old.getD {}
  let size := rangeSize g.n
  if !ck.write then
    let rd : Reader := { clk := ck.snap.own, who := ck.snap.who, atom := ck.atomic, off := g.off, size := size }
    s.putRec g.die key { r with reads := r.reads.add rd g.off g.n }
  else
    let covered := decide (g.off ≤ r.off ∧ r.off + r.size ≤ g.off + g.n)
    let keeps := r.kind = .release ∧ !covered
    let (kind, svp, s) : WKind × Svp × State :=
      if ck.read ∧ r.kind = .release then
        if ck.release then
          let (v, s) := s.mergeSvp g.die r.svp ck.snap
          (.release, v, s)
        else (.release, r.svp, s)
      else if ck.release then
        let (v, s) := if keeps then s.mergeSvp g.die r.svp ck.snap
          else (s.dropVec r.svp.toRef).mergeSvp g.die .none ck.snap
        (.release, v, s)
      else
        (if ck.atomic then .atomic else .plain,
         (if keeps then match r.svp.scope? with
            | some sc => .lost sc
            | none => .none
          else .none),
         s.dropVec r.svp.toRef)
    s.putRec g.die key
      { clk := ck.snap.own, who := ck.snap.who, kind := kind, svp := svp, off := g.off, size := size, reads := .none
        prev := if ck.mode = 1 then s.peekBytes g.base 64 else [] }

/-! ## Acquires (R242, R286, R293) -/

/-- The unit of a vector's anchor lies within a scope of an acquiring core (R240, R284); boot-mode cores have no number, and
their vectors are their own. -/
def State.anchorIn (s : State) (scope : Scope) (h : Held) (c : CoreId) : Bool :=
  let a := if c.isVirt then CoreId.virt c.pid h.anchor.vcore else c
  s.within scope a c && decide (h.level ≤ match scope with
    | .thread => 0
    | .core => 2
    | .blk => if c.block.isSome then 3 else 2
    | .fld => 4
    | .est => 5
    | .dom => 6)

/-- R242 between a vector's anchor and an acquirer of scope `mine`. -/
def State.syncs (s : State) (c : CoreId) (h : Held) (mine : Scope) : Bool := s.anchorIn h.scope h c && s.anchorIn mine h c

/-- What an acquire read joins at a line (R293). -/
def State.joinAt (s : State) (ck : Check) (g : Seg) (r : Option LineRec) : Join :=
  match r with
  | none => .saturate ck.scope.level
  | some r =>
    if r.kind = .noWrite then .saturate ck.scope.level
    else match r.svp with
      | .none => .none
      | .lost sc => .saturate sc.level
      | .ref h => match s.vec h with
        | none => .saturate h.scope.level
        | some v =>
          if r.kind = .release ∧ overlaps g.off g.n r.off r.size ∧ s.syncs ck.core v ck.scope then .held v else .none

/-- Two lines of one acquire: both joins, as the wider saturation or the two vectors in turn. -/
def applyJoin (p : Party) (m : Clk) : Join → Clk
  | .none => m
  | .held h => joinHeld p m h
  | .saturate l => saturate 1 l m

/-- The result of a check: the record of a race, the joins of an acquire, whether the access commits. -/
structure Verdict where
  race : Option (List Word) := none
  joins : List Join := []
  commits : Bool := true
deriving DecidableEq, Repr

/-- The lines' first race, in order. -/
def State.firstRace (s : State) (ck : Check) (gs : List Seg) : Option (Seg × Race) :=
  gs.findSome? fun g => match Map.get? (s.die g.die).recs (s.asidOf ck.core, g.line) with
    | none => none
    | some r => (s.races ck g r).map fun x => (g, x)

/-- What an acquire joins at its lines, whose vectors become the most recent (R293, R296). -/
def State.joinsAt (s : State) (ck : Check) : List Seg → List Join × State
  | [] => ([], s)
  | g :: gs =>
    let r := Map.get? (s.die g.die).recs (s.asidOf ck.core, g.line)
    let j := s.joinAt ck g r
    let s := match j, r.bind (·.svp.toRef) with
      | .held _, some h => s.touchVec h
      | _, _ => s
    let (js, s) := s.joinsAt ck gs
    (j :: js, s)

/-- Update every line of an access; a line with no record counts as a miss of the accessing core (R363). -/
def State.updateAll (s : State) (ck : Check) : List Seg → State
  | [] => s
  | g :: gs =>
    let key := (s.asidOf ck.core, g.line)
    let old := Map.get? (s.die g.die).recs key
    let s := if old.isSome then s else match s.place ck.core with
      | some p => s.modPhys p fun x => { x with perf := x.perf.set 7 (x.perf.get 0 7 + 1) }
      | none => s
    (s.updateRec ck g key old).updateAll ck gs

/-- An access checked and recorded at its lines as one action (R291 to R293, R300). In boot mode and on an untracked page there
is no record; in mode 0 nothing is checked or recorded, and an acquire joins what records are left. -/
def State.check (s : State) (ck : Check) (ts : List Target) : Verdict × State :=
  let gs := ts.flatMap s.segsOf
  let acquires := ck.read && ck.order.acquires
  if gs.isEmpty ∨ !ck.core.isVirt then ({ joins := if acquires then [.saturate ck.scope.level] else [] }, s)
  else
    let (joins, s) := if acquires then s.joinsAt ck gs else ([], s)
    if ck.mode = 0 then ({ joins := joins }, s)
    else match s.firstRace ck gs with
    | none => ({ joins := joins }, s.updateAll ck gs)
    | some (g, r) =>
      let ws := s.raceWords ck g r
      let s := s.modPart ck.core.pid fun p => { p with bvraces := p.bvraces + 1 }
      if ck.mode = 2 ∧ !ck.always then ({ race := some ws, commits := false }, s)
      else if ck.mode = 2 then ({ race := some ws, joins := joins }, s.updateAll ck gs)
      else ({ joins := joins }, (s.updateAll ck gs).logRace ck.core.pid ws)

/-- Byte i of a racing read: the one in memory, or freely the one before the write it races with, a candidate too; what is read
as one action comes whole from one of them (R231, R234; log 13). -/
def stale (parts : Bool) (k : Nat) (r : LineRec) (i : Nat) (x : Byte) : Byte :=
  if Config.stale (64 * k + if parts then i else 0) then r.prev.getD i x else x

/-- Bytes of one line as a read finds them: in reporting-only mode a plain read may race with the line's last write. -/
def State.readSeg (s : State) (ck : Check) (g : Seg) : List Byte × State :=
  let bs := s.peekBytes (g.base + g.off) g.n
  match Map.get? (s.die g.die).recs (s.asidOf ck.core, g.line) with
  | some r => match s.races ck g r with
    | some x => if x.other = 0 ∧ ck.mode = 1 ∧ ck.atomic = false ∧ r.prev ≠ [] then
          ((bs.zip (List.range g.n)).map fun b => stale ck.parts s.fresh r (g.off + b.2) b.1, { s with fresh := s.fresh + 1 })
        else (bs, s)
    | none => (bs, s)
  | none => (bs, s)

def State.readSegs (s : State) (ck : Check) : List Seg → List Byte × State
  | [] => ([], s)
  | g :: gs =>
    let (bs, s) := s.readSeg ck g
    let (cs, s) := s.readSegs ck gs
    (bs ++ cs, s)

/-- The bytes a read finds at its targets. -/
def State.readBytes (s : State) (ck : Check) : List Target → List Byte × State
  | [] => ([], s)
  | t :: ts =>
    let (bs, s) := if ck.mode = 1 ∧ ck.write = false ∧ t.notrack = false then s.readSegs ck (s.segsOf t)
      else (s.peekBytes t.loc t.len, s)
    let (cs, s) := s.readBytes ck ts
    (bs ++ cs, s)

/-- The joins of an acquire take effect (R260, R293). -/
def State.applyJoins (s : State) (c : CoreId) (n : Nat) (js : List Join) : State :=
  s.modCtx c n fun x => { x with clk := js.foldl (applyJoin (partyOf c n)) x.clk }

/-! ## Discarding records (R294, R300) -/

/-- Every record of an ASID is discarded, and its vectors freed (R300). -/
def State.dropRecords (s : State) (gone : (Nat × Nat) → Bool) (d : Nat × Nat) : State :=
  let x := s.die d
  let dead := x.recs.filter fun e => gone e.1
  let s := dead.foldl (fun s e => s.dropVec e.2.svp.toRef) s
  s.modDie d fun x => { x with recs := x.recs.filter fun e => !gone e.1 }

/-- Every die that holds anything. -/
def State.dieKeys (s : State) : List (Nat × Nat) := Map.keys s.dies

end Sys2Proof.Machine
end

