-- ==== Sys2Proof/Machine/Threads.lean ====
section
/-! DEFINITION. Contexts as threads: what must be complete before one ends, starting and ending one (R47 to R51, R119,
R120). -/

namespace Sys2Proof.Machine

/-- Messages of one context, oldest first. -/
def State.msgsOf (s : State) (c : CoreId) (n : Nat) : List (Nat × Msg) :=
  s.msgs.filter fun m => m.2.core == c && m.2.ctx == n && !m.2.detached

/-- A load, value-returning atomic, `probe` or `take`: its context waits for a reply (R257, R326, R327). -/
def Msg.answers (m : Msg) : Bool :=
  match m.body with
  | .access a _ => match a.kind with
    | .load | .amo .. => true
    | .rld => match m.dst with
      | .x _ => false
      | _ => true
    | _ => false
  | .probe .. | .take .. => true
  | _ => false

/-- A store, reduction, replica write or post (R265). -/
def Msg.isStore (m : Msg) : Bool :=
  match m.body with
  | .access a _ => match a.kind with
    | .store | .red .. => true
    | _ => false
  | .post .. => true
  | _ => false

/-- An access still being translated, or parked. -/
def Msg.translating (m : Msg) : Bool :=
  match m.stage with
  | .walk | .parked => true
  | _ => false

/-- The wait of `fdone` and `hstop` (R120): loads, value-returning atomics and translations complete. -/
def State.loadsDone (s : State) (c : CoreId) (n : Nat) : Bool :=
  (s.msgsOf c n).all fun m => !m.2.answers && !m.2.translating

/-- Lowest Free helper that no queue head has reserved (R55, R119). -/
def Core.freeHelper (k : Core) : Option Nat :=
  ((List.range 11).drop 1).find? fun n => (k.ctx n).run == .free && (k.ctx n).reserved.isNone

/-- What a new thread starts with: registers zero, application level, the clocks and slots its context kept (R50, R119,
R267, R269, R283). -/
def Ctx.freshThread (x : Ctx) (pc : Word) (since : Nat) : Ctx :=
  { x with g := [], v := [], k := [], pc := pc, run := .ready, level := .app, busyA := false, busyS := false, busyF := false
           fieldsize := 0, firinfo := 0, rmode := 1, fflags := 0, icount := 0, cdealpat := 0
           firing := none, member := 0, inserted := 0, hown := false, reserved := none, failures := [], pend := [], errs := []
           owed := none, holdOn := [], progress := [], shootdown := none, arrived := none, waitPages := [], since := since, yieldFor := [] }

/-- The context becomes Free; the end of a thread increments the context counter (R51, R282). -/
def State.freeCtx (s : State) (c : CoreId) (n : Nat) : State :=
  s.modCtx c n fun x => { x with run := .free, firing := none, hown := false, ctr := bump x.ctr }

end Sys2Proof.Machine
end

