-- ==== Sys2Proof/Machine/Access.lean ====
section
/-! DEFINITION. Issuing an access: what is checked, what must be waited for, and the message that leaves (R231 to R265). -/

namespace Sys2Proof.Machine

/-! ## Faults of instructions that have issued (R258, R259) -/

/-- A fault taken by a context that is not at issue: at its site, whose instruction has been counted, or at its PC. -/
def State.raiseFor (s : State) (c : CoreId) (n : Nat) (o : Owed) : State :=
  let s1 : State := { s with cur := (c, n) }
  let s2 : State := match o.site with
    | some (pc, ws) => { s1 with words := ws }.modMe fun x => { x with pc := pc, icount := x.icount - 1 }
    | none => s1
  { s2.raise o.code o.info with cur := s.cur, words := s.words }

/-- Keep a fault until the context's hold ends; the first one stays. -/
def State.owe (s : State) (c : CoreId) (n : Nat) (o : Owed) : State :=
  s.modCtx c n fun x => { x with owed := some (x.owed.getD o) }

/-- A message answered: its hold ends, and a fault owed at an issued access is taken once nothing is held (R259). -/
def State.unhold (s : State) (c : CoreId) (n id : Nat) : State :=
  let s := s.modCtx c n fun x => { x with holdOn := x.holdOn.filter (· != id) }
  let x := s.ctx c n
  match x.owed with
  | some o =>
    if x.holdOn.isEmpty ∧ o.site.isSome then (s.modCtx c n fun x => { x with owed := none }).raiseFor c n o else s
  | none => s

/-! ## Registers an access writes -/

def Dest.refs : Dest → List RegRef
  | .g r _ => [.g r]
  | .v r => [.v r]
  | .pair r => [.v r, .v (r + 1)]
  | .lanes r _ => [.v r]
  | _ => []

/-- Number of the first register (R373). -/
def Dest.number : Dest → Nat
  | .g r _ => r.toNat
  | .v r => r.toNat
  | .pair r => r.toNat
  | .lanes r _ => r.toNat
  | .x r => r.toNat
  | .none => 0

/-- A scalar's bytes as a register value (R261, R272). -/
def loadValue (t : ETy) (bs : List Byte) : Word :=
  let v : Word := BitVec.ofNat 64 (leNat bs)
  let w := 8 * bs.length
  if t.isSigned then BitVec.ofInt 64 ((v.truncate w : BitVec w).toInt) else v

def lineOfBytes (bs : List Byte) : Line := BitVec.ofNat 512 (leNat bs)

/-- Replace lane j of w bytes. -/
def setLane (l : Line) (w j : Nat) (bs : List Byte) : Line :=
  let m : Line := BitVec.ofNat 512 ((2 ^ (8 * w) - 1) * 2 ^ (8 * w * j))
  (l &&& ~~~m) ||| (BitVec.ofNat 512 (leNat bs * 2 ^ (8 * w * j)) &&& m)

/-- Data reach a g or v destination (R261 to R263, R271, R272). -/
def Ctx.deliver (x : Ctx) (d : Dest) (lane : Nat) (bs : List Byte) : Ctx :=
  match d with
  | .g r t => x.setG r (loadValue t bs)
  | .v r => x.setV r (lineOfBytes bs)
  | .pair r => (x.setV r (lineOfBytes (bs.take 64))).setV (r + 1) (lineOfBytes (bs.drop 64))
  | .lanes r w => x.setV r (setLane (x.getV r) w lane bs)
  | _ => x

/-- R129's code word. -/
def errorWord (code : Nat) (a : Word) : Word := BitVec.ofNat 64 (code + a.toNat % 2 ^ 48 * 65536)

/-- Registers marked in error; a g0 destination marks the context itself (R258). -/
def Ctx.markErr (x : Ctx) (d : Dest) (word addr : Word) : Ctx :=
  { x with errs := x.errs ++ (match d with
      | .g 0 _ => [(none, word, addr)]
      | d => d.refs.map fun r => (some r, word, addr)) }

/-! ## What an access is -/

def AKind.isStore : AKind → Bool
  | .store | .red .. => true
  | _ => false

def AKind.writes : AKind → Bool
  | .load | .rld => false
  | _ => true

def AKind.xkind (k : AKind) : XKind := if k.writes then .write else .read

/-- Atomic in the sense of R237. -/
def Access.atomic (a : Access) : Bool :=
  a.order != .plain || (match a.kind with
    | .amo .. | .red .. => true
    | _ => false)

/-- An access through the own-scratchpad window (R214). -/
def Access.own (a : Access) : Bool := a.addr.extractLsb' 56 8 == 0xFC

/-- The Belvedere mode an access issues under; none in boot mode (R300, R412). -/
def State.modeOf (s : State) (c : CoreId) : Nat := if c.isVirt then (s.part c.pid).bvmode.toNat else 0

/-- Bytes that one turn may not part: the whole of a single-copy atomic access, the halves of an aligned pair, else one (R231). -/
def Access.grain (a : Access) : Nat :=
  if a.atomic ∨ a.size ≤ 64 ∧ alignedTo a.addr a.size then a.size
  else if a.size = 128 ∧ alignedTo a.addr 128 then 64
  else 1

def Access.check (a : Access) (c : CoreId) (n : Nat) (snap : Snap) (pc : Word) (mode : Nat) (write : Bool) : Check :=
  { core := c, ctx := n, snap := snap, read := !(a.kind matches .store), write := write, atomic := a.atomic
    release := write && a.order.releases, order := a.order, scope := a.scope, pc := pc, mode := mode, parts := a.grain == 1 }

/-! ## Limits and holds at issue -/

/-- Accesses of the context on their way. -/
def State.accesses (s : State) (c : CoreId) (n : Nat) : List (Nat × Msg) :=
  (s.msgsOf c n).filter fun m => match m.2.body, m.2.stage with
    | .access .., .collected _ => false
    | .access .., _ => true
    | .take .., _ => true
    | _, _ => false

def Msg.targets (m : Msg) : List Target :=
  match m.body with
  | .access _ ts => ts
  | _ => []

/-- What an access still to be translated would resolve to by the tables as they stand: its walks are made, at most two
(R220, R256). -/
def State.foresee (s : State) (c : CoreId) (kind : XKind) (a : Word) (size : Nat) : Nat → List TlbEntry → Option Located
  | 0, _ => none
  | fuel + 1, own => match s.locate c kind a size own with
    | .walk va => match s.walk c va kind with
      | .leaf w p loc =>
        s.foresee c kind a size fuel ({ asid := s.asidOf c, page := p, leaf := (s.markPte w loc kind).1 } :: own)
      | .fault code _ _ => some (.fault code a)
      | .park .. => none
    | l => some l

/-- Where a message that awaits translation would go. -/
def State.foreseen (s : State) (m : Msg) : Option Located :=
  match m.body with
  | .access a _ => s.foresee m.core a.kind.xkind a.addr a.size 3 m.leafs
  | _ => none

/-- Locations that a message reads or writes, so far as they are known: a `take` writes its image, and an access to be translated
goes where the tables say. -/
def State.spansOf (s : State) (m : Msg) : List (Nat × Nat) :=
  match m.body with
  | .access a [] => (match s.foreseen m with
    | some (.remote ts) => ts.map fun t => (t.loc, t.len)
    | some (.own off) => [(scratchLoc m.core off, a.size)]
    | _ => [])
  | .access _ ts => ts.map fun t => (t.loc, t.len)
  | .take _ _ p => [(scratchLoc m.core (p.extractLsb' 0 19).toNat, 64)]
  | _ => []

/-- An access that writes. -/
def Msg.writesMem (m : Msg) : Bool :=
  match m.body with
  | .access a _ => a.kind.writes
  | .take .. => true
  | _ => false

/-- Older accesses of the context to an overlapping location (R235). -/
def State.overlapping (s : State) (c : CoreId) (n : Nat) (ts : List Target) : List Nat :=
  ((s.accesses c n).filter fun m => (s.spansOf m.2).any fun a => ts.any fun t => overlaps a.1 a.2 t.loc t.len).map Prod.fst

/-- Tags in use by the core, detached requests included (R249, R370). -/
def State.usedTags (s : State) (c : CoreId) : List Nat :=
  s.msgs.filterMap fun m => if m.2.core == c then m.2.tag.map Prod.fst else none

/-- A free tag with the generation it would take, if that is not quarantined (R249). -/
def State.freeTags (s : State) (c : CoreId) : List (Nat × Nat) :=
  let used := s.usedTags c
  let k := s.core c
  ((List.range 128).map fun t => (t, (k.tagGen.get 0 t + 1) % 4)).filter fun t =>
    !used.contains t.1 && !(k.quarantine.any fun q => q.1 == t.1 && q.2.1 == t.2)

/-- Outstanding loads, atomics and remote loads of the context (R257). -/
def State.loadsOut (s : State) (c : CoreId) (n : Nat) : Nat := ((s.msgsOf c n).filter fun m => m.2.tag.isSome).length

def Msg.streamOf (m : Msg) : Nat :=
  match m.body with
  | .access a _ => a.stream
  | .close st _ => st
  | _ => 0

/-- A store through the own window, kept behind a translation: no stream's (R238). -/
def Msg.ownWindow (m : Msg) : Bool :=
  match m.body with
  | .access a _ => a.own
  | _ => false

/-- Unacknowledged stores of a stream (R265, R356). -/
def State.unacked (s : State) (c : CoreId) (n stream : Nat) : Nat :=
  ((s.msgsOf c n).filter fun m => m.2.isStore && m.2.streamOf == stream).length

def State.unackedAll (s : State) (c : CoreId) (n : Nat) : Nat := ((s.msgsOf c n).filter fun m => m.2.isStore).length

/-- Accesses awaiting translation; the elements of one gather or scatter count once (R63; log 27). -/
def State.walking (s : State) (c : CoreId) (n : Nat) : List (Nat × Msg) := (s.msgsOf c n).filter fun m => m.2.translating

def walkCount : List (Nat × Msg) → Nat
  | [] => 0
  | m :: ms => (if ms.any fun k => k.2.pc == m.2.pc && k.2.issued == m.2.issued then 0 else 1) + walkCount ms

/-- The walk of an access of the context will fault: what comes behind it waits, so that the fault is precise at it (R223;
log 27). -/
def State.doomed (s : State) (c : CoreId) (n : Nat) : Bool :=
  (s.walking c n).any fun m => match s.foreseen m.2 with
    | some (.fault ..) => true
    | _ => false

/-- Where an access is to go, as far as the tables tell, is another estate, and a reconfiguration runs (R400). -/
def State.leadsOut (s : State) (c : CoreId) : Option Located → Bool
  | some (.remote ts) => ts.any fun t => s.fabricHolds c t.estate
  | _ => false

/-- A reconfiguration holds an access of the context: it has not issued, and the context waits (R401). -/
def State.fabricWaits (s : State) (c : CoreId) (n : Nat) : Bool := (s.walking c n).any fun m => s.leadsOut c (s.foreseen m.2)

/-- A failure record that covers stream and unit: later stores are discarded (R248, R269). -/
def Ctx.discards (x : Ctx) (stream : Nat) (u : DUnit) : Bool :=
  x.failures.any fun f => f.stream == stream && f.units.contains u

/-- Slots of a stream that stores being translated or parked hold, one for each instruction but `self` (R280). -/
def State.heldSlots (s : State) (c : CoreId) (n stream : Nat) (self : Option (Word × Nat)) : Nat :=
  walkCount ((s.walking c n).filter fun m =>
    m.2.isStore && !m.2.ownWindow && m.2.streamOf == stream && some (m.2.pc, m.2.issued) != self)

/-- A free slot of the stream. -/
def State.slotFree (s : State) (c : CoreId) (n stream : Nat) (self : Option (Word × Nat)) : Bool :=
  decide (((s.ctx c n).slots.filter fun k => k.stream == stream).length + s.heldSlots c n stream self < 8)

/-- Room for a store in the slots of its stream: an open slot, or a free one and no hold (R265, R267). -/
def State.slotOk (s : State) (c : CoreId) (n stream : Nat) (u : DUnit) (self : Option (Word × Nat) := none) : Bool :=
  let x := s.ctx c n
  stream == 0 ||
  match x.slots.find? fun k => k.stream == stream && k.unit == u with
  | some k => !k.closing && !k.failed
  | none => s.slotFree c n stream self && !(x.holds.any fun h => h.stream == stream && h.unit == u)

/-- The next sequence number of a stream towards a unit (R265). -/
def Ctx.takeSeq (x : Ctx) (stream : Nat) (u : DUnit) : Nat × Ctx :=
  if stream = 0 then (0, x)
  else match x.slots.find? fun k => k.stream == stream && k.unit == u with
    | some k => (k.next, { x with slots := x.slots.map fun j =>
        if j.stream = stream ∧ j.unit = u then { j with next := (j.next + 1) % 65536 } else j })
    | none => (0, { x with slots := x.slots ++ [{ stream := stream, unit := u, next := 1 }] })

/-- The unit of an access that leaves: the unit of its first byte. -/
def firstUnit (ts : List Target) : DUnit := (ts.head?.map (·.unit)).getD (.estate 0)

/-- Nothing of the context issues: the race verdict of an access that left the core in enforcing mode is still to come (R259). -/
def State.verdictDue (s : State) (c : CoreId) (n : Nat) : Bool :=
  (s.ctx c n).holdOn.any fun id => match Map.get? s.msgs id with
    | some m => m.mode == 2 && (m.body matches .access ..)
    | none => false

/-! ## Failure records (R269, R270) -/

/-- The record a release or `sclose` of a stream delivers: its own, or the oldest of any for stream 0 (R270). -/
def Ctx.failureFor (x : Ctx) (stream : Nat) : Option Failure :=
  if stream = 0 then x.failures.head? else x.failures.find? fun f => f.stream == stream

def Failure.info (f : Failure) : Info :=
  { addr := f.addr, r5 := f.addr
    r4 := BitVec.ofNat 64 (f.cause + 2 ^ 4 * f.stream + (if f.more then 2 ^ 7 else 0) + 2 ^ 16 * min f.discarded 65535) }

/-- The delivery-failure fault, which clears the record delivered (R269, R270). -/
def State.deliverFailure (s : State) (f : Failure) : State :=
  (s.modMe fun x => { x with failures := x.failures.filter fun g => g.stream != f.stream }).raise 0x14 f.info

/-- One more store lost on a stream (R269). -/
def Ctx.countFailure (x : Ctx) (stream cause : Nat) (addr : Word) (u : DUnit) : Ctx :=
  if x.failures.any fun f => f.stream == stream then
    { x with failures := x.failures.map fun f =>
        if f.stream = stream then
          { f with discarded := min (f.discarded + 1) 65535
                   more := f.more || !f.units.contains u
                   units := if f.units.contains u then f.units else f.units ++ [u] }
        else f }
  else { x with failures := x.failures ++ [{ stream := stream, cause := cause, addr := addr, units := [u] }] }

/-- A store through the own window that cannot commit (R269): it names no destination unit, and one that is not the
record's first sets MORE only where the record covers a unit: DESIGN CHOICE (log 117). -/
def Ctx.countOwn (x : Ctx) (cause : Nat) (addr : Word) : Ctx :=
  if x.failures.any fun f => f.stream == 0 then
    { x with failures := x.failures.map fun f =>
        if f.stream = 0 then { f with discarded := min (f.discarded + 1) 65535, more := f.more || !f.units.isEmpty } else f }
  else { x with failures := x.failures ++ [{ stream := 0, cause := cause, addr := addr }] }

/-- A release that a record stopped counts in that record alone (R248). -/
def Ctx.countLost (x : Ctx) (stream : Nat) : Ctx :=
  { x with failures := x.failures.map fun f =>
      if f.stream = stream then { f with discarded := min (f.discarded + 1) 65535 } else f }

/-! ## Issue -/

/-- An access with its destination and where it goes. -/
structure Want where
  acc : Access
  dst : Dest := .none
  loc : Located
deriving DecidableEq, Repr

def Want.remoteTargets (w : Want) : List Target :=
  match w.loc with
  | .remote ts => ts
  | _ => []

def Want.leaves (w : Want) : Bool := !(w.loc matches .own _)

/-- TLB lookups that missed, for the performance counters (R222, R363). -/
def State.countMisses (s : State) (c : CoreId) (ws : List Want) : State :=
  ws.foldl (fun s w =>
    if w.acc.addr.toNat / 2 ^ 56 ≠ 0 then s
    else
      let kind := w.acc.kind.xkind
      let miss (va : Nat) : Bool := (s.tlbHit c kind va).isNone
      let first := w.acc.addr.toNat
      let s := s.countMiss c kind first (miss first)
      -- one that crosses a 64 KiB boundary looks its second page up too (R256)
      if first % 65536 + w.acc.size ≤ 65536 then s
      else s.countMiss c kind (first + (65536 - first % 65536)) (miss (first + (65536 - first % 65536)))) s

/-- Messages a release waits for (R245): its stream's stores, or every store for stream 0, and every earlier load. -/
def State.before (s : State) (c : CoreId) (n stream : Nat) : List Nat :=
  ((s.msgsOf c n).filter fun m =>
    (m.2.isStore && (stream == 0 || m.2.streamOf == stream)) || m.2.answers || m.2.tag.isSome).map Prod.fst

/-- Must the whole instruction wait at issue: a ninth access to be translated, and the others (R63, R235, R245, R257, R265,
R401)? -/
def State.mustWait (s : State) (c : CoreId) (n : Nat) (ws : List Want) : Bool :=
  let out := ws.filter Want.leaves
  let tagged := (out.filter fun w => !w.acc.kind.isStore && !w.acc.own).length
  let stores := out.filter fun w => w.acc.kind.isStore
  let newWalk := ws.any fun w => w.loc matches .walk _
  let targets := ws.flatMap fun w => match w.loc with
    | .own off => [s.scratchTarget c c off w.acc.size]
    | .remote ts => ts
    | _ => []
  (out.any fun w => s.leadsOut c (s.foresee c w.acc.kind.xkind w.acc.addr w.acc.size 3 []))
  || (newWalk && decide (8 ≤ walkCount (s.walking c n)))
  || !(s.overlapping c n targets).isEmpty
  || (tagged != 0 && (decide (16 < s.loadsOut c n + tagged) || decide ((s.freeTags c).length < tagged)))
  || (match stores with
      | [] => false
      | w :: _ => decide (256 < s.unacked c n w.acc.stream + stores.length) || decide (1024 < s.unackedAll c n + stores.length))
  || (ws.any fun w => !w.leaves && w.acc.order.releases && !(s.before c n w.acc.stream).isEmpty)

/-- Must this store wait for a slot (R265, R267)? -/
def State.needsSlot (s : State) (w : Want) : Bool :=
  match w.loc with
  | .remote ts => w.acc.kind.isStore && !w.acc.own && !s.me.discards w.acc.stream (firstUnit ts)
      && !s.slotOk s.cur.1 s.cur.2 w.acc.stream (firstUnit ts)
  | .walk _ => w.acc.kind.isStore && !w.acc.own && w.acc.stream != 0
      && !s.slotFree s.cur.1 s.cur.2 w.acc.stream (some (s.me.pc, s.cycle))
  | _ => false

/-- Add a message; it is the youngest. -/
def State.send (s : State) (m : Msg) : Nat × State :=
  (s.nextId, { s with nextId := s.nextId + 1, msgs := s.msgs ++ [(s.nextId, m)] })

/-- Messages a core sends to other cores (R382). -/
def State.countSent (s : State) (c : CoreId) : State := s.modCore c fun k => { k with msent := k.msent + 1 }
def State.countRcvd (s : State) (c : CoreId) : State := s.modCore c fun k => { k with mrcvd := k.mrcvd + 1 }

/-- A message that a core accepts, and its reply (R382). -/
def State.countMet (s : State) (c : CoreId) : State := (s.countRcvd c).countSent c

/-- Does a target lie in a core's scratchpad? -/
def Target.inCore (t : Target) : Bool :=
  match t.unit with
  | .block _ | .loose .. => true
  | _ => false

/-- The core whose scratchpad a target names, from its any-core address. -/
def Target.coreOf (t : Target) (pid : Nat) : CoreId := .virt pid (t.va / 2 ^ 29 % 2 ^ 20)

/-- The registers an access will write are pending (R257). -/
def Ctx.addPend (x : Ctx) (d : Dest) (id : Nat) : Ctx := { x with pend := x.pend ++ d.refs.map fun r => (r, id) }

/-- AWAIT of the mailbox register an `rld` names (R122). -/
def State.awaitMail (s : State) (d : Dest) (b : Bool) : State :=
  match d with
  | .x r => s.modMyCore fun k => { k with x := k.x.set r { (k.x.get {} r) with await := b } }
  | _ => s

/-- How an own-window access ends that is not a fault. -/
inductive OwnEnd where
  /-- read, written, and what an acquire joins -/
  | done (old : List Byte) (flags : Nat) (joins : List Join)
  /-- a line is poisoned: an atomic's code 3, a store's cause 3 (R269, R275) -/
  | failed
deriving DecidableEq, Repr

/-- A store writes its data; any other kind what `rmw` makes of the old bytes, with flags. -/
def AKind.writesOver (k : AKind) (data old : List Byte) (rmw : AKind → List Byte → Option (List Byte) × Word) :
    Option (List Byte) × Word :=
  match k with
  | .store => (some data, 0)
  | k => rmw k old

/-- An access performed in the own scratchpad (R238, R257): a read of a poisoned line faults (R373), and a race in enforcing
mode (R259). -/
def State.actOwn (s : State) (c : CoreId) (n : Nat) (a : Access) (off : Nat) (snap : Snap) (pc : Word)
    (rmw : AKind → List Byte → Option (List Byte) × Word) : Except (Nat × Info) OwnEnd × State :=
  let t := s.scratchTarget c c off a.size
  let (new, flags) := a.kind.writesOver a.data (s.peekBytes t.loc a.size) rmw
  let poisoned := (linesOf t.loc a.size).any fun l => s.linePoisoned l
    && !(a.kind matches .store && t.loc ≤ 64 * l && 64 * l + 64 ≤ t.loc + a.size)
  if poisoned then (if a.kind.writes then .ok .failed else .error (0x0C, { addr := a.addr }), s)
  else
    let ck := a.check c n snap pc (s.modeOf c) new.isSome
    let (old, s) := s.readBytes ck [t]
    let (v, s) := s.check ck [t]
    match v.race, v.commits with
    | some ws, false => (.error (0x13, { addr := a.addr, race := some ws }), s)
    | _, _ => (.ok (.done old flags.toNat v.joins), match new with
      | some bs => s.commitBytes t.loc bs
      | none => s)

/-- An own-window access of the context at issue: the fault it meets, if any. An acquire joins at once; an `rld.8`'s reply comes in
the next cycle (R271); a lane of a gather with lanes elsewhere (`mixed`) is kept until they are answered. -/
def State.performOwn (s : State) (w : Want) (off : Nat) (snap : Snap) (mixed : Bool)
    (rmw : AKind → List Byte → Option (List Byte) × Word) : Option (Nat × Info) × State :=
  let c := s.cur.1
  let m : Msg := { core := c, ctx := s.cur.2, pc := s.me.pc, words := s.words, body := .access w.acc [], stage := .done 0
                   dst := w.dst, issued := s.cycle }
  match s.actOwn c s.cur.2 w.acc off snap s.me.pc rmw with
  | (.error f, s) => (some f, s)
  | (.ok .failed, s) =>
    (none, s.modMe fun x => if w.acc.kind.isStore then x.countOwn 3 w.acc.addr
      else x.markErr w.dst (errorWord 3 w.acc.addr) w.acc.addr)
  | (.ok (.done old flags joins), s) =>
    let s := if w.dst matches .x _ then s else s.applyJoins c s.cur.2 joins
    let s := s.awaitMail w.dst true
    if w.dst matches .x _ then
      let (id, s) := s.send { m with reply := old, joins := joins }
      (none, if w.acc.order.acquires then s.modMe fun x => { x with holdOn := x.holdOn ++ [id] } else s)
    else if mixed ∧ w.acc.kind = .load then
      let (id, s) := s.send { m with stage := .collected 0, reply := old }
      (none, s.modMe (·.addPend w.dst id))
    else (none, s.modMe fun x => { x.deliver w.dst w.acc.lane old with fflags := x.fflags ||| BitVec.ofNat 64 flags })

/-- The leaves an access translates with, kept so that nothing changes where its lanes go (R263), and that a `tlbi` finds what
depends on them (R224). -/
def State.leafsFor (s : State) (c : CoreId) (a : Access) (own : List TlbEntry) : List TlbEntry :=
  if !c.isVirt ∨ a.addr.toNat / 2 ^ 56 ≠ 0 then []
  else ((s.tlbHit c a.kind.xkind a.addr.toNat own).toList
    ++ (s.tlbHit c a.kind.xkind (a.addr.toNat + a.size - 1) own).toList).dedup

/-- The TLB entries among an access's leaves become the most recent (R222). -/
def State.touchLeafs (s : State) (c : CoreId) (kind : XKind) (ls : List TlbEntry) : State :=
  ls.foldl (fun s e => s.touchTlb c kind e.page.va) s

/-- An access that leaves the core, or waits for a translation, becomes a message (R241, R245, R249, R257 to R260, R265). A store
that meets an earlier lane of its own instruction is sent behind it (R235, R263). -/
def State.sendAccess (s : State) (w : Want) (snap : Snap) (after : List Nat) : State :=
  let c := s.cur.1
  let n := s.cur.2
  let ts := w.remoteTargets
  let u := firstUnit ts
  let stream := w.acc.stream
  if w.acc.kind.isStore ∧ !ts.isEmpty ∧ !w.acc.own ∧ s.me.discards stream u then
    s.modMe fun x => x.countFailure stream 0 w.acc.addr u
  else
    let olap := if w.acc.kind.writes then s.overlapping c n ts else []
    let tag := if w.acc.kind.isStore ∨ w.acc.own then none else (s.freeTags c).head?
    let (seq, x) := if w.acc.kind.isStore ∧ !ts.isEmpty ∧ !w.acc.own then s.me.takeSeq stream u else (0, s.me)
    let s := s.modMe fun _ => x
    let s := match tag with
      | some (t, g) => s.modCore c fun k => { k with tagGen := k.tagGen.set t g }
      | none => s
    let waits := w.acc.order.releases || !olap.isEmpty
    let stage : Stage := if ts.isEmpty then .walk else if waits then .unsent else .sent
    let mode := s.modeOf c
    let (id, s) := s.send
      { core := c, ctx := n, pc := s.me.pc, words := s.words, body := .access w.acc ts, stage := stage, dst := w.dst
        snap := snap, seq := seq, tag := tag, after := (if w.acc.order.releases then after else []) ++ olap, issued := s.cycle
        mode := mode, leafs := if ts.isEmpty then [] else s.leafsFor c w.acc [], tcore := s.place c }
    let s := if stage = .sent ∧ ts.any Target.inCore ∧ !w.acc.own then s.countSent c else s
    let s := s.awaitMail w.dst true
    let s := match w.dst with
      | .g 0 _ => s
      | d => s.modMe (·.addPend d id)
    if mode = 2 ∨ w.acc.order.acquires then s.modMe fun x => { x with holdOn := x.holdOn ++ [id] } else s

/-- How far an instruction's accesses came. -/
inductive Went where
  | all
  | fault (code : Nat) (info : Info)
  | slot (left : Nat)
deriving DecidableEq, Repr

/-- An own-window lane that meets one sent before it goes behind it, as a message (R235). -/
def State.ownBehind (s : State) (w : Want) (off : Nat) : Want :=
  let t := s.scratchTarget s.cur.1 s.cur.1 off w.acc.size
  if w.acc.kind.writes ∧ !(s.overlapping s.cur.1 s.cur.2 [t]).isEmpty then { w with loc := .remote [t] } else w

/-- Perform or send each access in turn; stop at a fault, or at a store that finds no slot. -/
def State.goAccesses (rmw : AKind → List Byte → Option (List Byte) × Word) (snap : Snap) (after : List Nat) (mixed : Bool) :
    List Want → State → Went × State
  | [], s => (.all, s)
  | w0 :: ws, s =>
    let w := match w0.loc with
      | .own off => s.ownBehind w0 off
      | _ => w0
    match w.loc with
    | .own off =>
      match s.performOwn w off snap mixed rmw with
      | (none, s) => goAccesses rmw snap after mixed ws s
      | (some (code, info), s) => (.fault code info, s)
    | _ => if s.needsSlot w then (.slot (ws.length + 1), s)
      else goAccesses rmw snap after mixed ws (s.sendAccess w snap after)

/-- The lowest access that faults (R263, R264). -/
def firstFault (ws : List Want) : Option (Nat × Word) :=
  ws.findSome? fun w => match w.loc with
    | .fault code a => some (code, a)
    | _ => none

/-- Issue what is left of an instruction's accesses; with a fault among them none is performed (R263), but a race is counted. -/
def State.goOn (rmw : AKind → List Byte → Option (List Byte) × Word) (total : Nat) (ws : List Want) (snap : Snap)
    (after : List Nat) (s : State) : State :=
  match s.goAccesses rmw snap after (ws.any Want.leaves) ws with
  | (.all, s) => (s.modMe fun x => { x with progress := x.progress.erase x.level }).retire 1
  | (.fault code info, t) => ({ s with parts := if code = 0x13 then t.parts else s.parts } : State).raise code info
  | (.slot left, s) =>
    (if left = total then s
     else s.modMe fun x => { x with progress := x.progress.set x.level (x.pc, total - left, snap, after) }).stall

/-- Lookups that hit make their entries the most recent (R222). -/
def State.touchAll (s : State) (c : CoreId) (ws : List Want) : State :=
  if !c.isVirt then s
  else ws.foldl (fun s w => w.remoteTargets.foldl (fun s t => match t.unit with
    | .estate _ => s.touchTlb c w.acc.kind.xkind t.va
    | _ => s) s) s

/-- The accesses of one instruction: faults first and nothing sent, then waits, then issue; a release publishes once (R256,
R257, R263, R264, R270). A route is looked up once a reconfiguration is over (R400, R401). With one translation missing, every
access waits for translation (R263). The stream of an own-window store has no effect (R238). -/
def State.issueAccesses (rmw : AKind → List Byte → Option (List Byte) × Word) (accs : List (Access × Dest))
    (s : State) : State :=
  let c := s.cur.1
  let n := s.cur.2
  let ws0 := accs.map fun (a, d) =>
    ({ acc := { a with stream := if a.own then 0 else a.stream }, dst := d, loc := s.locate c a.kind.xkind a.addr a.size } : Want)
  -- a store of an ordered stream takes its number behind an older one that is still to be translated (R245, R265)
  let behind := ws0.any fun w => w.acc.kind.isStore && w.acc.stream != 0 && (w.loc matches .remote _) &&
    (s.walking c n).any fun m => m.2.isStore && m.2.streamOf == w.acc.stream
  let ws := match ws0.find? fun w => behind || w.loc matches .walk _ with
    | some m => ws0.map fun w => { w with loc := match m.loc with
      | .walk va => .walk va
      | _ => .walk m.acc.addr.toNat }
    | none => ws0
  let going := match Map.get? s.me.progress s.me.level with
    | some (pc, k, snap, after) => if pc = s.me.pc then some (k, snap, after) else none
    | none => none
  match going with
  | some (k, snap, after) => s.goOn rmw ws.length (ws.drop k) snap after
  | none =>
    let order := (accs.head?.map (·.1.order)).getD .plain
    let stream := (ws0.head?.map (·.acc.stream)).getD 0
    let scope := (accs.head?.map (·.1.scope)).getD .thread
    match firstFault ws0 with
    | some (code, a) => s.raise code { addr := a }
    | none =>
      match (if order.releases then s.me.failureFor stream else none) with
      | some f => s.deliverFailure f
      | none =>
        if s.mustWait c n ws || (ws.take 1).any s.needsSlot then s.stall
        else
          let s := (s.countMisses c ws0).touchAll c ws0
          let after := s.before c n stream
          let (snap, s) := if order.releases ∧ !ws.isEmpty then s.release c n scope else (s.snapshot c n scope, s)
          s.goOn rmw ws.length ws snap after

end Sys2Proof.Machine
end

