-- ==== Sys2Proof/Machine/Image.lean ====
section
/-! DEFINITION. A block's image in the Orangery (R67, R70, R385): what is written there, read back, and kept in step while the
block is absent. Inside the areas of R385 the places are the model's (log 34). -/

namespace Sys2Proof.Machine

/-! ## Ranges of memory -/

/-- Memory and poison of a range of locations return to zero. -/
def State.blankRange (s : State) (loc n : Nat) : State :=
  { s with mem := s.mem.filter fun c => decide (c.1 < loc) || decide (loc + n ≤ c.1)
           poison := s.poison.filter fun l => decide (64 * l < loc) || decide (loc + n ≤ 64 * l) }

/-- The cells of a range of locations, counted from its start. -/
def State.cellsOf (s : State) (loc n : Nat) : List Host.Cell :=
  (s.mem.filter fun c => decide (loc ≤ c.1) && decide (c.1 < loc + n)).map fun c => (c.1 - loc, c.2)

/-- Poisoned lines of a range, as they lie in another; poison goes with its line. -/
def State.poisonOf (s : State) (src n dst : Nat) : List Nat :=
  (s.poison.filter fun l => decide (src ≤ 64 * l) && decide (64 * l < src + n)).map fun l => (64 * l - src + dst) / 64

/-- Copy the cells of a range of locations to another place. -/
def State.copyRange (s : State) (src n dst : Nat) : State :=
  { s with mem := (s.cellsOf src n).foldl (fun m c => Memory.put m (c.1 + dst) c.2) s.mem
           poison := s.poison ++ s.poisonOf src n dst }

/-- A range of locations comes to hold what another holds: each of its lines is written whole (R381). -/
def State.moveRange (s : State) (src n dst : Nat) : State :=
  let rest := s.mem.filter fun c => decide (c.1 < dst) || decide (dst + n ≤ c.1)
  { s with mem := (s.cellsOf src n).foldl (fun m c => Memory.put m (c.1 + dst) c.2) rest
           poison := (s.poison.filter fun l => decide (64 * l < dst) || decide (dst + n ≤ 64 * l)) ++ s.poisonOf src n dst }

/-- Scratchpads, accumulators and slots of a block read as zero. -/
def State.blankBlock (s : State) (b : BlockId) : State :=
  ((s.blankRange (scratchLoc (b.core 0) 0) (16 * 2 ^ 19)).blankRange (accLoc (b.core 0) 0 0) (16 * 2 ^ 17)).blankRange
    (slotLoc b 0 0) (2 ^ 19)

/-! ## Layout (R385) -/

def imageSlot : Nat := 0xC00000

/-- Bytes and lines of an image. -/
def imageSize : Nat := 0xB90000
def imageLines : Nat := imageSize / 64

/-- Section of the block's member m; in it the part of context n, and what the core holds for all of them. -/
def coreOff (m : Nat) : Nat := 0x90000 + 0xB0000 * m
def ctxOff (m n : Nat) : Nat := coreOff m + 0xA0000 + 0x1000 * n
def areaOff (m : Nat) : Nat := coreOff m + 0xAB000

/-- Entries of a clock vector below level k (R283). -/
def clkBase (k : Nat) : Nat := match k with | 1 => 0 | 2 => 11 | 3 => 27 | 4 => 91 | _ => 99

/-- Offset of a clock entry in a context's part. -/
def clkOff (e : Nat × Nat) : Nat := 0xC40 + 2 * (clkBase e.1 + e.2)

/-- A number made of fields of these widths, the first lowest. -/
def packed : List (Nat × Nat) → Nat
  | [] => 0
  | (w, v) :: fs => v % 2 ^ w + 2 ^ w * packed fs

def flagBit (b : Bool) : Nat := if b then 1 else 0

/-- Where the block's image lies (R315). -/
def State.imageLoc (s : State) (b : BlockId) : Nat := physLoc b.estate (s.block b).image

/-- Every address of the image is backed by memory (R386). -/
def State.imageBacked (s : State) (b : BlockId) : Bool := s.physBacked b.estate ((s.block b).image + imageSlot - 1)

/-- The image that takes the place of a block out of the machine, once it is complete (R70, R386). -/
def State.absentImage (s : State) (b : BlockId) : Option Nat :=
  let x := s.block b
  if x.residence = .absent ∧ x.valid ∧ x.slot.isSome then some (s.imageLoc b) else none

/-! ## What the areas hold -/

/-- State of a context: Free, Ready, Waiting, Parked. -/
def Run.code : Run → Nat
  | .free => 0
  | .ready | .stalled => 1
  | .waiting _ => 2
  | .parked => 3

def Trap.saved (t : Trap) : List Word :=
  [t.pc, t.cause, t.addr, t.scr0, t.scr1] ++ (List.range 8).map fun i => t.trec.get 0 (BitVec.ofNat 3 i)

/-- State, level and BUSY bits of a context, and its place in its firing. -/
def Ctx.stateWord (x : Ctx) : Word :=
  BitVec.ofNat 64 (packed [(3, x.run.code), (2, x.level.code), (1, flagBit x.busyA), (1, flagBit x.busyS), (1, flagBit x.busyF),
    (1, flagBit x.hown), (1, flagBit x.exempt), (2, flagBit x.released), (4, x.member), (16, x.inserted)])

/-- The selector registers, `rmode` and `fflags`, in one word. -/
def Ctx.selWord (x : Ctx) : Word :=
  BitVec.ofNat 64 (packed [(14, x.bvsel.toNat), (6, x.barsel.toNat), (9, x.salsel.toNat), (11, x.lnksel.toNat), (8, x.rmode.toNat),
    (8, x.fflags.toNat)])

/-- From 0x100 on: PC, state, special registers, trap registers. -/
def Ctx.imageWords (x : Ctx) : List Word :=
  [x.pc, x.stateWord, x.avec, x.fieldsize, x.firinfo, x.icount, x.cmpq, x.cdealpat, BitVec.ofNat 64 x.ctr, x.selWord]
    ++ x.trapA.saved ++ x.trapS.saved ++ x.trapF.saved

/-- A unit in 17 bits: its kind and its virtual coordinates. -/
def unitCode : DUnit → Nat
  | .block b => packed [(2, 0), (6, b.vblock), (3, b.field), (6, b.estate)]
  | .loose _ n => packed [(2, 1), (6, numBlock n), (3, numField n), (6, numEstate n)]
  | .field e d => packed [(2, 2), (6, 0), (3, d), (6, e)]
  | .estate e => packed [(2, 3), (9, 0), (6, e)]

/-- From 0x288 on: stream slots at five bytes, counts of the eight streams, delivery-failure records, the arrival counted. -/
def State.streamBytes (s : State) (c : CoreId) (n : Nat) : List Byte :=
  let x := s.ctx c n
  let slots := (x.slots.take 56).flatMap fun t =>
    leBytes 5 (packed [(17, unitCode t.unit), (16, t.next), (1, flagBit t.closing), (1, flagBit t.failed), (3, t.stream), (1, 1)])
  slots ++ List.replicate (280 - slots.length) (0 : Byte)
    ++ ((List.range 8).flatMap fun i => leBytes 2 (s.unacked c n i))
    ++ ((List.range 8).flatMap fun i => leBytes 8 (match x.failures[i]? with
      | some f => packed [(48, f.addr.toNat), (3, f.stream), (3, f.cause), (1, flagBit f.more), (9, f.discarded)]
      | none => 0))
    ++ leBytes 8 (match x.arrived with
      | some m => packed [(1, 1), (1, flagBit m.fld), (6, m.idx), (16, m.gen), (1, flagBit m.done.isSome)]
      | none => 0)

/-- A release vector by its name in its die's store. -/
def refWords (r : Option HeldRef) : List Word :=
  match r with
  | some r => [BitVec.ofNat 64 (packed [(1, 1), (3, r.die.2), (6, r.die.1), (3, r.scope.level)]), BitVec.ofNat 64 r.id]
  | none => [0, 0]

def Mail.saved (m : Mail) : List Word :=
  [m.value, BitVec.ofNat 64 (packed [(1, flagBit m.pres), (1, flagBit m.err), (1, flagBit m.await)])] ++ refWords m.snap

def HeldPost.saved (h : HeldPost) : List Word :=
  [h.value, BitVec.ofNat 64 (packed [(1, 1), (5, h.x.toNat), (1, flagBit h.reported)])] ++ refWords h.snap

def Sem.word (m : Sem) : Word :=
  BitVec.ofNat 64 (packed [(16, m.count), (1, flagBit m.vec.isSome), (47, (m.vec.map (·.id)).getD 0)])

def MReq.saved (r : MReq) : List Word :=
  let op : List Word := match r.op with
    | .mmac set a b => [BitVec.ofNat 64 (packed [(2, 0), (1, flagBit set), (6, a), (6, b)]), 0, 0]
    | .zero => [1, 0, 0]
    | .st base stride => [2, base, stride]
  [BitVec.ofNat 64 (packed [(4, r.ctx), (3, r.acc), (1, flagBit r.pair), (1, flagBit r.linked), (1, flagBit r.passed.isSome),
      (1, flagBit r.started), (1, flagBit r.ended), (1, flagBit r.park.isSome), (8, r.flags), (8, r.code), (16, r.rows)]),
    r.pc, r.fmt, BitVec.ofNat 64 r.step] ++ op

def Shape.saved (h : Shape) : List Word := (h.ext.zip h.stride).map fun p => BitVec.ofNat 64 p.1 + BitVec.ofInt 64 (p.2 * 2 ^ 24)

def CKind.saved : CKind → List Word
  | .cpy => [0]
  | .cpyt src dst => (if dst.isSome then 0x101 else 1) :: src.saved ++ (match dst with
      | some h => h.saved
      | none => [])
  | .slot n => [BitVec.ofNat 64 (2 + 256 * n)]
  | .deal p => [3, p]
  | .mc m => [BitVec.ofNat 64 (4 + 256 * m)]
  | .stamp => [5]
  | .fill => [6]
  | .nop => [7]

def Cmd.saved (x : Cmd) : List Word :=
  [BitVec.ofNat 64 (packed [(4, x.ctx), (1, flagBit x.passed), (1, flagBit x.running), (1, flagBit x.ended), (1, flagBit x.handing),
      (1, flagBit x.parked), (1, flagBit x.park.isSome), (1, flagBit x.resume), (8, x.code)]),
    x.pc, x.dst, x.src, BitVec.ofNat 64 x.len, x.par, BitVec.ofNat 64 x.pos, BitVec.ofNat 64 x.bytes, x.faddr] ++ x.kind.saved

/-- An access of the fault replay queue. -/
def Msg.saved (m : Msg) : List Word :=
  match m.body with
  | .access a _ => [BitVec.ofNat 64 (packed [(4, m.ctx), (8, a.lane), (16, a.size), (3, a.stream)]), m.pc, a.addr]
  | _ => [BitVec.ofNat 64 m.ctx, m.pc, 0]

/-- So many words, the rest zero. -/
def padWords (n : Nat) (ws : List Word) : List Word := (ws ++ List.replicate n 0).take n

/-- A core's own area: mailbox registers and hold queue, code table, format context, matrix status, counters, semaphores, request
tags, matrix requests, replay queue, copy commands. -/
def State.areaWords (s : State) (c : CoreId) : List Word :=
  let k := s.core c
  let parked := (s.msgs.filter fun m => m.2.core == c && m.2.stage == .parked).map Prod.snd
  ((List.range 32).flatMap fun i => (k.x.get {} (BitVec.ofNat 5 i)).saved)
    ++ padWords 64 (k.hold.flatMap HeldPost.saved)
    ++ ((List.range 2).map fun i => BitVec.ofNat 64 (leNat ((List.range 8).map fun j => k.code.get (resetCode (8 * i + j)) (8 * i + j))))
    ++ [k.mfctx, BitVec.ofNat 64 (packed ((List.range 8).map fun i => (1, flagBit (k.mpoison.contains i))))]
    ++ ((List.range 8).map fun i => k.mstat.get 0 i)
    ++ [BitVec.ofNat 64 k.ctr, k.msent, k.mrcvd, k.cerrlo, k.cerraddr, k.cerrcnt]
    ++ ((List.range 256).map fun i => (k.sem.get {} i).word)
    ++ ((List.range 128).map fun t => BitVec.ofNat 64 (k.tagGen.get 0 t))
    ++ padWords 56 (k.mreqs.flatMap MReq.saved)
    ++ padWords 264 (parked.flatMap Msg.saved)
    ++ padWords 1630 (k.cmds.flatMap fun x => x.2.saved)

/-- A slot's claim: free, exclusive or shared, and the members that hold it. -/
def Claim.word : Claim → Nat
  | .free => 0
  | .excl m => packed [(16, 1), (16, 2 ^ m)]
  | .shared ms => packed [(16, 2), (16, (ms.map fun m => 2 ^ m).sum)]

def Claim.ofWord (w : Nat) : Claim :=
  let ms := (List.range 16).filter fun i => w / 2 ^ (16 + i) % 2 == 1
  match w % 2 ^ 16 with
  | 0 => .free
  | 1 => .excl (ms.headD 0)
  | _ => .shared ms

/-- 64 bytes of a block barrier: mask, PER, GEN, TOTAL, arrivals, join. -/
def Barrier.bytes (b : Barrier) : List Byte :=
  leBytes 8 b.mask.toNat ++ leBytes 8 (packed [(16, b.per), (16, b.gen), (16, b.total)])
    ++ ((List.range 16).flatMap fun m => leBytes 2 (b.arr.get 0 m)) ++ wordBytes (refWords b.join)

/-- The block a header names. -/
def headerOf (b : BlockId) : Nat := packed [(16, b.pid), (8, b.vblock), (8, b.field), (32, b.estate)]

/-! ## Writing it -/

/-- Everything of a context at its place. -/
def State.spillCtx (s : State) (base : Nat) (c : CoreId) (n : Nat) : State :=
  let x := s.ctx c n
  let bytes := wordBytes x.imageWords ++ s.streamBytes c n
  let s := s.blankRange base 0x1000
  let s := x.g.foldl (fun s r => s.pokeBytes (base + 8 * r.1.toNat) (leBytes 8 r.2.toNat)) s
  let s := s.pokeBytes (base + 0x100) bytes
  let s := x.v.foldl (fun s r => s.pokeBytes (base + 0x400 + 64 * r.1.toNat) (leBytes 64 r.2.toNat)) s
  let s := x.k.foldl (fun s r => s.pokeBytes (base + 0xC00 + 8 * r.1.toNat) (leBytes 8 r.2.toNat)) s
  x.clk.foldl (fun s r => s.pokeBytes (base + clkOff r.1) (leBytes 2 r.2)) s

/-- The contexts of a core, and its area. -/
def State.spillState (s : State) (base m : Nat) (c : CoreId) : State :=
  let s := (s.core c).ctxs.foldl (fun s x => s.spillCtx (base + ctxOff m x.1) c x.1) s
  (s.blankRange (base + areaOff m) 0x5000).pokeBytes (base + areaOff m) (wordBytes (s.areaWords c))

/-- A core's section. -/
def State.spillCore (s : State) (base m : Nat) (c : CoreId) : State :=
  ((s.copyRange (scratchLoc c 0) (2 ^ 19) (base + coreOff m)).copyRange (accLoc c 0 0) (2 ^ 17) (base + coreOff m + 0x80000)).spillState
    base m c

/-- The block's own part: coordinates, size, time base at the start of the spill; counter, RotPtr, poison marks, an owed release,
claims, barriers, the firings it has saved. -/
def State.spillHead (s : State) (base : Nat) (b : BlockId) : State :=
  let x := s.block b
  let saved := s.firings.filterMap fun f => match f.2.place with
    | .saved c m => if c = b then some (leBytes 8 (f.1 * 32 + m + 1)) else none
    | _ => none
  let owed := b.cores.any fun c => (s.ctx c 0).released
  let t := (s.estate b.estate).tbase + BitVec.ofNat 64 (x.left * 10 / 27)
  let head : List Word := [BitVec.ofNat 64 (headerOf b), BitVec.ofNat 64 imageSize, t]
  let marks : List Word := [BitVec.ofNat 64 x.ctr, BitVec.ofNat 64 x.rotPtr,
    BitVec.ofNat 64 (packed ((List.range 64).map fun i => (1, flagBit (x.spoison.contains i)))), BitVec.ofNat 64 (flagBit owed)]
  let s := (s.blankRange (base + 8) 0xFF8).pokeBytes (base + 8) (wordBytes head)
  let s := s.pokeBytes (base + 0x40) (wordBytes marks)
  let s := s.pokeBytes (base + 0x80) ((List.range 64).flatMap fun i => leBytes 4 (x.claims.get .free i).word)
  let s := s.pokeBytes (base + 0x200) ((List.range 16).flatMap fun i => (x.bars.get { mask := 0xFFFF, per := 1 } i).bytes)
  s.pokeBytes (base + 0x600) (saved.flatten.take 0xA00)

/-- The whole image, its valid word last (R67, R386). -/
def State.writeImage (s : State) (b : BlockId) : State :=
  let base := s.imageLoc b
  let s := s.blankRange base imageSlot
  let s := s.copyRange (slotLoc b 0 0) (2 ^ 19) (base + 0x10000)
  let s := (List.range 16).foldl (fun s m => s.spillCore base m (b.core m)) s
  (s.spillHead base b).pokeBytes base (leBytes 8 3)

/-! ## Keeping it in step -/

/-- Messages of a core that its image tells of. -/
def State.savedMsgs (s : State) (c : CoreId) : Map Nat Msg := s.msgs.filter fun m => m.2.core == c

/-- What a turn has changed of a block out of the machine is in its image too: replies, joins, acknowledgements, faults, posts,
signals, marks (R67, R70). -/
def State.mirrorBlock (old s : State) (b : BlockId) (base : Nat) : State :=
  let s := (List.range 16).foldl (fun (t : State) m =>
    let c := b.core m
    if s.core c = old.core c ∧ s.savedMsgs c = old.savedMsgs c then t else t.spillState base m c) s
  if s.block b = old.block b ∧ (b.cores.all fun c => (s.ctx c 0).released == (old.ctx c 0).released) = true then s
  else s.spillHead base b

def State.mirrorFrom (old s : State) : State :=
  (Map.keys s.blocks).foldl (fun t b => match old.absentImage b, s.absentImage b with
    | some i, some j => if i = j then old.mirrorBlock t b i else t
    | _, _ => t) s

/-- A location of an absent block's scratchpads, in its image. -/
def State.mirrorLoc (s : State) (loc : Nat) : Option Nat :=
  if 2 ^ 90 ≤ loc ∧ loc < 2 ^ 90 + 2 ^ 59 then
    let key := (loc - 2 ^ 90) / 2 ^ 19
    let c := CoreId.virt (key / 2 ^ 20) (key % 2 ^ 20)
    (c.block.bind s.absentImage).map fun base => base + coreOff (numCore c.num) + (loc - 2 ^ 90) % 2 ^ 19
  else none

/-- Bytes written to a block out of the machine are in its image too (R70). -/
def State.mirror (s : State) (loc : Nat) (bs : List Byte) : State :=
  match s.mirrorLoc loc with
  | some l => s.commitBytes l bs
  | none => s

/-! ## Reading it back -/

/-- The number that `n` bytes from `off` on hold. -/
def cellsNat (cs : List Host.Cell) (off n : Nat) : Nat :=
  ((cs.filter fun c => decide (off ≤ c.1) && decide (c.1 < off + n)).map fun c => c.2.toNat * 256 ^ (c.1 - off)).sum

/-- Registers from their places; those the file hard-wires are not in it. -/
def fillFile {k : Nat} {w : Nat} (cs : List Host.Cell) (first off size : Nat) : Map (BitVec k) (BitVec w) :=
  ((List.range (2 ^ k)).map fun i => (i, cellsNat cs (off + size * i) size)).filterMap fun r =>
    if first ≤ r.1 ∧ r.2 ≠ 0 then some (BitVec.ofNat k r.1, BitVec.ofNat w r.2) else none

/-- Bits [lo+n-1:lo] of a number. -/
def bitsAt (w lo n : Nat) : Nat := w / 2 ^ lo % 2 ^ n

/-- Word i of a part that begins at `off`. -/
def cellWord (cs : List Host.Cell) (off i : Nat) : Word := BitVec.ofNat 64 (cellsNat cs (off + 8 * i) 8)

def fillTrap (cs : List Host.Cell) (off : Nat) : Trap :=
  { pc := cellWord cs off 0, cause := cellWord cs off 1, addr := cellWord cs off 2, scr0 := cellWord cs off 3
    scr1 := cellWord cs off 4, trec := fillFile cs 0 (off + 40) 8 }

/-- A context by its part of the image; what the part gives no place of its own stays as it is (log 34). -/
def fillCtx (cs : List Host.Cell) (x : Ctx) : Ctx :=
  let st := cellsNat cs 0x108 8
  let sel := cellsNat cs 0x148 8
  let w := cellWord cs 0x110
  { x with
    g := fillFile cs 1 0 8, v := fillFile cs 0 0x400 64, k := fillFile cs 1 0xC00 8, pc := cellWord cs 0x100 0
    run := (if bitsAt st 0 3 = x.run.code then x.run else if bitsAt st 0 3 = 0 then .free else .ready)
    level := Level.ofCode (bitsAt st 3 2), busyA := bitsAt st 5 1 == 1, busyS := bitsAt st 6 1 == 1, busyF := bitsAt st 7 1 == 1
    hown := bitsAt st 8 1 == 1, exempt := bitsAt st 9 1 == 1, released := bitsAt st 10 1 == 1, member := bitsAt st 12 4
    inserted := bitsAt st 16 16
    avec := w 0, fieldsize := w 1, firinfo := w 2, icount := w 3, cmpq := w 4, cdealpat := w 5, ctr := (w 6).toNat
    bvsel := BitVec.ofNat 64 (bitsAt sel 0 14), barsel := BitVec.ofNat 64 (bitsAt sel 14 6)
    salsel := BitVec.ofNat 64 (bitsAt sel 20 9), lnksel := BitVec.ofNat 64 (bitsAt sel 29 11)
    rmode := BitVec.ofNat 64 (bitsAt sel 40 8), fflags := BitVec.ofNat 64 (bitsAt sel 48 8)
    trapA := fillTrap cs 0x150, trapS := fillTrap cs 0x1B8, trapF := fillTrap cs 0x220
    clk := [1, 2, 3, 4, 5].flatMap fun k => ((List.range (unitsAt k)).map fun i =>
      ((k, i), cellsNat cs (clkOff (k, i)) 2)).filter fun e => e.2 != 0 }

/-- The core's area: mailbox registers, code table, format context, matrix status, counters and semaphores; its queues stay as they
are (log 34). -/
def fillArea (cs : List Host.Cell) (k : Core) : Core :=
  let mail (i : Nat) : Mail :=
    let w := cellsNat cs (0x20 * i + 8) 8
    { k.x.get {} (BitVec.ofNat 5 i) with
      value := cellWord cs (0x20 * i) 0, pres := bitsAt w 0 1 == 1, err := bitsAt w 1 1 == 1, await := bitsAt w 2 1 == 1 }
  let sem (i : Nat) : Sem := { k.sem.get {} i with count := cellsNat cs (0x690 + 8 * i) 2 }
  { k with
    x := ((List.range 32).map fun i => (BitVec.ofNat 5 i, mail i)).filter fun e => e.2 != {}
    code := ((List.range 16).map fun i => (i, (BitVec.ofNat 8 (cellsNat cs (0x600 + i) 1) : Byte))).filter fun e => e.2 != resetCode e.1
    mfctx := cellWord cs 0x610 0
    mpoison := (List.range 8).filter fun i => bitsAt (cellsNat cs 0x618 1) i 1 == 1
    mstat := ((List.range 8).map fun i => (i, cellWord cs 0x620 i)).filter fun e => e.2 != 0
    ctr := cellsNat cs 0x660 8, msent := cellWord cs 0x668 0, mrcvd := cellWord cs 0x670 0, cerrlo := cellWord cs 0x678 0
    cerraddr := cellWord cs 0x680 0, cerrcnt := cellWord cs 0x688 0
    sem := ((List.range 256).map fun i => (i, sem i)).filter fun e => e.2 != {} }

/-- The contexts of a core that the image or the state knows of. -/
def State.fillCtxs (s : State) (base m : Nat) (k : Core) : Map Nat Ctx :=
  (List.range 11).filterMap fun n =>
    let cs := s.cellsOf (base + ctxOff m n) 0x1000
    let live := (Map.get? k.ctxs n).isSome || cellsNat cs 0x108 8 % 8 != 0
    if live then some (n, fillCtx cs (k.ctx n)) else none

/-- A core's section fills its scratchpad, accumulators, contexts and area. -/
def State.fillCore (s : State) (base m : Nat) (c : CoreId) : State :=
  let s := (s.moveRange (base + coreOff m) (2 ^ 19) (scratchLoc c 0)).moveRange (base + coreOff m + 0x80000) (2 ^ 17) (accLoc c 0 0)
  s.modCore c fun k => { fillArea (s.cellsOf (base + areaOff m) 0x5000) k with ctxs := s.fillCtxs base m k }

/-- The block's own part. -/
def fillBlock (cs : List Host.Cell) (x : Block) : Block :=
  let bar (i : Nat) : Barrier :=
    let off := 0x200 + 0x40 * i
    let w := cellsNat cs (off + 8) 8
    { x.bars.get { mask := 0xFFFF, per := 1 } i with
      mask := cellWord cs off 0, per := bitsAt w 0 16, gen := bitsAt w 16 16, total := bitsAt w 32 16
      arr := ((List.range 16).map fun m => (m, cellsNat cs (off + 16 + 2 * m) 2)).filter fun e => e.2 != 0 }
  { x with
    ctr := cellsNat cs 0x40 8, rotPtr := cellsNat cs 0x48 8
    spoison := (List.range 64).filter fun i => bitsAt (cellsNat cs 0x50 8) i 1 == 1
    claims := ((List.range 64).map fun i => (i, Claim.ofWord (cellsNat cs (0x80 + 4 * i) 4))).filter fun e => e.2 != .free
    bars := ((List.range 16).map fun i => (i, bar i)).filter fun e => e.2 != { mask := 0xFFFF, per := 1 } }

/-- A line of an image that could not be read is poisoned where it goes: an operand slot, a scratchpad line, an accumulator; lines of
other state have no mark (R386; log 34). -/
def State.poisonFill (s : State) (b : BlockId) (n : Nat) : State :=
  let off := 64 * n
  let c := b.core ((off - 0x90000) / 0xB0000)
  let r := (off - 0x90000) % 0xB0000
  if off < 0x10000 then s
  else if off < 0x90000 then s.modBlock b fun x => { x with spoison := addTo ((off - 0x10000) / 8192) x.spoison }
  else if r < 0x80000 then s.addPoison (scratchLoc c r / 64)
  else if r < 0xA0000 then s.modCore c fun k => { k with mpoison := addTo ((r - 0x80000) / 16384) k.mpoison }
  else s

/-- The block's state is filled from its image (R67, R72). -/
def State.readImage (s : State) (b : BlockId) : State :=
  match s.absentImage b with
  | some base =>
    let bad := (s.poison.filter fun l => decide (base ≤ 64 * l) && decide (64 * l < base + imageSize)).map fun l => l - base / 64
    let s := (s.moveRange (base + 0x10000) (2 ^ 19) (slotLoc b 0 0)).modBlock b (fillBlock (s.cellsOf base 0x1000))
    bad.foldl (fun s n => s.poisonFill b n) ((List.range 16).foldl (fun s m => s.fillCore base m (b.core m)) s)
  | none => s

/-- Some line of the block's image is poisoned. -/
def State.badImage (s : State) (b : BlockId) : Bool :=
  match s.absentImage b with
  | some base => s.poison.any fun l => decide (base ≤ 64 * l) && decide (64 * l < base + imageSize)
  | none => false

end Sys2Proof.Machine
end

