-- ==== Sys2Proof/Machine/Crypt.lean ====
section
/-! DEFINITION. AES-256-GCM, which R397 names: the cipher and the tag of a flit, as FIPS 197 and SP 800-38D define them (log 129).
Bytes are numbers below 256; a block of 16 is a number with its first byte highest. -/

namespace Sys2Proof.Machine

/-! ## AES-256 -/

/-- Twice an element of the field of 256. -/
def aesDouble (a : Nat) : Nat := if 128 ≤ a then Nat.xor (2 * a) 0x11B else 2 * a

/-- Product in the field of 256, over the low bits of the second factor. -/
def aesMul (a : Nat) : Nat → Nat → Nat
  | 0, _ => 0
  | n + 1, b => Nat.xor (if b % 2 = 1 then a else 0) (aesMul (aesDouble a) n (b / 2))

/-- The inverse of an element, 0 for 0: its 254th power. -/
def aesInverse (a : Nat) : Nat :=
  let square (x : Nat) : Nat := aesMul x 8 x
  (List.range 6).foldl (fun x _ => square (aesMul x 8 a)) (square a)

/-- The substitution of a byte. -/
def aesSub (a : Nat) : Nat :=
  let x := aesInverse a
  [1, 2, 3, 4].foldl (fun s n => Nat.xor s ((x * 2 ^ n) % 256 + x / 2 ^ (8 - n))) (Nat.xor x 0x63)

def xorBytes (xs ys : List Nat) : List Nat := (xs.zip ys).map fun p => Nat.xor p.1 p.2

/-- The next word of the key schedule: `i` is its number, `ws` those before it, last first. -/
def aesKeyWord (i : Nat) (ws : List (List Nat)) : List Nat :=
  let last := ws.headD []
  let mixed := if i % 8 = 0 then
      let turned := (last.drop 1 ++ last.take 1).map aesSub
      xorBytes turned [(List.range (i / 8 - 1)).foldl (fun c _ => aesDouble c) 1, 0, 0, 0]
    else if i % 8 = 4 then last.map aesSub else last
  xorBytes (ws.getD 7 []) mixed

/-- The bytes of the 15 round keys, from the key's 32. -/
def aesSchedule (key : List Nat) : List Nat :=
  let first := ((List.range 8).map fun i => (key.drop (4 * i)).take 4).reverse
  ((List.range 52).foldl (fun ws i => aesKeyWord (i + 8) ws :: ws) first).reverse.flatten

/-- Rows move, columns mix; the last round does not mix. -/
def aesShift (xs : List Nat) : List Nat := (List.range 16).map fun i => xs.getD ((i + 4 * (i % 4)) % 16) 0

def aesMix (xs : List Nat) : List Nat :=
  (List.range 16).map fun i =>
    let at_ (k : Nat) : Nat := xs.getD (i / 4 * 4 + (i + k) % 4) 0
    [aesMul (at_ 1) 8 3, at_ 2, at_ 3].foldl Nat.xor (aesDouble (at_ 0))

/-- One block, under the bytes of the key schedule. -/
def aesBlock (ks xs : List Nat) : List Nat :=
  let part (r : Nat) : List Nat := (ks.drop (16 * r)).take 16
  let mid := (List.range 13).foldl (fun s r => xorBytes (aesMix (aesShift (s.map aesSub))) (part (r + 1))) (xorBytes xs (part 0))
  xorBytes (aesShift (mid.map aesSub)) (part 14)

/-! ## GCM -/

/-- Bytes of a number, highest first. -/
def bigBytes (n w : Nat) : List Nat := (List.range n).map fun i => w / 256 ^ (n - 1 - i) % 256

def bigNat (bs : List Nat) : Nat := bs.foldl (fun n b => n * 256 + b) 0

/-- Product in the field of 2^128, over the top bits of the first factor. -/
def ghashMul : Nat → Nat → Nat → Nat
  | 0, _, _ => 0
  | n + 1, x, v =>
    Nat.xor (if x / 2 ^ 127 % 2 = 1 then v else 0)
      (ghashMul n (x * 2 % 2 ^ 128) (if v % 2 = 1 then Nat.xor (v / 2) (0xE1 * 2 ^ 120) else v / 2))

/-- GHASH of blocks under the hash key. -/
def ghash (h : Nat) (xs : List Nat) : Nat := xs.foldl (fun y x => ghashMul 128 (Nat.xor y x) h) 0

/-- Block n of the key stream of a 96-bit nonce. -/
def gcmBlock (ks : List Nat) (nonce n : Nat) : List Nat := aesBlock ks (bigBytes 16 (nonce * 2 ^ 32 + n))

/-- Data of up to 48 bytes, encrypted or decrypted. -/
def gcmCipher (key nonce : Nat) (data : List Nat) : List Nat :=
  let ks := aesSchedule (bigBytes 32 key)
  xorBytes data ([2, 3, 4].flatMap (gcmBlock ks nonce))

/-- The 64-bit tag over 48 bytes: a ciphertext's, or with `clear` that of data in clear. -/
def gcmTag (key nonce : Nat) (clear : Bool) (data : List Nat) : Nat :=
  let ks := aesSchedule (bigBytes 32 key)
  let h := bigNat (aesBlock ks (List.replicate 16 0))
  let len := 8 * data.length * (if clear then 2 ^ 64 else 1)
  let xs := (List.range 3).map fun i => bigNat ((data.drop (16 * i)).take 16)
  Nat.xor (ghash h (xs ++ [len])) (bigNat (gcmBlock ks nonce 1)) / 2 ^ 64

end Sys2Proof.Machine
end

