-- ==== Sys2Proof/Machine/Flags.lean ====
section
/-! DEFINITION. Number formats, rounding, overflow, clamp, NaNs and the float flags (R140 to R147), and the exact arithmetic
behind R89: an operation forms an exact value, and one function rounds it and says which flags it sets. -/

namespace Sys2Proof.Machine

/-- The float flags of R136. -/
structure FF where
  nv : Bool := false
  dz : Bool := false
  ov : Bool := false
  uf : Bool := false
  nx : Bool := false
deriving DecidableEq, Repr

def FF.or (x y : FF) : FF :=
  { nv := x.nv || y.nv, dz := x.dz || y.dz, ov := x.ov || y.ov, uf := x.uf || y.uf, nx := x.nx || y.nx }

/-- The flags left to an instruction whose row of R184 names NV, and NX where `nx` holds (log 109). -/
def FF.only (f : FF) (nx : Bool) : FF := { nv := f.nv, nx := f.nx && nx }

/-- Bits [4:0] of `fflags` (R136). -/
def FF.word (f : FF) : Word :=
  BitVec.ofNat 64 (f.nv.toNat + 2 * f.dz.toNat + 4 * f.ov.toNat + 8 * f.uf.toNat + 16 * f.nx.toNat)

/-- Rounding modes, codes 1 to 4 (R143). -/
inductive RMode where
  | even | zero | down | up
deriving DecidableEq, Repr

def RMode.ofCode : Nat → RMode
  | 2 => .zero | 3 => .down | 4 => .up | _ => .even

/-- A float type's fields (R141): `f8` has no infinities. -/
structure FFmt where
  ebits : Nat
  fbits : Nat
  bias : Nat
  noInf : Bool := false
deriving DecidableEq, Repr

def FFmt.of : ETy → FFmt
  | .f64 => { ebits := 11, fbits := 52, bias := 1023 }
  | .f32 => { ebits := 8, fbits := 23, bias := 127 }
  | .f16 => { ebits := 5, fbits := 10, bias := 15 }
  | .bf16 => { ebits := 8, fbits := 7, bias := 127 }
  | .f8 => { ebits := 4, fbits := 3, bias := 7, noInf := true }
  | _ => { ebits := 5, fbits := 2, bias := 15 }

namespace FFmt

/-- Exponent of the smallest normal. -/
def emin (f : FFmt) : Int := 1 - (f.bias : Int)

def expMask (f : FFmt) : Nat := 2 ^ f.ebits - 1

/-- Largest finite value as `maxM * 2 ^ maxT`. -/
def maxM (f : FFmt) : Nat := if f.noInf then 2 ^ (f.fbits + 1) - 2 else 2 ^ (f.fbits + 1) - 1

def maxT (f : FFmt) : Int := (f.expMask : Int) - (if f.noInf then 0 else 1) - f.bias - f.fbits

def signBit (f : FFmt) (s : Bool) : Nat := if s then 2 ^ (f.ebits + f.fbits) else 0

/-- Encoding of ±Max. -/
def maxEnc (f : FFmt) (s : Bool) : Nat :=
  f.signBit s + (if f.noInf then f.expMask * 2 ^ f.fbits + (2 ^ f.fbits - 2) else f.expMask * 2 ^ f.fbits - 1)

def infEnc (f : FFmt) (s : Bool) : Nat := f.signBit s + f.expMask * 2 ^ f.fbits

/-- Default NaN of the type (R142). -/
def defaultNaN (f : FFmt) : Nat :=
  if f.noInf then f.expMask * 2 ^ f.fbits + (2 ^ f.fbits - 1) else f.expMask * 2 ^ f.fbits + 2 ^ (f.fbits - 1)

end FFmt

/-- A value read from an element. A finite value is `(-1)^s * m * 2^e`; a NaN keeps its fraction and the fraction's width. -/
inductive Val where
  | nan (s quiet : Bool) (frac width : Nat)
  | inf (s : Bool)
  | fin (s : Bool) (m : Nat) (e : Int)
deriving DecidableEq, Repr

/-- Read a float encoding (R141, R142). -/
def FFmt.read (f : FFmt) (x : Nat) : Val :=
  let s := x / 2 ^ (f.ebits + f.fbits) % 2 == 1
  let ex := x / 2 ^ f.fbits % 2 ^ f.ebits
  let fr := x % 2 ^ f.fbits
  if f.noInf && ex == f.expMask && fr == 2 ^ f.fbits - 1 then .nan s true (2 ^ (f.fbits - 1)) f.fbits
  else if !f.noInf && ex == f.expMask then
    (if fr == 0 then .inf s else .nan s (2 ^ (f.fbits - 1) ≤ fr) fr f.fbits)
  else if ex == 0 then .fin s fr (f.emin - f.fbits)
  else .fin s (2 ^ f.fbits + fr) ((ex : Int) - f.bias - f.fbits)

def signedOf (n x : Nat) : Int :=
  let y := x % 2 ^ n
  if 2 * y ≥ 2 ^ n then (y : Int) - 2 ^ n else y

/-- The low `n` bits of an integer. -/
def wrapInt (n : Nat) (y : Int) : Nat := (y % 2 ^ n).toNat

/-- An integer element: signed for iN, unsigned for nN (R140). -/
def readInt (t : ETy) (x : Nat) : Int := if t.isSigned then signedOf t.width x else (x % 2 ^ t.width : Nat)

def intMin (t : ETy) : Int := if t.isSigned then -2 ^ (t.width - 1) else 0

def intMax (t : ETy) : Int := if t.isSigned then 2 ^ (t.width - 1) - 1 else 2 ^ t.width - 1

/-- Wrap, or saturate with clamp (R140, R144). -/
def finishInt (t : ETy) (clamp : Bool) (y : Int) : Nat :=
  wrapInt t.width (if clamp then max (intMin t) (min (intMax t) y) else y)

def valOfInt (y : Int) : Val := .fin (decide (y < 0)) y.natAbs 0

/-- Read an element of any arithmetic type. -/
def readVal (t : ETy) (x : Nat) : Val := if t.isFloat then (FFmt.of t).read (x % 2 ^ t.width) else valOfInt (readInt t x)

/-- Source modifiers: absolute value, then negate (R89). -/
def Val.modify (m : BitVec 2) : Val → Val
  | .nan s q fr w => .nan (if m.getLsbD 0 then !(s && !m.getLsbD 1) else s && !m.getLsbD 1) q fr w
  | .inf s => .inf (if m.getLsbD 0 then !(s && !m.getLsbD 1) else s && !m.getLsbD 1)
  | .fin s k e => .fin (if m.getLsbD 0 then !(s && !m.getLsbD 1) else s && !m.getLsbD 1) k e

/-- A source operand after its modifiers (R89); an integer zero has no sign, so its negation is zero. -/
def srcVal (t : ETy) (x : Nat) (m : BitVec 2) : Val :=
  match t.isFloat, (readVal t x).modify m with
  | false, .fin _ 0 e => .fin false 0 e
  | _, v => v

def Val.isNaN : Val → Bool
  | .nan .. => true
  | _ => false

def Val.isSNaN : Val → Bool
  | .nan _ q _ _ => !q
  | _ => false

/-- An exact non-negative number `n / d * 2^e`, or its square root. -/
structure Mag where
  n : Nat
  d : Nat := 1
  e : Int := 0
  sq : Bool := false
deriving DecidableEq, Repr

/-- Greatest `r` with `r * r ≤ n`, bit by bit from bit `k`. -/
def isqrtFrom (n : Nat) : Nat → Nat → Nat
  | 0, r => if (r + 1) * (r + 1) ≤ n then r + 1 else r
  | k + 1, r => isqrtFrom n k (if (r + 2 ^ (k + 1)) * (r + 2 ^ (k + 1)) ≤ n then r + 2 ^ (k + 1) else r)

def isqrt (n : Nat) : Nat := isqrtFrom n (n.log2 / 2 + 1) 0

/-- floor(n / d * 2^k). -/
def shiftDiv (n d : Nat) (k : Int) : Nat := if 0 ≤ k then n * 2 ^ k.toNat / d else n / (d * 2 ^ (-k).toNat)

def shiftExact (n d : Nat) (k : Int) : Bool :=
  if 0 ≤ k then n * 2 ^ k.toNat % d == 0 else n % (d * 2 ^ (-k).toNat) == 0

/-- floor(y / 2^t). -/
def Mag.floorAt (y : Mag) (t : Int) : Nat :=
  if y.sq then isqrt (shiftDiv y.n y.d (y.e - 2 * t)) else shiftDiv y.n y.d (y.e - t)

/-- Is y a multiple of 2^t? -/
def Mag.exactAt (y : Mag) (t : Int) : Bool :=
  if y.sq then
    shiftExact y.n y.d (y.e - 2 * t)
      && isqrt (shiftDiv y.n y.d (y.e - 2 * t)) ^ 2 == shiftDiv y.n y.d (y.e - 2 * t)
  else shiftExact y.n y.d (y.e - t)

/-- floor(log2(n / d)) for n, d > 0. -/
def ratLog2 (n d : Nat) : Int :=
  let l : Int := (n.log2 : Int) - d.log2
  if shiftDiv n d (-l) = 0 then l - 1 else l

/-- floor(log2 y) of a non-zero y. -/
def Mag.log2 (y : Mag) : Int :=
  if y.sq then (ratLog2 y.n y.d + y.e) / 2 else ratLog2 y.n y.d + y.e

/-- Round y to a multiple of 2^t under the mode; `s` is its sign (R143). The result counts multiples. -/
def Mag.round (y : Mag) (s : Bool) (t : Int) (mode : RMode) : Nat :=
  let lo := y.floorAt t
  if y.exactAt t then lo
  else match mode with
    | .zero => lo
    | .down => if s then lo + 1 else lo
    | .up => if s then lo else lo + 1
    | .even =>
      let half := y.floorAt (t - 1) - 2 * lo
      if half = 0 then lo
      else if y.exactAt (t - 1) then (if lo % 2 = 0 then lo else lo + 1)
      else lo + 1

/-- The exact result of an operation, before R89's scale. -/
inductive Exact where
  /-- the NaN with this sign, fraction and width (R142), or the default one -/
  | nan (s : Bool) (frac width : Nat)
  | defNaN
  | inf (s : Bool)
  | zero (s : Bool)
  | num (s : Bool) (y : Mag)
deriving DecidableEq, Repr

def Exact.scale (k : Int) : Exact → Exact
  | .num s y => .num s { y with e := y.e + (if y.sq then 2 * k else k) }
  | x => x

/-- `a * 2^p > b * 2^q`. -/
def gtShift (a : Nat) (p : Int) (b : Nat) (q : Int) : Bool :=
  if q ≤ p then b < a * 2 ^ (p - q).toNat else b * 2 ^ (q - p).toNat < a

/-- NaN result in the type: made quiet, sign kept, most significant fraction bits kept (R142). -/
def FFmt.nanEnc (f : FFmt) (s : Bool) (frac width : Nat) : Nat :=
  if f.noInf then f.signBit s + f.expMask * 2 ^ f.fbits + (2 ^ f.fbits - 1)
  else
    let fr := if f.fbits ≤ width then frac / 2 ^ (width - f.fbits) else frac * 2 ^ (f.fbits - width)
    let fr' := if fr / 2 ^ (f.fbits - 1) % 2 = 1 then fr else fr + 2 ^ (f.fbits - 1)
    f.signBit s + f.expMask * 2 ^ f.fbits + fr'

/-- Encoding of `m * 2^t`, at most Max, with `m ≤ 2^(F+1)`. -/
def FFmt.pack (f : FFmt) (s : Bool) (m : Nat) (t : Int) : Nat :=
  let (m, t) := if m = 2 ^ (f.fbits + 1) then (2 ^ f.fbits, t + 1) else (m, t)
  if m < 2 ^ f.fbits then f.signBit s + m
  else f.signBit s + (t + f.fbits + f.bias).toNat * 2 ^ f.fbits + (m - 2 ^ f.fbits)

/-- What an overflowing value becomes (R144). -/
def FFmt.overflow (f : FFmt) (s clamp : Bool) (mode : RMode) : Nat :=
  if f.noInf || clamp then f.maxEnc s
  else match mode, s with
    | .even, _ => f.infEnc s
    | .zero, _ => f.maxEnc s
    | .down, false => f.maxEnc s
    | .down, true => f.infEnc s
    | .up, false => f.infEnc s
    | .up, true => f.maxEnc s

/-- `Dest` of R89 for a float type, with the flags of R146. -/
def destFloat (f : FFmt) (y : Exact) (scale : Int) (clamp : Bool) (mode : RMode) : Nat × FF :=
  match y.scale scale with
  | .nan s fr w => (f.nanEnc s fr w, {})
  | .defNaN => (f.defaultNaN, {})
  | .zero s => (f.signBit s, {})
  | .inf s => if f.noInf || clamp then (f.maxEnc s, { nx := true }) else (f.infEnc s, {})
  | .num s y =>
    let l := y.log2
    let t := max l f.emin - f.fbits
    let m := y.round s t mode
    let exact := y.exactAt t
    if gtShift m t f.maxM f.maxT then (f.overflow s clamp mode, { ov := true, nx := true })
    else
      let tu := l - f.fbits
      let tiny := decide (l < f.emin) && gtShift 1 f.emin (y.round s tu mode) tu
      (f.pack s m t, { uf := tiny && !exact, nx := !exact })

/-- Round an exact finite value to an integer (R143 with q = 1). -/
def Exact.toInt (mode : RMode) : Exact → Int
  | .num s y => if s then -(y.round s 0 mode : Int) else y.round s 0 mode
  | _ => 0

def Exact.isInt : Exact → Bool
  | .num _ y => y.exactAt 0
  | _ => true

/-- Float to integer (R145). -/
def destFloatToInt (t : ETy) (y : Exact) (scale : Int) (clamp : Bool) (mode : RMode) : Nat × FF :=
  match y.scale scale with
  | .nan .. => (0, { nv := true })
  | .defNaN => (0, { nv := true })
  | .inf s => (if clamp then wrapInt t.width (if s then intMin t else intMax t) else 0, { nv := true })
  | .zero _ => (0, {})
  | .num s y =>
    let r := (Exact.num s y).toInt mode
    if intMin t ≤ r ∧ r ≤ intMax t then (wrapInt t.width r, { nx := !y.exactAt 0 })
    else (finishInt t clamp r, { nv := true })

/-- `Dest` of R89 for an integer type: no flags (R171). -/
def destInt (t : ETy) (y : Exact) (scale : Int) (clamp : Bool) (mode : RMode) : Nat :=
  finishInt t clamp ((y.scale scale).toInt mode)

/-- A finite signed dyadic as an exact value; `z` is the sign a zero takes. -/
def exactOf (x : Int) (e : Int) (z : Bool) : Exact :=
  if x = 0 then .zero z else .num (decide (x < 0)) { n := x.natAbs, e := e }

def Val.exact : Val → Exact
  | .nan s _ fr w => .nan s fr w
  | .inf s => .inf s
  | .fin s m e => if m = 0 then .zero s else .num s { n := m, e := e }

def signed (s : Bool) (m : Nat) : Int := if s then -(m : Int) else m

/-- First NaN operand in order (R142); NV for a signalling one (R146). -/
def firstNaN : List Val → Option Exact
  | [] => none
  | .nan s _ fr w :: _ => some (.nan s fr w)
  | _ :: vs => firstNaN vs

def anySNaN (vs : List Val) : Bool := vs.any Val.isSNaN

/-- Exact sum of two finite or infinite values (R143, R146). -/
def sumExact (mode : RMode) (a b : Val) : Exact × FF :=
  match a, b with
  | .inf s, .inf s' => if s = s' then (.inf s, {}) else (.defNaN, { nv := true })
  | .inf s, _ => (.inf s, {})
  | _, .inf s => (.inf s, {})
  | .fin s m e, .fin s' m' e' =>
    let lo := min e e'
    let x := signed s (m * 2 ^ (e - lo).toNat) + signed s' (m' * 2 ^ (e' - lo).toNat)
    (exactOf x lo (if s = s' then s else mode = .down), {})
  | _, _ => (.defNaN, {})

/-- Exact product as a value (R143, R146); `none` for 0 × ∞. -/
def mulVal (a b : Val) : Option Val :=
  match a, b with
  | .inf s, .inf s' => some (.inf (s != s'))
  | .inf s, .fin s' m _ => if m = 0 then none else some (.inf (s != s'))
  | .fin s m _, .inf s' => if m = 0 then none else some (.inf (s != s'))
  | .fin s m e, .fin s' m' e' => some (.fin (s != s') (m * m') (e + e'))
  | _, _ => none

/-- A binary or ternary operation with NaN operands settled first (R142, R146). -/
def withNaN (vs : List Val) (r : Exact × FF) : Exact × FF :=
  match firstNaN vs with
  | some y => (y, { nv := anySNaN vs })
  | none => r

def addExact (mode : RMode) (a b : Val) : Exact × FF := withNaN [a, b] (sumExact mode a b)

def Val.neg (v : Val) : Val := v.modify 1

/-- Subtraction takes a NaN operand with its own sign (R142). -/
def subExact (mode : RMode) (a b : Val) : Exact × FF := withNaN [a, b] (sumExact mode a b.neg)

def mulExact (a b : Val) : Exact × FF :=
  withNaN [a, b] (match mulVal a b with
    | some v => (v.exact, {})
    | none => (.defNaN, { nv := true }))

/-- a × b + c, formed exactly (R165): 0 × ∞ sets NV even when c is a quiet NaN. -/
def fmaExact (mode : RMode) (a b c : Val) (sub : Bool) : Exact × FF :=
  let bad := !a.isNaN && !b.isNaN && (mulVal a b).isNone
  let r := withNaN [a, b, c] (match mulVal a b with
    | some v => sumExact mode v (if sub then c.neg else c)
    | none => (.defNaN, { nv := true }))
  (r.1, r.2.or { nv := bad })

def divExact (a b : Val) : Exact × FF :=
  withNaN [a, b] (match a, b with
    | .inf _, .inf _ => (.defNaN, { nv := true })
    | .inf s, .fin s' _ _ => (.inf (s != s'), {})
    | .fin s _ _, .inf s' => (.zero (s != s'), {})
    | .fin s m e, .fin s' m' e' =>
      if m' = 0 then (if m = 0 then (.defNaN, { nv := true }) else (.inf (s != s'), { dz := true }))
      else if m = 0 then (.zero (s != s'), {})
      else (.num (s != s') { n := m, d := m', e := e - e' }, {})
    | _, _ => (.defNaN, {}))

def sqrtExact (a : Val) : Exact × FF :=
  withNaN [a] (match a with
    | .inf false => (.inf false, {})
    | .fin s m e => if m = 0 then (.zero s, {}) else if s then (.defNaN, { nv := true })
        else (.num false { n := m, e := e, sq := true }, {})
    | _ => (.defNaN, { nv := true }))

/-- Order of two values that are not NaN; -0 equals +0. -/
def Val.lt (a b : Val) : Bool :=
  match a, b with
  | .inf s, .inf s' => s && !s'
  | .inf s, _ => s
  | _, .inf s => !s
  | .fin s m e, .fin s' m' e' =>
    let lo := min e e'
    decide (signed s (m * 2 ^ (e - lo).toNat) < signed s' (m' * 2 ^ (e' - lo).toNat))
  | _, _ => false

def Val.sign : Val → Bool
  | .nan s _ _ _ => s
  | .inf s => s
  | .fin s _ _ => s

/-- Order that puts -0 below +0 (R166). -/
def Val.ltz (a b : Val) : Bool := a.lt b || (!b.lt a && a.sign && !b.sign)

/-- `MinMax` of R166 on float values. -/
def minMax (greater : Bool) (a b : Val) : Exact × FF :=
  let r := if a.isNaN && b.isNaN then a.exact
    else if a.isNaN then b.exact
    else if b.isNaN then a.exact
    else if greater then (if a.ltz b then b.exact else a.exact)
    else (if b.ltz a then b.exact else a.exact)
  (r, { nv := a.isSNaN || b.isSNaN })

/-- Float conditions of R167, with NV. -/
def fcond (c : Cond) (a b : Val) : Bool × FF :=
  let nan := a.isNaN || b.isNaN
  let sn := a.isSNaN || b.isSNaN
  match c with
  | .eq => (!nan && !a.lt b && !b.lt a, { nv := sn })
  | .ne => (nan || a.lt b || b.lt a, { nv := sn })
  | .lt => (!nan && a.lt b, { nv := nan })
  | .ge => (!nan && !a.lt b, { nv := nan })
  | .gt => (!nan && b.lt a, { nv := nan })
  | .le => (!nan && !b.lt a, { nv := nan })
  | _ => (false, {})

/-- Integer conditions of R95 on N-bit values: the reading is the condition's. -/
def icond (c : Cond) (n a b : Nat) : Bool :=
  let sa := signedOf n a
  let sb := signedOf n b
  let ua := a % 2 ^ n
  let ub := b % 2 ^ n
  match c with
  | .al => true
  | .eq => ua == ub
  | .ne => ua != ub
  | .lt => decide (sa < sb)
  | .ge => decide (sb ≤ sa)
  | .gt => decide (sb < sa)
  | .le => decide (sa ≤ sb)
  | .ltu => decide (ua < ub)
  | .geu => decide (ub ≤ ua)
  | .gtu => decide (ub < ua)
  | .leu => decide (ua ≤ ub)

/-- The destination scale of format A, -8 to +7 (R88). -/
def scaleOf (s : BitVec 4) : Int := s.toInt

/-- Dest of R89 for any arithmetic type; an integer type sets no flags. -/
def dest (t : ETy) (y : Exact × FF) (scale : Int) (clamp : Bool) (mode : RMode) : Nat × FF :=
  if t.isFloat then
    let r := destFloat (FFmt.of t) y.1 scale clamp mode
    (r.1, y.2.or r.2)
  else (destInt t y.1 scale clamp mode, {})

/-- Conversion of R145, R168. -/
def convert (td ts : ETy) (v : Val) (scale : Int) (clamp : Bool) (mode : RMode) : Nat × FF :=
  let sn : FF := { nv := v.isSNaN }
  if td.isFloat then
    let r := destFloat (FFmt.of td) v.exact scale clamp mode
    (r.1, sn.or r.2)
  else if ts.isFloat then destFloatToInt td v.exact scale clamp mode
  else (destInt td v.exact scale clamp mode, {})

/-- `fclass` (R169): the class bit. -/
def classOf (f : FFmt) (v : Val) : Nat :=
  match v with
  | .nan _ q _ _ => if q then 9 else 8
  | .inf s => if s then 0 else 7
  | .fin s m e =>
    if m = 0 then (if s then 3 else 4)
    else if e = f.emin - f.fbits ∧ m < 2 ^ f.fbits then (if s then 2 else 5)
    else (if s then 1 else 6)

/-- `fround` (R170). -/
def roundIntegral (f : FFmt) (v : Val) (mode : RMode) : Nat × FF :=
  match v with
  | .fin s m e =>
    if m = 0 then (f.signBit s, {})
    else
      let r := (Mag.mk m 1 e false).round s 0 mode
      if r = 0 then (f.signBit s, {})
      else ((destFloat f (.num s { n := r }) 0 false mode).1, {})
  | .inf s => (f.infEnc s, {})
  | .nan s q fr w => (f.nanEnc s fr w, { nv := !q })

end Sys2Proof.Machine
end

