-- ==== Sys2Proof/Machine/Frozen.lean ====
section
/-! DEFINITION. The frozen functions (R155 to R157). `frcp` and `frsq` coefficients are computed here from R155's formulas;
those of `fexp2` and `flog2` are the same formulas evaluated outside Lean to 80 digits (log 19). -/

namespace Sys2Proof.Machine

/-- Rows (C0 × 2^30, C1 × 2^24, C2 × 2^16) of R155. -/
def exp2Tab0 : List (Nat × Int × Int) :=
  [(1076653033, 11660610, 15786), (1082499153, 11723926, 15872), (1088377016, 11787585, 15958), (1094286796, 11851591, 16045),
   (1100228665, 11915944, 16132), (1106202798, 11980646, 16219), (1112209370, 12045700, 16308), (1118248556, 12111107, 16396),
   (1124320536, 12176869, 16485), (1130425485, 12242988, 16575), (1136563583, 12309466, 16665), (1142735011, 12376305, 16755),
   (1148939949, 12443508, 16846), (1155178580, 12511075, 16938), (1161451085, 12579009, 17030), (1167757650, 12647311, 17122)]

def exp2Tab1 : List (Nat × Int × Int) :=
  [(1174098458, 12715985, 17215), (1180473697, 12785031, 17308), (1186883552, 12854453, 17402), (1193328213, 12924251, 17497),
   (1199807867, 12994429, 17592), (1206322705, 13064987, 17687), (1212872918, 13135929, 17783), (1219458698, 13207256, 17880),
   (1226080238, 13278970, 17977), (1232737732, 13351073, 18075), (1239431376, 13423568, 18173), (1246161366, 13496457, 18272),
   (1252927899, 13569741, 18371), (1259731174, 13643424, 18471), (1266571390, 13717506, 18571), (1273448747, 13791991, 18672)]

def exp2Tab2 : List (Nat × Int × Int) :=
  [(1280363448, 13866880, 18773), (1287315695, 13942176, 18875), (1294305692, 14017880, 18977), (1301333643, 14093996, 19080),
   (1308399756, 14170525, 19184), (1315504238, 14247470, 19288), (1322647296, 14324832, 19393), (1329829140, 14402614, 19498),
   (1337049980, 14480819, 19604), (1344310030, 14559449, 19711), (1351609500, 14638505, 19818), (1358948606, 14717991, 19925),
   (1366327563, 14797908, 20033), (1373746586, 14878259, 20142), (1381205894, 14959046, 20252), (1388705706, 15040273, 20362)]

def exp2Tab3 : List (Nat × Int × Int) :=
  [(1396246240, 15121940, 20472), (1403827719, 15204050, 20583), (1411450365, 15286607, 20695), (1419114401, 15369612, 20807),
   (1426820052, 15453067, 20920), (1434567544, 15536976, 21034), (1442357104, 15621340, 21148), (1450188960, 15706162, 21263),
   (1458063343, 15791445, 21379), (1465980482, 15877191, 21495), (1473940611, 15963403, 21611), (1481943963, 16050082, 21729),
   (1489990772, 16137233, 21847), (1498081275, 16224856, 21965), (1506215708, 16312956, 22085), (1514394310, 16401534, 22204)]

def exp2Tab4 : List (Nat × Int × Int) :=
  [(1522617322, 16490592, 22325), (1530884983, 16580135, 22446), (1539197537, 16670163, 22568), (1547555228, 16760680, 22691),
   (1555958300, 16851689, 22814), (1564406999, 16943192, 22938), (1572901575, 17035192, 23062), (1581442275, 17127691, 23188),
   (1590029350, 17220693, 23313), (1598663052, 17314200, 23440), (1607343634, 17408214, 23567), (1616071351, 17502739, 23695),
   (1624846459, 17597777, 23824), (1633669214, 17693331, 23953), (1642539877, 17789404, 24083), (1651458706, 17885999, 24214)]

def exp2Tab5 : List (Nat × Int × Int) :=
  [(1660425963, 17983118, 24346), (1669441912, 18080765, 24478), (1678506817, 18178942, 24611), (1687620943, 18277652, 24744),
   (1696784557, 18376897, 24879), (1705997930, 18476682, 25014), (1715261330, 18577009, 25150), (1724575029, 18677880, 25286),
   (1733939301, 18779299, 25423), (1743354420, 18881269, 25562), (1752820662, 18983792, 25700), (1762338305, 19086872, 25840),
   (1771907628, 19190512, 25980), (1781528911, 19294715, 26121), (1791202437, 19399483, 26263), (1800928489, 19504820, 26406)]

def exp2Tab6 : List (Nat × Int × Int) :=
  [(1810707353, 19610730, 26549), (1820539314, 19717214, 26693), (1830424663, 19824276, 26838), (1840363688, 19931920, 26984),
   (1850356681, 20040149, 27130), (1860403934, 20148965, 27278), (1870505744, 20258372, 27426), (1880662405, 20368373, 27575),
   (1890874216, 20478971, 27724), (1901141476, 20590170, 27875), (1911464486, 20701972, 28026), (1921843549, 20814382, 28179),
   (1932278970, 20927402, 28332), (1942771053, 21041036, 28485), (1953320108, 21155286, 28640), (1963926443, 21270157, 28796)]

def exp2Tab7 : List (Nat × Int × Int) :=
  [(1974590370, 21385652, 28952), (1985312200, 21501774, 29109), (1996092249, 21618527, 29267), (2006930832, 21735913, 29426),
   (2017828268, 21853937, 29586), (2028784876, 21972602, 29747), (2039800978, 22091911, 29908), (2050876895, 22211868, 30070),
   (2062012954, 22332476, 30234), (2073209480, 22453739, 30398), (2084466803, 22575661, 30563), (2095785251, 22698244, 30729),
   (2107165158, 22821494, 30896), (2118606857, 22945412, 31064), (2130110682, 23070003, 31232), (2141676973, 23195271, 31402)]

/-- Segments of 2^u, midpoint (2i + 1) / 256 (R155). -/
def exp2Tab : List (Nat × Int × Int) :=
  exp2Tab0 ++ exp2Tab1 ++ exp2Tab2 ++ exp2Tab3 ++ exp2Tab4 ++ exp2Tab5 ++ exp2Tab6 ++ exp2Tab7

def log2Tab0 : List (Nat × Int × Int) :=
  [(6039314, 24110226, -46907), (18047761, 23924046, -46185), (29963836, 23740720, -45480), (41788947, 23560183, -44791),
   (53524472, 23382370, -44118), (65171760, 23207221, -43459), (76732128, 23034677, -42815), (88206862, 22864679, -42186),
   (99597222, 22697172, -41570), (110904440, 22532102, -40967), (122129721, 22369415, -40378), (133274244, 22209061, -39801),
   (144339162, 22050989, -39237), (155325606, 21895152, -38684), (166234679, 21741502, -38143), (177067464, 21589993, -37613)]

def log2Tab1 : List (Nat × Int × Int) :=
  [(187825021, 21440581, -37094), (198508388, 21293223, -36586), (209118580, 21147877, -36089), (219656594, 21004502, -35601),
   (230123404, 20863057, -35123), (240519966, 20723505, -34655), (250847218, 20585807, -34196), (261106077, 20449927, -33746),
   (271297442, 20315830, -33305), (281422197, 20183479, -32872), (291481207, 20052841, -32448), (301475319, 19923884, -32032),
   (311405366, 19796575, -31624), (321272163, 19670883, -31224), (331076513, 19546776, -30831), (340819199, 19424226, -30445)]

def log2Tab2 : List (Nat × Int × Int) :=
  [(350500993, 19303203, -30067), (360122651, 19183678, -29696), (369684916, 19065625, -29332), (379188517, 18949015, -28974),
   (388634168, 18833824, -28623), (398022572, 18720024, -28278), (407354420, 18607592, -27939), (416630388, 18496502, -27607),
   (425851141, 18386730, -27280), (435017334, 18278254, -26959), (444129607, 18171050, -26644), (453188592, 18065096, -26334),
   (462194908, 17960371, -26030), (471149164, 17856853, -25730), (480051959, 17754522, -25436), (488903880, 17653356, -25147)]

def log2Tab3 : List (Nat × Int × Int) :=
  [(497705506, 17553337, -24863), (506457405, 17454445, -24584), (515160136, 17356661, -24309), (523814248, 17259967, -24039),
   (532420281, 17164344, -23773), (540978767, 17069774, -23512), (549490228, 16976241, -23255), (557955178, 16883728, -23002),
   (566374123, 16792217, -22754), (574747559, 16701693, -22509), (583075977, 16612139, -22268), (591359858, 16523541, -22031),
   (599599675, 16435883, -21798), (607795895, 16349150, -21569), (615948977, 16263328, -21343), (624059373, 16178402, -21121)]

def log2Tab4 : List (Nat × Int × Int) :=
  [(632127527, 16094358, -20902), (640153876, 16011184, -20686), (648138853, 15928864, -20474), (656082880, 15847386, -20265),
   (663986377, 15766738, -20059), (671849754, 15686906, -19857), (679673418, 15607879, -19657), (687457766, 15529644, -19461),
   (695203192, 15452190, -19267), (702910083, 15375504, -19076), (710578822, 15299575, -18888), (718209783, 15224393, -18703),
   (725803337, 15149946, -18521), (733359850, 15076224, -18341), (740879680, 15003216, -18164), (748363183, 14930911, -17989)]

def log2Tab5 : List (Nat × Int × Int) :=
  [(755810707, 14859300, -17817), (763222597, 14788372, -17647), (770599192, 14718119, -17480), (777940826, 14648530, -17315),
   (785247830, 14579595, -17152), (792520529, 14511307, -16992), (799759243, 14443655, -16834), (806964289, 14376631, -16678),
   (814135978, 14310226, -16525), (821274617, 14244432, -16373), (828380510, 14179240, -16223), (835453956, 14114642, -16076),
   (842495250, 14050630, -15930), (849504683, 13987196, -15787), (856482542, 13924333, -15645), (863429109, 13862031, -15506)]

def log2Tab6 : List (Nat × Int × Int) :=
  [(870344666, 13800285, -15368), (877229486, 13739087, -15232), (884083842, 13678428, -15098), (890908003, 13618303, -14965),
   (897702233, 13558705, -14834), (904466794, 13499625, -14705), (911201944, 13441059, -14578), (917907937, 13382998, -14452),
   (924585025, 13325437, -14328), (931233456, 13268368, -14206), (937853475, 13211787, -14085), (944445323, 13155686, -13966),
   (951009239, 13100059, -13848), (957545460, 13044901, -13731), (964054218, 12990205, -13617), (970535742, 12935967, -13503)]

def log2Tab7 : List (Nat × Int × Int) :=
  [(976990259, 12882179, -13391), (983417995, 12828836, -13280), (989819169, 12775934, -13171), (996194001, 12723466, -13063),
   (1002542707, 12671427, -12956), (1008865499, 12619813, -12851), (1015162589, 12568617, -12747), (1021434185, 12517834, -12644),
   (1027680492, 12467461, -12543), (1033901713, 12417491, -12442), (1040098049, 12367920, -12343), (1046269699, 12318744, -12245),
   (1052416858, 12269956, -12148), (1058539720, 12221554, -12053), (1064638476, 12173532, -11958), (1070713315, 12125887, -11865)]

/-- Segments of log2 u, midpoint 1 + (2i + 1) / 256 (R155). -/
def log2Tab : List (Nat × Int × Int) :=
  log2Tab0 ++ log2Tab1 ++ log2Tab2 ++ log2Tab3 ++ log2Tab4 ++ log2Tab5 ++ log2Tab6 ++ log2Tab7

/-- Nearest integer to sqrt(n / d), ties away from zero. -/
def nearSqrt (n d : Nat) : Nat := (isqrt (4 * n / d) + 1) / 2

/-- Nearest integer to n / d, ties away from zero. -/
def nearDiv (n d : Nat) : Nat := (2 * n + d) / (2 * d)

/-- Coefficients of 1/u at the midpoint (257 + 2i) / 256 (R155). -/
def rcpRow (i : Nat) : Nat × Int × Int :=
  let c := 257 + 2 * i
  (nearDiv (2 ^ 38) c, -(nearDiv (2 ^ 40) (c * c) : Int), nearDiv (2 ^ 40) (c * c * c))

/-- Coefficients of u^(-1/2) at the midpoint c / 2^b (R155): u^(-1/2), -(1/2) u^(-3/2), (3/8) u^(-5/2). -/
def rsqRow (c b : Nat) : Nat × Int × Int :=
  (nearSqrt (2 ^ (60 + b)) c, -(nearSqrt (2 ^ (46 + 3 * b)) (c * c * c) : Int), nearSqrt (9 * 2 ^ (26 + 5 * b)) (c * c * c * c * c))

/-- The evaluation of R155: `d` counts 2^-40, the result counts 2^-32. -/
def evalRow (r : Nat × Int × Int) (d : Int) : Int :=
  let q := (r.2.1 * 2 ^ 32 + r.2.2 * d) / 2 ^ 30
  ((r.1 : Int) * 2 ^ 36 + q * d) / 2 ^ 34

/-- A non-zero finite magnitude as u × 2^E with u in [1, 2), u counting 2^-40; f32 has 23 fraction bits (R155). -/
def normalise (m : Nat) (e : Int) : Nat × Int :=
  let l := m.log2
  (if l ≤ 40 then m * 2 ^ (40 - l) else m / 2 ^ (l - 40), e + l)

/-- Value of a polynomial result: P × 2^k, or zero. -/
def polyVal (s : Bool) (p : Int) (k : Int) : Exact := exactOf (if s then -p else p) (k - 32) s

def oneAt (s : Bool) (k : Int) : Exact := .num s { n := 1, e := k }

/-- Value before the final rounding, whether the polynomial was used, and NV, DZ (R155, R156). -/
def rcpExact (v : Val) : Exact × Bool × FF :=
  match v with
  | .nan s q fr w => (.nan s fr w, false, { nv := !q })
  | .inf s => (.zero s, false, {})
  | .fin s m e =>
    if m = 0 then (.inf s, false, { dz := true })
    else
      let (u, k) := normalise m e
      if u = 2 ^ 40 then (oneAt s (-k), false, {})
      else
        let i := (u - 2 ^ 40) / 2 ^ 33
        (polyVal s (evalRow (rcpRow i) ((u : Int) - (257 + 2 * i) * 2 ^ 32)) (-k), true, {})

def rsqExact (v : Val) : Exact × Bool × FF :=
  match v with
  | .nan s q fr w => (.nan s fr w, false, { nv := !q })
  | .inf false => (.zero false, false, {})
  | .inf true => (.defNaN, false, { nv := true })
  | .fin s m e =>
    if m = 0 then (.inf s, false, { dz := true })
    else if s then (.defNaN, false, { nv := true })
    else
      let (u, k) := normalise m e
      if k % 2 = 0 then
        if u = 2 ^ 40 then (oneAt false (-(k / 2)), false, {})
        else
          let i := (u - 2 ^ 40) / 2 ^ 33
          (polyVal false (evalRow (rsqRow (257 + 2 * i) 8) ((u : Int) - (257 + 2 * i) * 2 ^ 32)) (-(k / 2)), true, {})
      else
        let u := 2 * u
        let i := (u - 2 ^ 41) / 2 ^ 34
        (polyVal false (evalRow (rsqRow (257 + 2 * i) 7) ((u : Int) - (257 + 2 * i) * 2 ^ 33)) (-(k / 2)), true, {})

/-- An exponent no f32 result reaches in either direction stands for every larger one. -/
def boundExp (n : Int) : Int := max (-1000) (min 1000 n)

def exp2Exact (v : Val) : Exact × Bool × FF :=
  match v with
  | .nan s q fr w => (.nan s fr w, false, { nv := !q })
  | .inf s => (if s then .zero false else .inf false, false, {})
  | .fin s m e =>
    let x := signed s m
    -- floor(x × 2^40), the multiple of 2^-40 taken toward -∞
    let y : Int := if 0 ≤ e + 40 then x * 2 ^ (e + 40).toNat else x / 2 ^ (-(e + 40)).toNat
    let n := y / 2 ^ 40
    let u := y % 2 ^ 40
    if u = 0 then (oneAt false (boundExp n), false, {})
    else
      let i := (u / 2 ^ 33).toNat
      (polyVal false (evalRow (exp2Tab.getD i (0, 0, 0)) (u - (2 * i + 1) * 2 ^ 32)) (boundExp n), true, {})

/-- `flog2` (R155): the logarithm of 1 is +0 (log 114). -/
def log2Exact (v : Val) : Exact × Bool × FF :=
  match v with
  | .nan s q fr w => (.nan s fr w, false, { nv := !q })
  | .inf s => if s then (.defNaN, false, { nv := true }) else (.inf false, false, {})
  | .fin s m e =>
    if m = 0 then (.inf true, false, { dz := true })
    else if s then (.defNaN, false, { nv := true })
    else
      let (u, k) := normalise m e
      if u = 2 ^ 40 then (exactOf k 0 false, false, {})
      else
        let i := (u - 2 ^ 40) / 2 ^ 33
        let p := evalRow (log2Tab.getD i (0, 0, 0)) ((u : Int) - (257 + 2 * i) * 2 ^ 32)
        (exactOf (k * 2 ^ 32 + p) (-32) false, true, {})

/-- R156 and R157: rounded to f32 to nearest, then converted to the argument's type to nearest. -/
def frozen (t : ETy) (f : Val → Exact × Bool × FF) (v : Val) (scale : Int) (clamp : Bool) : Nat × FF :=
  let y := f v
  let r := destFloat (FFmt.of .f32) y.1 scale clamp .even
  let fl := (y.2.2.or r.2).or { nx := y.2.1 }
  if t = .f32 then (r.1, fl)
  else
    let r2 := destFloat (FFmt.of t) ((FFmt.of .f32).read r.1).exact 0 clamp .even
    (r2.1, fl.or r2.2)

end Sys2Proof.Machine
end

