-- ==== Sys2Proof/Machine/Alu.lean ====
section
/-! DEFINITION. The integer operations of class 0x0 as functions of register contents (R111 to R115). -/

namespace Sys2Proof.Machine

/-- Result of width N written to a 64-bit register: sign-extended for iN, zero-extended for nN (R111). -/
def extendTo (t : ETy) (y : Nat) : Word :=
  if t.isSigned then BitVec.ofInt 64 (signedOf t.width y) else BitVec.ofNat 64 (y % 2 ^ t.width)

/-- An exact integer result, wrapped or saturated, then extended (R111). -/
def intResult (t : ETy) (clamp : Bool) (y : Int) : Word := extendTo t (finishInt t clamp y)

/-- The exact operand reading of R111. -/
def operand (t : ETy) (x : Word) : Int := readInt t x.toNat

def aluAdd (t : ETy) (clamp : Bool) (x y : Word) : Word := intResult t clamp (operand t x + operand t y)
def aluSub (t : ETy) (clamp : Bool) (x y : Word) : Word := intResult t clamp (operand t x - operand t y)
def aluMul (t : ETy) (clamp : Bool) (x y : Word) : Word := intResult t clamp (operand t x * operand t y)

/-- `mulh`: signed high half, floor; `mulhu`: unsigned (R112). -/
def aluMulh (t : ETy) (signed : Bool) (x y : Word) : Word :=
  let n := t.width
  if signed then intResult t false (signedOf n x.toNat * signedOf n y.toNat / 2 ^ n)
  else extendTo t (x.toNat % 2 ^ n * (y.toNat % 2 ^ n) / 2 ^ n)

/-- `Div` of R113: quotient and remainder as N-bit patterns. -/
def divPair (n : Nat) (signed clamp : Bool) (x y : Nat) : Nat × Nat :=
  if y % 2 ^ n = 0 then (2 ^ n - 1, x % 2 ^ n)
  else if signed then
    let a := signedOf n x
    let b := signedOf n y
    if a = -2 ^ (n - 1) ∧ b = -1 then ((if clamp then 2 ^ (n - 1) - 1 else 2 ^ (n - 1)), 0)
    else
      let q := a.tdiv b
      (wrapInt n q, wrapInt n (a - q * b))
  else (x % 2 ^ n / (y % 2 ^ n), x % 2 ^ n % (y % 2 ^ n))

/-- `div` reads its operands as S(), but under the clamp bit as the type says (R111); `divu` as U(). -/
def aluDiv (t : ETy) (signed clamp : Bool) (x y : Word) : Word :=
  extendTo t (divPair t.width (signed && (!clamp || t.isSigned)) clamp x.toNat y.toNat).1

def aluRem (t : ETy) (signed : Bool) (x y : Word) : Word :=
  extendTo t (divPair t.width signed false x.toNat y.toNat).2

def aluAnd (t : ETy) (x y : Word) : Word := extendTo t (x &&& y).toNat
def aluOr (t : ETy) (x y : Word) : Word := extendTo t (x ||| y).toNat
def aluXor (t : ETy) (x y : Word) : Word := extendTo t (x ^^^ y).toNat
def aluAndn (t : ETy) (x y : Word) : Word := extendTo t (x &&& ~~~y).toNat

/-- Shift count: bits [5:0] (R113). -/
def shiftCount (y : Word) : Nat := y.toNat % 64

def shlBits (t : ETy) (clamp : Bool) (x s : Nat) : Nat := finishInt t clamp (readInt t x * 2 ^ s)
def shrBits (n x s : Nat) : Nat := if n ≤ s then 0 else x % 2 ^ n / 2 ^ s
def sarBits (n x s : Nat) : Nat :=
  if n ≤ s then (if signedOf n x < 0 then 2 ^ n - 1 else 0) else wrapInt n (signedOf n x / 2 ^ s)

def aluShl (t : ETy) (clamp : Bool) (x : Word) (s : Nat) : Word := extendTo t (shlBits t clamp x.toNat s)
def aluShr (t : ETy) (x : Word) (s : Nat) : Word := extendTo t (shrBits t.width x.toNat s)
def aluSar (t : ETy) (x : Word) (s : Nat) : Word := extendTo t (sarBits t.width x.toNat s)

def aluRol (t : ETy) (x : Word) (s : Nat) : Word :=
  let n := t.width
  let u := x.toNat % 2 ^ n
  let s' := s % n
  extendTo t ((u * 2 ^ s' ||| u / 2 ^ (n - s')) % 2 ^ n)

/-- `min`, `max` in the signed reading and `minu`, `maxu` in the unsigned one (R112). -/
def aluMinMax (t : ETy) (signed greater : Bool) (x y : Word) : Word :=
  let n := t.width
  let a : Int := if signed then signedOf n x.toNat else (x.toNat % 2 ^ n : Nat)
  let b : Int := if signed then signedOf n y.toNat else (y.toNat % 2 ^ n : Nat)
  intResult t false (if greater then max a b else min a b)

def aluCset (t : ETy) (c : Cond) (x y : Word) : Word := if icond c t.width x.toNat y.toNat then 1 else 0

/-- Position and length of `bext` and `bins` (R113). -/
def fieldPos (y : Word) : Nat := y.toNat % 64
def fieldLen (y : Word) : Nat := min (y.toNat / 256 % 128) (64 - fieldPos y)

def aluBext (t : ETy) (x y : Word) : Word :=
  let l := fieldLen y
  if l = 0 then 0
  else
    let f := x.toNat / 2 ^ fieldPos y % 2 ^ l
    if t.isSigned then BitVec.ofInt 64 (signedOf l f) else BitVec.ofNat 64 f

def aluBins (old x y : Word) : Word :=
  let p := fieldPos y
  let l := fieldLen y
  let mask : Word := BitVec.ofNat 64 ((2 ^ l - 1) * 2 ^ p)
  (old &&& ~~~mask) ||| (BitVec.ofNat 64 (x.toNat % 2 ^ l * 2 ^ p))

/-- Zero bits above the highest one bit. -/
def clzBits (n x : Nat) : Nat := if x % 2 ^ n = 0 then n else n - 1 - (x % 2 ^ n).log2

def ctzFrom (x : Nat) : Nat → Nat → Nat
  | 0, i => i
  | k + 1, i => if x.testBit i then i else ctzFrom x k (i + 1)

def popFrom (x : Nat) : Nat → Nat
  | 0 => 0
  | k + 1 => (x.testBit k).toNat + popFrom x k

/-- Bits 0 to k-1 of `x`, reversed within `n`. -/
def revFrom (n x : Nat) : Nat → Nat
  | 0 => 0
  | k + 1 => (x.testBit k).toNat * 2 ^ (n - 1 - k) + revFrom n x k

def aluClz (t : ETy) (x : Word) : Word := BitVec.ofNat 64 (clzBits t.width x.toNat)
def aluCtz (t : ETy) (x : Word) : Word := BitVec.ofNat 64 (ctzFrom x.toNat t.width 0)
def aluPopc (t : ETy) (x : Word) : Word := BitVec.ofNat 64 (popFrom x.toNat t.width)
def aluBrev (t : ETy) (x : Word) : Word := extendTo t (revFrom t.width x.toNat t.width)

/-- Format I immediates (R91): sign-extended, zero-extended. -/
def immS (i : BitVec 32) : Word := i.signExtend 64
def immZ (i : BitVec 32) : Word := i.zeroExtend 64

end Sys2Proof.Machine
end

