-- ==== Sys2Proof/Machine/Scalar.lean ====
section
/-! DEFINITION. Class 0x0: integer and address instructions (R111 to R115). None raises a fault or touches the flags. -/

namespace Sys2Proof.Machine

/-- Write g[d] and go on (R112). -/
def State.putG (s : State) (d : Reg) (v : Word) (words : Nat := 1) : State := (s.writeG d v).retire words

/-- `add` (R112). -/
def execAdd (o : OpA) (s : State) : Out :=
  .next (s.putG o.d (aluAdd o.ty o.clamp (s.readG o.a) (s.readG o.b)))

/-- `sub` (R112). -/
def execSub (o : OpA) (s : State) : Out :=
  .next (s.putG o.d (aluSub o.ty o.clamp (s.readG o.a) (s.readG o.b)))

/-- `mul` (R112). -/
def execMul (o : OpA) (s : State) : Out :=
  .next (s.putG o.d (aluMul o.ty o.clamp (s.readG o.a) (s.readG o.b)))

/-- `mulh` (R112). -/
def execMulh (o : OpA) (s : State) : Out :=
  .next (s.putG o.d (aluMulh o.ty true (s.readG o.a) (s.readG o.b)))

/-- `mulhu` (R112). -/
def execMulhu (o : OpA) (s : State) : Out :=
  .next (s.putG o.d (aluMulh o.ty false (s.readG o.a) (s.readG o.b)))

/-- `div` (R112, R113). -/
def execDiv (o : OpA) (s : State) : Out :=
  .next (s.putG o.d (aluDiv o.ty true o.clamp (s.readG o.a) (s.readG o.b)))

/-- `divu` (R112, R113). -/
def execDivu (o : OpA) (s : State) : Out :=
  .next (s.putG o.d (aluDiv o.ty false false (s.readG o.a) (s.readG o.b)))

/-- `rem` (R112, R113). -/
def execRem (o : OpA) (s : State) : Out :=
  .next (s.putG o.d (aluRem o.ty true (s.readG o.a) (s.readG o.b)))

/-- `remu` (R112, R113). -/
def execRemu (o : OpA) (s : State) : Out :=
  .next (s.putG o.d (aluRem o.ty false (s.readG o.a) (s.readG o.b)))

/-- `and` (R112). -/
def execAnd (o : OpA) (s : State) : Out :=
  .next (s.putG o.d (aluAnd o.ty (s.readG o.a) (s.readG o.b)))

/-- `or` (R112). -/
def execOr (o : OpA) (s : State) : Out :=
  .next (s.putG o.d (aluOr o.ty (s.readG o.a) (s.readG o.b)))

/-- `xor` (R112). -/
def execXor (o : OpA) (s : State) : Out :=
  .next (s.putG o.d (aluXor o.ty (s.readG o.a) (s.readG o.b)))

/-- `andn` (R112). -/
def execAndn (o : OpA) (s : State) : Out :=
  .next (s.putG o.d (aluAndn o.ty (s.readG o.a) (s.readG o.b)))

/-- `shl` (R113). -/
def execShl (o : OpA) (s : State) : Out :=
  .next (s.putG o.d (aluShl o.ty o.clamp (s.readG o.a) (shiftCount (s.readG o.b))))

/-- `shr` (R113). -/
def execShr (o : OpA) (s : State) : Out :=
  .next (s.putG o.d (aluShr o.ty (s.readG o.a) (shiftCount (s.readG o.b))))

/-- `sar` (R113). -/
def execSar (o : OpA) (s : State) : Out :=
  .next (s.putG o.d (aluSar o.ty (s.readG o.a) (shiftCount (s.readG o.b))))

/-- `rol` (R113). -/
def execRol (o : OpA) (s : State) : Out :=
  .next (s.putG o.d (aluRol o.ty (s.readG o.a) (shiftCount (s.readG o.b))))

/-- `min` (R112). -/
def execMin (o : OpA) (s : State) : Out :=
  .next (s.putG o.d (aluMinMax o.ty true false (s.readG o.a) (s.readG o.b)))

/-- `max` (R112). -/
def execMax (o : OpA) (s : State) : Out :=
  .next (s.putG o.d (aluMinMax o.ty true true (s.readG o.a) (s.readG o.b)))

/-- `minu` (R112). -/
def execMinu (o : OpA) (s : State) : Out :=
  .next (s.putG o.d (aluMinMax o.ty false false (s.readG o.a) (s.readG o.b)))

/-- `maxu` (R112). -/
def execMaxu (o : OpA) (s : State) : Out :=
  .next (s.putG o.d (aluMinMax o.ty false true (s.readG o.a) (s.readG o.b)))

/-- `cset` (R112). -/
def execCset (c : Cond) (o : OpA) (s : State) : Out :=
  .next (s.putG o.d (aluCset o.ty c (s.readG o.a) (s.readG o.b)))

/-- `sel` (R112). -/
def execSel (o : OpA) (s : State) : Out :=
  .next (s.putG o.d (if s.readG o.c ≠ 0 then s.readG o.a else s.readG o.b))

/-- `bext` (R113). -/
def execBext (o : OpA) (s : State) : Out :=
  .next (s.putG o.d (aluBext o.ty (s.readG o.a) (s.readG o.b)))

/-- `bins` (R113): reads its destination. -/
def execBins (o : OpA) (s : State) : Out :=
  .next (s.putG o.d (aluBins (s.readG o.d) (s.readG o.a) (s.readG o.b)))

/-- `clz` (R113). -/
def execClz (o : OpA) (s : State) : Out :=
  .next (s.putG o.d (aluClz o.ty (s.readG o.a)))

/-- `ctz` (R113). -/
def execCtz (o : OpA) (s : State) : Out :=
  .next (s.putG o.d (aluCtz o.ty (s.readG o.a)))

/-- `popc` (R113). -/
def execPopc (o : OpA) (s : State) : Out :=
  .next (s.putG o.d (aluPopc o.ty (s.readG o.a)))

/-- `brev` (R113). -/
def execBrev (o : OpA) (s : State) : Out :=
  .next (s.putG o.d (aluBrev o.ty (s.readG o.a)))

/-- `addi` (R114). -/
def execAddi (o : OpI) (s : State) : Out :=
  .next (s.putG o.d (aluAdd o.ty false (s.readG o.a) (immS o.imm)))

/-- `subi` (R114). -/
def execSubi (o : OpI) (s : State) : Out :=
  .next (s.putG o.d (aluSub o.ty false (s.readG o.a) (immS o.imm)))

/-- `muli` (R114). -/
def execMuli (o : OpI) (s : State) : Out :=
  .next (s.putG o.d (aluMul o.ty false (s.readG o.a) (immS o.imm)))

/-- `andi` (R114). -/
def execAndi (o : OpI) (s : State) : Out :=
  .next (s.putG o.d (aluAnd o.ty (s.readG o.a) (immZ o.imm)))

/-- `ori` (R114). -/
def execOri (o : OpI) (s : State) : Out :=
  .next (s.putG o.d (aluOr o.ty (s.readG o.a) (immZ o.imm)))

/-- `xori` (R114). -/
def execXori (o : OpI) (s : State) : Out :=
  .next (s.putG o.d (aluXor o.ty (s.readG o.a) (immZ o.imm)))

/-- `shli` (R114). -/
def execShli (o : OpI) (s : State) : Out :=
  .next (s.putG o.d (aluShl o.ty false (s.readG o.a) (shiftCount (immZ o.imm))))

/-- `shri` (R114). -/
def execShri (o : OpI) (s : State) : Out :=
  .next (s.putG o.d (aluShr o.ty (s.readG o.a) (shiftCount (immZ o.imm))))

/-- `sari` (R114). -/
def execSari (o : OpI) (s : State) : Out :=
  .next (s.putG o.d (aluSar o.ty (s.readG o.a) (shiftCount (immZ o.imm))))

/-- `cseti` (R114). -/
def execCseti (c : Cond) (o : OpI) (s : State) : Out :=
  .next (s.putG o.d (aluCset o.ty c (s.readG o.a) (immS o.imm)))

/-- `movi` (R114). -/
def execMovi (o : OpI) (s : State) : Out :=
  .next (s.putG o.d (intResult o.ty false (operand o.ty (immS o.imm))))

/-- `movl` (R115). -/
def execMovl (o : OpX) (s : State) : Out :=
  .next (s.putG o.d (o.imm) 2)

/-- `addl` (R115). -/
def execAddl (o : OpX) (s : State) : Out :=
  .next (s.putG o.d (s.readG o.a + o.imm) 2)

/-- `andl` (R115). -/
def execAndl (o : OpX) (s : State) : Out :=
  .next (s.putG o.d (s.readG o.a &&& o.imm) 2)

/-- `orl` (R115). -/
def execOrl (o : OpX) (s : State) : Out :=
  .next (s.putG o.d (s.readG o.a ||| o.imm) 2)

end Sys2Proof.Machine
end

