-- ==== Sys2Proof/Machine/Float.lean ====
section
/-! DEFINITION. Class 0x2: scalar float (R163 to R170). A result's flags are OR-ed into `fflags` (R184). -/

namespace Sys2Proof.Machine

/-- The rounding mode: the field, or `rmode` when it is 0 (R143, R163). -/
def State.mode (s : State) (rnd : BitVec 3) : RMode :=
  RMode.ofCode (if rnd = 0 then s.me.rmode.toNat % 8 else rnd.toNat)

/-- The operand of a scalar float instruction, after modifiers (R164). -/
def State.fsrc (s : State) (t : ETy) (r : Reg) (m : BitVec 2) : Val := srcVal t (s.readG r).toNat m

/-- Write a scalar float or converted integer result with its flags (R164). -/
def State.putF (s : State) (d : Reg) (t : ETy) (r : Nat × FF) : State :=
  ((s.writeG d (extendTo t r.1)).setFlags r.2.word).retire 1

/-- A result through R89, for the scalar float arithmetic. -/
def State.arithF (s : State) (o : OpA) (y : Exact × FF) : State :=
  s.putF o.d o.ty (dest o.ty y (scaleOf o.scale) o.clamp (s.mode o.rnd))

/-- `fadd` (R165). -/
def execFadd (o : OpA) (s : State) : Out :=
  .next (s.arithF o (addExact (s.mode o.rnd) (s.fsrc o.ty o.a o.ma) (s.fsrc o.ty o.b o.mb)))

/-- `fsub` (R165). -/
def execFsub (o : OpA) (s : State) : Out :=
  .next (s.arithF o (subExact (s.mode o.rnd) (s.fsrc o.ty o.a o.ma) (s.fsrc o.ty o.b o.mb)))

/-- `fmul` (R165). -/
def execFmul (o : OpA) (s : State) : Out :=
  .next (s.arithF o (mulExact (s.fsrc o.ty o.a o.ma) (s.fsrc o.ty o.b o.mb)))

/-- `fdiv` (R165). -/
def execFdiv (o : OpA) (s : State) : Out :=
  .next (s.arithF o (divExact (s.fsrc o.ty o.a o.ma) (s.fsrc o.ty o.b o.mb)))

/-- `fsqrt` (R165, R184). -/
def execFsqrt (o : OpA) (s : State) : Out :=
  let r := dest o.ty (sqrtExact (s.fsrc o.ty o.a o.ma)) (scaleOf o.scale) o.clamp (s.mode o.rnd)
  .next (s.putF o.d o.ty (r.1, r.2.only true))

/-- `ffma` (R165). -/
def execFfma (o : OpA) (s : State) : Out :=
  .next (s.arithF o (fmaExact (s.mode o.rnd) (s.fsrc o.ty o.a o.ma) (s.fsrc o.ty o.b o.mb) (s.fsrc o.ty o.c o.mc) false))

/-- `ffms` (R165). -/
def execFfms (o : OpA) (s : State) : Out :=
  .next (s.arithF o (fmaExact (s.mode o.rnd) (s.fsrc o.ty o.a o.ma) (s.fsrc o.ty o.b o.mb) (s.fsrc o.ty o.c o.mc) true))

/-- `fmin` (R166). -/
def execFmin (o : OpA) (s : State) : Out :=
  .next (s.putF o.d o.ty (dest o.ty (minMax false (s.fsrc o.ty o.a o.ma) (s.fsrc o.ty o.b o.mb)) 0 false .even))

/-- `fmax` (R166). -/
def execFmax (o : OpA) (s : State) : Out :=
  .next (s.putF o.d o.ty (dest o.ty (minMax true (s.fsrc o.ty o.a o.ma) (s.fsrc o.ty o.b o.mb)) 0 false .even))

/-- `fcset` (R167). -/
def execFcset (c : Cond) (o : OpA) (s : State) : Out :=
  let r := fcond c (s.fsrc o.ty o.a o.ma) (s.fsrc o.ty o.b o.mb)
  .next (((s.writeG o.d (if r.1 then 1 else 0)).setFlags r.2.word).retire 1)

/-- `fcvt` (R168). -/
def execFcvt (src : ETy) (o : OpA) (s : State) : Out :=
  .next (s.putF o.d o.ty (convert o.ty src (s.fsrc src o.a o.ma) (scaleOf o.scale) o.clamp (s.mode o.rnd)))

/-- `frcp` (R155 to R157). -/
def execFrcp (o : OpA) (s : State) : Out :=
  .next (s.putF o.d o.ty (frozen o.ty rcpExact (s.fsrc o.ty o.a o.ma) (scaleOf o.scale) o.clamp))

/-- `frsq` (R155 to R157). -/
def execFrsq (o : OpA) (s : State) : Out :=
  .next (s.putF o.d o.ty (frozen o.ty rsqExact (s.fsrc o.ty o.a o.ma) (scaleOf o.scale) o.clamp))

/-- `fexp2` (R155 to R157). -/
def execFexp2 (o : OpA) (s : State) : Out :=
  .next (s.putF o.d o.ty (frozen o.ty exp2Exact (s.fsrc o.ty o.a o.ma) (scaleOf o.scale) o.clamp))

/-- `flog2` (R155 to R157). -/
def execFlog2 (o : OpA) (s : State) : Out :=
  .next (s.putF o.d o.ty (frozen o.ty log2Exact (s.fsrc o.ty o.a o.ma) (scaleOf o.scale) o.clamp))

/-- `fclass` (R169). -/
def execFclass (o : OpA) (s : State) : Out :=
  .next (s.putG o.d (BitVec.ofNat 64 (2 ^ classOf (FFmt.of o.ty) (s.fsrc o.ty o.a o.ma))))

/-- `fround` (R170). -/
def execFround (o : OpA) (s : State) : Out :=
  .next (s.putF o.d o.ty (roundIntegral (FFmt.of o.ty) (s.fsrc o.ty o.a o.ma) (s.mode o.rnd)))

end Sys2Proof.Machine
end

