-- ==== Sys2Proof/Machine/Vector.lean ====
section
/-! DEFINITION. Vector lanes (R158, R159) and class 0x3: vector arithmetic and selection (R171 to R176). -/

namespace Sys2Proof.Machine

/-- Lane j of width w (R158). -/
def laneOf (w : Nat) (v : Line) (j : Nat) : Nat := v.toNat / 2 ^ (w * j) % 2 ^ w

/-- Lanes from lane 0 up, as one number. -/
def packLanes (w : Nat) : List Nat → Nat
  | [] => 0
  | x :: xs => x % 2 ^ w + 2 ^ w * packLanes w xs

def ofLanes (w : Nat) (xs : List Nat) : Line := BitVec.ofNat 512 (packLanes w xs)

def lanesOf (w : Nat) (v : Line) : List Nat := (List.range (512 / w)).map (laneOf w v)

def orFlags (fs : List FF) : FF := fs.foldr FF.or {}

/-- An element-wise instruction (R171): enabled lanes get `f j`, the others keep `old`; flags of enabled lanes. -/
def vecMap (w : Nat) (mask : Word) (old : Line) (f : Nat → Nat × FF) : Line × FF :=
  let js := List.range (512 / w)
  (ofLanes w (js.map fun j => if mask.getLsbD j then (f j).1 else laneOf w old j),
   orFlags ((js.filter fun j => mask.getLsbD j).map fun j => (f j).2))

/-- Every lane from a function of the lane number. -/
def vecAll (w : Nat) (f : Nat → Nat) : Line := ofLanes w ((List.range (512 / w)).map f)

/-- Write v[d] with the flags of its lanes and go on (R171, R184). -/
def State.putV (s : State) (d : Reg) (r : Line × FF) : State := ((s.writeV d r.1).setFlags r.2.word).retire 1

/-- Source lane j after modifiers (R89). -/
def State.vsrc (s : State) (t : ETy) (r : Reg) (m : BitVec 2) (j : Nat) : Val :=
  srcVal t (laneOf t.width (s.readV r) j) m

/-- The arithmetic forms of R172: an exact lane result through R89. -/
def State.arithV (s : State) (o : OpA) (f : Nat → Exact × FF) : State :=
  s.putV o.d (vecMap o.ty.width (s.readK o.k) (s.readV o.d) fun j =>
    dest o.ty (f j) (scaleOf o.scale) o.clamp (s.mode o.rnd))

/-- Lane results that are bit patterns and set no flags. -/
def State.bitsV (s : State) (o : OpA) (f : Nat → Nat) : State :=
  s.putV o.d (vecMap o.ty.width (s.readK o.k) (s.readV o.d) fun j => (f j, {}))

/-- `vadd` (R172). -/
def execVadd (o : OpA) (s : State) : Out :=
  .next (s.arithV o fun j => addExact (s.mode o.rnd) (s.vsrc o.ty o.a o.ma j) (s.vsrc o.ty o.b o.mb j))

/-- `vsub` (R172). -/
def execVsub (o : OpA) (s : State) : Out :=
  .next (s.arithV o fun j => subExact (s.mode o.rnd) (s.vsrc o.ty o.a o.ma j) (s.vsrc o.ty o.b o.mb j))

/-- `vmul` (R172). -/
def execVmul (o : OpA) (s : State) : Out :=
  .next (s.arithV o fun j => mulExact (s.vsrc o.ty o.a o.ma j) (s.vsrc o.ty o.b o.mb j))

/-- `vmulh` (R173). -/
def execVmulh (o : OpA) (s : State) : Out :=
  .next (s.bitsV o fun j => wrapInt o.ty.width (readInt o.ty (laneOf o.ty.width (s.readV o.a) j) * readInt o.ty (laneOf o.ty.width (s.readV o.b) j) / 2 ^ o.ty.width))

/-- `vfma` (R172). -/
def execVfma (o : OpA) (s : State) : Out :=
  .next (s.arithV o fun j => fmaExact (s.mode o.rnd) (s.vsrc o.ty o.a o.ma j) (s.vsrc o.ty o.b o.mb j) (s.vsrc o.ty o.c o.mc j) false)

/-- `vfms` (R172). -/
def execVfms (o : OpA) (s : State) : Out :=
  .next (s.arithV o fun j => fmaExact (s.mode o.rnd) (s.vsrc o.ty o.a o.ma j) (s.vsrc o.ty o.b o.mb j) (s.vsrc o.ty o.c o.mc j) true)

/-- `vdiv` (R172). -/
def execVdiv (o : OpA) (s : State) : Out :=
  .next (s.arithV o fun j => divExact (s.vsrc o.ty o.a o.ma j) (s.vsrc o.ty o.b o.mb j))

/-- `vsqrt` (R172, R184). -/
def execVsqrt (o : OpA) (s : State) : Out :=
  .next (s.putV o.d (vecMap o.ty.width (s.readK o.k) (s.readV o.d) fun j =>
    let r := dest o.ty (sqrtExact (s.vsrc o.ty o.a o.ma j)) (scaleOf o.scale) o.clamp (s.mode o.rnd)
    (r.1, r.2.only true)))

/-- Lane minimum or maximum (R166). -/
def State.minMaxV (s : State) (o : OpA) (greater : Bool) : State :=
  s.putV o.d (vecMap o.ty.width (s.readK o.k) (s.readV o.d) fun j =>
    dest o.ty (minMax greater (s.vsrc o.ty o.a o.ma j) (s.vsrc o.ty o.b o.mb j)) 0 false .even)

/-- `vmin` (R166). -/
def execVmin (o : OpA) (s : State) : Out :=
  .next (s.minMaxV o false)

/-- `vmax` (R166). -/
def execVmax (o : OpA) (s : State) : Out :=
  .next (s.minMaxV o true)

/-- `vand` (R172). -/
def execVand (o : OpA) (s : State) : Out :=
  .next (s.bitsV o fun j => (laneOf o.ty.width (s.readV o.a) j) &&& (laneOf o.ty.width (s.readV o.b) j))

/-- `vor` (R172). -/
def execVor (o : OpA) (s : State) : Out :=
  .next (s.bitsV o fun j => (laneOf o.ty.width (s.readV o.a) j) ||| (laneOf o.ty.width (s.readV o.b) j))

/-- `vxor` (R172). -/
def execVxor (o : OpA) (s : State) : Out :=
  .next (s.bitsV o fun j => (laneOf o.ty.width (s.readV o.a) j) ^^^ (laneOf o.ty.width (s.readV o.b) j))

/-- `vandn` (R172). -/
def execVandn (o : OpA) (s : State) : Out :=
  .next (s.bitsV o fun j => (laneOf o.ty.width (s.readV o.a) j) &&& (2 ^ o.ty.width - 1 - (laneOf o.ty.width (s.readV o.b) j)))

/-- `vshl` (R173). -/
def execVshl (o : OpA) (s : State) : Out :=
  .next (s.bitsV o fun j => shlBits o.ty o.clamp (laneOf o.ty.width (s.readV o.a) j) ((laneOf o.ty.width (s.readV o.b) j) % 64))

/-- `vshr` (R173). -/
def execVshr (o : OpA) (s : State) : Out :=
  .next (s.bitsV o fun j => shrBits o.ty.width (laneOf o.ty.width (s.readV o.a) j) ((laneOf o.ty.width (s.readV o.b) j) % 64))

/-- `vsar` (R173). -/
def execVsar (o : OpA) (s : State) : Out :=
  .next (s.bitsV o fun j => sarBits o.ty.width (laneOf o.ty.width (s.readV o.a) j) ((laneOf o.ty.width (s.readV o.b) j) % 64))

/-- An integer condition on lanes after modifiers: read as the condition names it, and as the type names it for equality
(R167, R89; log 22). -/
def laneCond (t : ETy) (c : Cond) (ma mb : BitVec 2) (x y : Nat) : Bool :=
  let rd (z : Nat) : Int :=
    if c.isUnsigned then (z % 2 ^ t.width : Nat) else if c = .eq ∨ c = .ne then readInt t z else signedOf t.width z
  let mod (m : BitVec 2) (z : Int) : Int :=
    let z := if m.getLsbD 1 then (z.natAbs : Int) else z
    if m.getLsbD 0 then -z else z
  let a := mod ma (rd x)
  let b := mod mb (rd y)
  match c with
  | .al => true
  | .eq => decide (a = b)
  | .ne => decide (a ≠ b)
  | .lt | .ltu => decide (a < b)
  | .ge | .geu => decide (b ≤ a)
  | .gt | .gtu => decide (b < a)
  | .le | .leu => decide (a ≤ b)

/-- The condition on lane j and its flags (R167). -/
def State.vcond (s : State) (c : Cond) (o : OpA) (j : Nat) : Bool × FF :=
  if o.ty.isFloat then fcond c (s.vsrc o.ty o.a o.ma j) (s.vsrc o.ty o.b o.mb j)
  else (laneCond o.ty c o.ma o.mb (laneOf o.ty.width (s.readV o.a) j) (laneOf o.ty.width (s.readV o.b) j), {})

/-- A mask word from bits of lanes 0 to n-1, the rest zero (R174, R183). -/
def maskOf (n : Nat) (f : Nat → Bool) : Word :=
  BitVec.ofNat 64 (packLanes 1 ((List.range n).map fun j => (f j).toNat))

/-- `vcmp` (R174): the whole of k[d] is written. -/
def execVcmp (c : Cond) (o : OpA) (s : State) : Out :=
  let mask := s.readK o.k
  let fl := orFlags (((List.range o.ty.lanes).filter fun j => mask.getLsbD j).map fun j => (s.vcond c o j).2)
  .next (((s.writeK (regK o.d) (maskOf o.ty.lanes fun j => mask.getLsbD j && (s.vcond c o j).1)).setFlags fl.word).retire 1)

/-- `vsel` (R175): the mask selects. -/
def execVsel (o : OpA) (s : State) : Out :=
  .next (s.putV o.d (vecAll o.ty.width fun j => if (s.readK o.k).getLsbD j then (laneOf o.ty.width (s.readV o.a) j) else (laneOf o.ty.width (s.readV o.b) j), {}))

/-- `vcvt` (R168): `part` pairs the lanes of the wider type with a part of the narrower. -/
def execVcvt (part : BitVec 3) (src : ETy) (o : OpA) (s : State) : Out :=
  let ws := src.width
  let wd := o.ty.width
  let l := 512 / max ws wd
  let p := part.toNat
  let cv (si : Nat) := convert o.ty src (s.vsrc src o.a o.ma si) (scaleOf o.scale) o.clamp (s.mode o.rnd)
  let mask := s.readK o.k
  -- source lane of destination lane j, none outside the range written
  let from_ (j : Nat) : Option Nat :=
    if wd ≤ ws then (if p * l ≤ j ∧ j < p * l + l then some (j - p * l) else none)
    else if j < l then some (p * l + j) else none
  let js := List.range (512 / wd)
  let on (j : Nat) : Bool := mask.getLsbD j && (from_ j).isSome
  .next (s.putV o.d
    (ofLanes wd (js.map fun j => if on j then (cv ((from_ j).getD 0)).1 else laneOf wd (s.readV o.d) j),
     orFlags ((js.filter on).map fun j => (cv ((from_ j).getD 0)).2)))

/-- A frozen function on every lane (R155 to R157). -/
def State.frozenV (s : State) (o : OpA) (g : Val → Exact × Bool × FF) : State :=
  s.putV o.d (vecMap o.ty.width (s.readK o.k) (s.readV o.d) fun j =>
    frozen o.ty g (s.vsrc o.ty o.a o.ma j) (scaleOf o.scale) o.clamp)

/-- `vrcp` (R172). -/
def execVrcp (o : OpA) (s : State) : Out :=
  .next (s.frozenV o rcpExact)

/-- `vrsq` (R172). -/
def execVrsq (o : OpA) (s : State) : Out :=
  .next (s.frozenV o rsqExact)

/-- `vexp2` (R172). -/
def execVexp2 (o : OpA) (s : State) : Out :=
  .next (s.frozenV o exp2Exact)

/-- `vlog2` (R172). -/
def execVlog2 (o : OpA) (s : State) : Out :=
  .next (s.frozenV o log2Exact)

/-- `vbcst` (R176). -/
def execVbcst (o : OpA) (s : State) : Out :=
  .next (s.bitsV o fun _ => (s.readG o.a).toNat % 2 ^ o.ty.width)

/-- Lane value of `vmovi` (R176): widened to 64 bits by sign, by zero, or exactly from f32, a signalling NaN quieted (log 116). -/
def vmoviLane (t : ETy) (imm : BitVec 32) : Nat :=
  match t with
  | .i64 => (imm.signExtend 64).toNat
  | .n64 => imm.toNat
  | .f64 => (convert .f64 .f32 (readVal .f32 imm.toNat) 0 false .even).1
  | t => imm.toNat % 2 ^ t.width

/-- `vmovi` (R176): every lane, no flags. -/
def execVmovi (o : OpI) (s : State) : Out :=
  .next (s.putV o.d (vecAll o.ty.width fun _ => vmoviLane o.ty o.imm, {}))

end Sys2Proof.Machine
end

