-- ==== Sys2Proof/Machine/Lane.lean ====
section
/-! DEFINITION. Class 0x4: lane movement, reductions, codes, bit planes and masks (R177 to R183). -/

namespace Sys2Proof.Machine

/-- Entry n of a core's code table (R151). -/
def Core.codeAt (k : Core) (n : Nat) : Byte := k.code.get (resetCode n) n

/-- Lane i of a, lane i - L of b above it, 0 beyond (R178). -/
def pairLane (w : Nat) (va vb : Line) (i : Nat) : Nat :=
  let l := 512 / w
  if i < l then laneOf w va i else if i < 2 * l then laneOf w vb (i - l) else 0

/-- `vshuf` (R178). -/
def execVshuf (o : OpA) (s : State) : Out :=
  .next (s.bitsV o fun j => pairLane o.ty.width (s.readV o.a) (s.readV o.b) (laneOf o.ty.width (s.readV o.c) j))

/-- `vperm` (R178). -/
def execVperm (m : BitVec 6) (o : OpA) (s : State) : Out :=
  .next (s.bitsV o fun j => laneOf o.ty.width (s.readV o.a) (j ^^^ m.toNat))

/-- `vslide.dn` (R178). -/
def execVslideDn (o : OpA) (s : State) : Out :=
  .next (s.bitsV o fun j => pairLane o.ty.width (s.readV o.a) (s.readV o.b) (j + (s.readG o.c).toNat))

/-- `vslide.up` (R178). -/
def execVslideUp (o : OpA) (s : State) : Out :=
  .next (s.bitsV o fun j =>
    let n := (s.readG o.c).toNat
    if n ≤ j then laneOf o.ty.width (s.readV o.a) (j - n)
    else if n ≤ j + o.ty.lanes then laneOf o.ty.width (s.readV o.b) (o.ty.lanes + j - n) else 0)

/-- Reductions of R153. -/
inductive ROp where
  | add | min | max | and | or | xor
deriving DecidableEq, Repr

/-- The identity a disabled lane enters as (R153). -/
def ROp.identity (op : ROp) (t : ETy) : Nat :=
  match op with
  | .add => if t.isFloat then (FFmt.of t).signBit true else 0
  | .min => if t.isFloat then (if (FFmt.of t).noInf then (FFmt.of t).maxEnc false else (FFmt.of t).infEnc false)
      else wrapInt t.width (intMax t)
  | .max => if t.isFloat then (if (FFmt.of t).noInf then (FFmt.of t).maxEnc true else (FFmt.of t).infEnc true)
      else wrapInt t.width (intMin t)
  | .and => 2 ^ t.width - 1
  | .or | .xor => 0

/-- One node of the tree: one operation of the element type (R153, R179). -/
def ROp.combine (op : ROp) (t : ETy) (clamp : Bool) (mode : RMode) (x y : Nat) : Nat × FF :=
  match op with
  | .add => dest t (addExact mode (readVal t x) (readVal t y)) 0 (clamp && !t.isFloat) mode
  | .min => dest t (minMax false (readVal t x) (readVal t y)) 0 false mode
  | .max => dest t (minMax true (readVal t x) (readVal t y)) 0 false mode
  | .and => (x &&& y, {})
  | .or => (x ||| y, {})
  | .xor => (x ^^^ y, {})

/-- One level of the tree: neighbours combined. -/
def pairUp (f : Nat → Nat → Nat × FF) : List Nat → List Nat × FF
  | x :: y :: r =>
    let z := f x y
    let rest := pairUp f r
    (z.1 :: rest.1, z.2.or rest.2)
  | r => (r, {})

/-- `TreeReduce` of R153 over 2^k lanes. -/
def treeReduce (f : Nat → Nat → Nat × FF) : Nat → List Nat → Nat × FF
  | 0, ws => (ws.headD 0, {})
  | k + 1, ws =>
    let p := pairUp f ws
    let r := treeReduce f k p.1
    (r.1, p.2.or r.2)

/-- `vred` (R179): the root through R89 into lane 0, the other lanes zero; of the flags, those its row of R184 names (log 109). -/
def State.reduce (s : State) (op : ROp) (o : OpA) : State :=
  let t := o.ty
  let mode := s.mode o.rnd
  let mask := s.readK o.k
  let ws := (List.range t.lanes).map fun j => if mask.getLsbD j then laneOf t.width (s.readV o.a) j else op.identity t
  let r := treeReduce (op.combine t o.clamp mode) t.lanes.log2 ws
  let root := convert t t (readVal t r.1) (scaleOf o.scale) o.clamp mode
  let ff := r.2.or root.2
  s.putV o.d (ofLanes t.width [root.1], if op = .min ∨ op = .max then ff.only false else ff)

/-- `vred.add` (R179). -/
def execVredAdd (o : OpA) (s : State) : Out :=
  .next (s.reduce .add o)

/-- `vred.min` (R179). -/
def execVredMin (o : OpA) (s : State) : Out :=
  .next (s.reduce .min o)

/-- `vred.max` (R179). -/
def execVredMax (o : OpA) (s : State) : Out :=
  .next (s.reduce .max o)

/-- `vred.and` (R179). -/
def execVredAnd (o : OpA) (s : State) : Out :=
  .next (s.reduce .and o)

/-- `vred.or` (R179). -/
def execVredOr (o : OpA) (s : State) : Out :=
  .next (s.reduce .or o)

/-- `vred.xor` (R179). -/
def execVredXor (o : OpA) (s : State) : Out :=
  .next (s.reduce .xor o)

/-- `vlut` (R180): code 64h + j through the core's code table. -/
def execVlut (hi : Bool) (o : OpA) (s : State) : Out :=
  .next (s.putV o.d (vecMap 8 (s.readK o.k) (s.readV o.d) fun j =>
    ((s.myCore.codeAt (laneOf 4 (s.readV o.a) (64 * hi.toNat + j))).toNat, {})))

/-- `ctld` (R180, R151): sixteen entries from i8 lanes 0 to 15. -/
def execCtld (o : OpA) (s : State) : Out :=
  .next ((s.modMyCore fun k =>
    { k with code := (List.range 16).map fun n => (n, BitVec.ofNat 8 (laneOf 8 (s.readV o.a) n)) }).retire 1)

/-- `vpack` (R181): 64 bytes into eight planes. -/
def execVpack (o : OpA) (s : State) : Out :=
  .next (s.putV o.d (vecAll 64 fun j =>
    packLanes 1 ((List.range 64).map fun e => laneOf 8 (s.readV o.a) e / 2 ^ (7 - j) % 2), {}))

/-- Byte e read from planes 0 to p-1 (R149, R181), low bits zero. -/
def planeByte (v : Line) (p e : Nat) : Nat :=
  ((List.range p).map fun j => laneOf 64 v j / 2 ^ e % 2 * 2 ^ (7 - j)).sum

/-- Vp of R149: centring adds half the lost step. -/
def centre (ctr : Bool) (p x : Nat) : Nat := if ctr ∧ p ≤ 7 then x + 2 ^ (7 - p) else x

/-- `vunpk` (R181). -/
def execVunpk (ctr : Bool) (planes : BitVec 4) (o : OpA) (s : State) : Out :=
  .next (s.putV o.d (vecMap 8 (s.readK o.k) (s.readV o.d) fun e =>
    (centre ctr planes.toNat (planeByte (s.readV o.a) planes.toNat e), {})))

/-- `vext` (R182). -/
def execVext (o : OpA) (s : State) : Out :=
  let i := (s.readG o.b).toNat
  .next (s.putG o.d (if i < o.ty.lanes then extendTo o.ty (laneOf o.ty.width (s.readV o.a) i) else 0))

/-- `vins` (R182). -/
def execVins (o : OpA) (s : State) : Out :=
  let i := (s.readG o.b).toNat
  .next (if i < o.ty.lanes then
      s.putV o.d (vecAll o.ty.width fun j =>
        if j = i then (s.readG o.a).toNat % 2 ^ o.ty.width else laneOf o.ty.width (s.readV o.d) j, {})
    else s.retire 1)

/-- Lanes of a whose selector bit is set, in order. -/
def State.selected (s : State) (o : OpA) : List Nat :=
  ((List.range o.ty.lanes).filter fun j => (s.readK o.k).getLsbD j).map fun j => laneOf o.ty.width (s.readV o.a) j

/-- `vcompress` (R182). -/
def execVcompress (o : OpA) (s : State) : Out :=
  .next (s.putV o.d (vecAll o.ty.width fun j => (s.selected o).getD j 0, {}))

/-- Selector bits set below j. -/
def countBelow (mask : Word) (j : Nat) : Nat := ((List.range j).filter fun i => mask.getLsbD i).length

/-- `vexpand` (R182). -/
def execVexpand (o : OpA) (s : State) : Out :=
  .next (s.putV o.d (vecAll o.ty.width fun j =>
    if (s.readK o.k).getLsbD j then laneOf o.ty.width (s.readV o.a) (countBelow (s.readK o.k) j) else 0, {}))

/-- Bits [L-1:0] of a word (R183). -/
def lowBits (t : ETy) (x : Word) : Word := BitVec.ofNat 64 (x.toNat % 2 ^ t.lanes)

/-- Write k[d] with bits [63:L] zero (R183). -/
def State.putK (s : State) (o : OpA) (x : Word) : State := (s.writeK (regK o.d) (lowBits o.ty x)).retire 1

/-- `kand` (R183). -/
def execKand (o : OpA) (s : State) : Out :=
  .next (s.putK o (s.readK (regK o.a) &&& s.readK (regK o.b)))

/-- `kor` (R183). -/
def execKor (o : OpA) (s : State) : Out :=
  .next (s.putK o (s.readK (regK o.a) ||| s.readK (regK o.b)))

/-- `kxor` (R183). -/
def execKxor (o : OpA) (s : State) : Out :=
  .next (s.putK o (s.readK (regK o.a) ^^^ s.readK (regK o.b)))

/-- `kandn` (R183). -/
def execKandn (o : OpA) (s : State) : Out :=
  .next (s.putK o (s.readK (regK o.a) &&& ~~~s.readK (regK o.b)))

/-- `knot` (R183). -/
def execKnot (o : OpA) (s : State) : Out :=
  .next (s.putK o (~~~s.readK (regK o.a)))

/-- `kmov kd, ga` (R183). -/
def execKmovKFromG (o : OpA) (s : State) : Out :=
  .next (s.putK o (s.readG o.a))

/-- `kmov gd, ka` (R183). -/
def execKmovGFromK (o : OpA) (s : State) : Out :=
  .next (s.putG o.d (lowBits o.ty (s.readK (regK o.a))))

/-- `kpopc` (R183). -/
def execKpopc (o : OpA) (s : State) : Out :=
  .next (s.putG o.d (BitVec.ofNat 64 (popFrom (s.readK (regK o.a)).toNat o.ty.lanes)))

/-- `kseti` (R183). -/
def execKseti (o : OpI) (s : State) : Out :=
  .next ((s.writeK (regK o.d) (maskOf o.ty.lanes fun j => decide (j < o.imm.toNat))).retire 1)

/-- `vmov` (R177). -/
def execVmov (o : OpA) (s : State) : Out :=
  .next (s.bitsV o fun j => laneOf o.ty.width (s.readV o.a) j)

end Sys2Proof.Machine
end

