-- ==== Sys2Proof/Machine/Operands.lean ====
section
/-! DEFINITION. Operand forms of format M: effective addresses (R93), sizes (R256, R273), replica addresses (R264), and what an
atomic computes (R272, R273, R276). -/

namespace Sys2Proof

def OpM.ety (o : OpM) : ETy := .ofBits o.ty

/-- Index scale (R93). -/
def OpM.factor (o : OpM) : Word :=
  match o.scale.toNat with
  | 0 => 1 | 1 => 4 | 2 => 8 | _ => 64

/-- Bytes of a scalar (R256, R273). -/
def OpM.bytes (o : OpM) : Nat := o.ety.width / 8

/-- Bytes of an access by its shape (R256). -/
def OpM.size (o : OpM) : Nat :=
  match o.shape.toNat with
  | 0 => o.bytes | 1 => 64 | _ => 128

end Sys2Proof

namespace Sys2Proof.Machine

/-- Base plus signed offset. -/
def State.baseAddr (s : State) (o : OpM) : Word := s.readG o.base + o.off.signExtend 64

/-- The effective address (R93). -/
def State.ea (s : State) (o : OpM) : Word := s.baseAddr o + s.readG o.index * o.factor

/-- A scalar's bytes (R261). -/
def scalarBytes (v : Word) (n : Nat) : List Byte := leBytes n (v.toNat % 2 ^ (8 * n))

def lineBytes (l : Line) : List Byte := leBytes 64 l.toNat

/-- Data of a store by its shape (R261, R262). -/
def State.storeData (s : State) (o : OpM) : List Byte :=
  match o.shape.toNat with
  | 0 => scalarBytes (s.readG o.data) o.bytes
  | 1 => lineBytes (s.readV o.data)
  | _ => lineBytes (s.readV o.data) ++ lineBytes (s.readV (o.data + 1))

/-- Address of replica i: the FIELD or the ESTATE replaced (R264). -/
def replica (pkgs : Bool) (a : Word) (i : Nat) : Word :=
  if pkgs then (a &&& ~~~(0x3F#64 <<< 42)) ||| (BitVec.ofNat 64 i <<< 42)
  else (a &&& ~~~(0x7#64 <<< 39)) ||| (BitVec.ofNat 64 i <<< 39)

/-- Bits set in a mask, lowest first. -/
def bitsOf (m : Word) : List Nat := (List.range 64).filter fun i => m.getLsbD i

/-- `Op` of R273 on the old contents: the new bytes, none for a `cas` that does not write, and the flags of a float add or a
signalling NaN (R276). -/
def atomicOp (op : AOp) (t : ETy) (operand compare : Nat) (old : List Byte) : Option (List Byte) × Word :=
  let w := t.width
  let a := leNat old
  let b := operand % 2 ^ w
  let bytes (x : Nat) : List Byte := leBytes (w / 8) (x % 2 ^ w)
  let fl (r : Nat × FF) : Option (List Byte) × Word := (some (bytes r.1), r.2.word)
  match op with
  | .add => if t.isFloat then fl (dest t (addExact .even (readVal t a) (readVal t b)) 0 false .even)
            else (some (bytes (a + b)), 0)
  | .and => (some (bytes (a &&& b)), 0)
  | .or => (some (bytes (a ||| b)), 0)
  | .xor => (some (bytes (a ^^^ b)), 0)
  | .min => if t.isFloat then fl (dest t (minMax false (readVal t a) (readVal t b)) 0 false .even)
            else (some (bytes (if readInt t b < readInt t a then b else a)), 0)
  | .max => if t.isFloat then fl (dest t (minMax true (readVal t a) (readVal t b)) 0 false .even)
            else (some (bytes (if readInt t a < readInt t b then b else a)), 0)
  | .swap => (some (bytes b), 0)
  | .cas => if a = compare % 2 ^ w then (some (bytes b), 0) else (none, 0)

/-- What an access writes over the old contents, with the flags its reply carries: `red` discards them (R272, R276). -/
def writeOf (k : AKind) (old : List Byte) : Option (List Byte) × Word :=
  match k with
  | .amo op t x y => atomicOp op t x y old
  | .red op t x => ((atomicOp op t x 0 old).1, 0)
  | _ => (none, 0)

end Sys2Proof.Machine
end

