-- ==== Sys2Proof/Machine/LoadStore.lean ====
section
/-! DEFINITION. Classes 0x5 and 0x6, and `rld`: what each sends (R255 to R277). -/

namespace Sys2Proof.Machine

def OpM.access (o : OpM) (k : AKind) (a : Word) (size : Nat) (data : List Byte := []) (lane : Nat := 0) : Access :=
  { kind := k, addr := a, size := size, order := o.order, scope := o.scope, stream := o.stream.toNat, data := data, lane := lane }

/-- One access at the effective address; `strict` ones are aligned to their whole size (R256). -/
def State.oneAccess (s : State) (o : OpM) (k : AKind) (a : Word) (size : Nat) (data : List Byte) (d : Dest)
    (strict : Bool) : State :=
  if (strict || o.order != .plain) && !alignedTo a size then s.raise 0x0A { addr := a }
  else s.issueAccesses writeOf [(OpM.access o k a size data, d)]

/-- `ld` (R261). -/
def execLd (o : OpM) (s : State) : Out :=
  .next (s.oneAccess o .load (s.ea o) o.size [] (.g o.data o.ety) false)

/-- `st` (R261). -/
def execSt (o : OpM) (s : State) : Out :=
  .next (s.oneAccess o .store (s.ea o) o.size (s.storeData o) .none false)

def vecDest (o : OpM) : Dest := if o.shape = 1 then .v o.data else .pair o.data

/-- `vld`, one register or a pair (R262). -/
def execVld (o : OpM) (s : State) : Out :=
  .next (s.oneAccess o .load (s.ea o) o.size [] (vecDest o) false)

/-- `vst`, one register or a pair (R262). -/
def execVst (o : OpM) (s : State) : Out :=
  .next (s.oneAccess o .store (s.ea o) o.size (s.storeData o) .none false)

/-- `stm` and `vstm`: every replica checked, then each sent (R264). The scale field holds the kind. -/
def State.multicast (s : State) (o : OpM) : State :=
  let a := s.baseAddr o
  let m := s.readG o.index
  let pkgs := o.scale = 1
  if a.extractLsb' 56 8 ≠ 0xFD ∨ (!pkgs ∧ m.extractLsb' 8 56 ≠ 0) then s.raise 0x06 { addr := a }
  else if o.order ≠ .plain ∧ !alignedTo a o.size then s.raise 0x0A { addr := a }
  else if m = 0 then
    match (if o.order.releases then s.me.failureFor o.stream.toNat else none) with
    | some f => s.deliverFailure f
    | none => s.retire 1
  else s.issueAccesses writeOf ((bitsOf m).map fun j => (OpM.access o .store (replica pkgs a j) o.size (s.storeData o), .none))

/-- `stm` (R264). -/
def execStm (o : OpM) (s : State) : Out := .next (s.multicast o)

/-- `vstm` (R264). -/
def execVstm (o : OpM) (s : State) : Out := .next (s.multicast o)

/-- Address of lane j of a gather or scatter (R263). -/
def State.laneAddr (s : State) (o : OpM) (j : Nat) : Word :=
  s.baseAddr o + BitVec.ofInt 64 (signedOf (8 * o.bytes) (laneOf (8 * o.bytes) (s.readV o.index) j)) * o.factor

def laneCount (o : OpM) : Nat := 64 / o.bytes

/-- `vgat` (R263). -/
def execVgat (o : OpM) (s : State) : Out :=
  .next (s.issueAccesses writeOf ((List.range (laneCount o)).map fun j =>
    (OpM.access o .load (s.laneAddr o j) o.bytes [] j, .lanes o.data o.bytes)))

/-- `vsct` (R263). -/
def execVsct (o : OpM) (s : State) : Out :=
  .next (s.issueAccesses writeOf ((List.range (laneCount o)).map fun j =>
    (OpM.access o .store (s.laneAddr o j) o.bytes (leBytes o.bytes (laneOf (8 * o.bytes) (s.readV o.data) j)) j, .none)))

/-- `pref`: fills the TLBs with a cacheable leaf whose A bit is set, and changes nothing else (R277). -/
def execPref (o : OpM) (s : State) : Out :=
  let a := s.ea o
  let c := s.cur.1
  .next (
    if a.extractLsb' 56 8 ≠ 0 ∨ !c.isVirt then s.retire 1
    else match s.walk c a.toNat .read with
      | .leaf w p _ =>
        if pteA w then (s.fillTlb c .read { asid := s.asidOf c, page := p, leaf := w }).retire 1 else s.retire 1
      | _ => s.retire 1)

/-- `sclose` (R270). -/
def execSclose (o : OpM) (s : State) : Out :=
  let n := o.stream.toNat
  let left := if n = 0 then s.unackedAll s.cur.1 s.cur.2 else s.unacked s.cur.1 s.cur.2 n
  .next (
    if left ≠ 0 then s.stall
    else match s.me.failureFor n with
      | some f => s.deliverFailure f
      | none => s.retire 1)

/-- An `amo` (R272): the operand is named by the index field, and the data register holds the compare value. -/
def State.amo (s : State) (o : OpM) (op : AOp) : State :=
  s.oneAccess o (.amo op o.ety (s.readG o.index).toNat (s.readG o.data).toNat) (s.baseAddr o) o.bytes []
    (.g o.data (if o.ety = .i32 then .i32 else .n64)) true

/-- A `red` (R272, R274). -/
def State.red (s : State) (o : OpM) (op : AOp) : State :=
  s.oneAccess o (.red op o.ety (s.readG o.index).toNat) (s.baseAddr o) o.bytes [] .none true

/-- `amo.add` (R272, R273, R276). -/
def execAmoAdd (o : OpM) (s : State) : Out := .next (s.amo o .add)
/-- `amo.and` (R272, R273). -/
def execAmoAnd (o : OpM) (s : State) : Out := .next (s.amo o .and)
/-- `amo.or` (R272, R273). -/
def execAmoOr (o : OpM) (s : State) : Out := .next (s.amo o .or)
/-- `amo.xor` (R272, R273). -/
def execAmoXor (o : OpM) (s : State) : Out := .next (s.amo o .xor)
/-- `amo.min` (R272, R273, R276). -/
def execAmoMin (o : OpM) (s : State) : Out := .next (s.amo o .min)
/-- `amo.max` (R272, R273, R276). -/
def execAmoMax (o : OpM) (s : State) : Out := .next (s.amo o .max)
/-- `amo.swap` (R272, R273). -/
def execAmoSwap (o : OpM) (s : State) : Out := .next (s.amo o .swap)
/-- `amo.cas` (R272, R273). -/
def execAmoCas (o : OpM) (s : State) : Out := .next (s.amo o .cas)
/-- `red.add` (R272 to R274, R276). -/
def execRedAdd (o : OpM) (s : State) : Out := .next (s.red o .add)
/-- `red.and` (R272 to R274). -/
def execRedAnd (o : OpM) (s : State) : Out := .next (s.red o .and)
/-- `red.or` (R272 to R274). -/
def execRedOr (o : OpM) (s : State) : Out := .next (s.red o .or)
/-- `red.xor` (R272 to R274). -/
def execRedXor (o : OpM) (s : State) : Out := .next (s.red o .xor)
/-- `red.min` (R272 to R274, R276). -/
def execRedMin (o : OpM) (s : State) : Out := .next (s.red o .min)
/-- `red.max` (R272 to R274, R276). -/
def execRedMax (o : OpM) (s : State) : Out := .next (s.red o .max)

end Sys2Proof.Machine
end

