-- ==== Sys2Proof/Machine/Tiles.lean ====
section
/-! DEFINITION. Tiles, rule entries and the groups that rules form (R17 to R28, R36, R37, R308, R309). -/

namespace Sys2Proof.Machine

/-! ## The tile header (R17) -/

/-- Bits [lo+n-1:lo] of a tile or rule image. -/
def lineBits (l : Line) (lo n : Nat) : Nat := l.toNat / 2 ^ lo % 2 ^ n

/-- Replace bits [lo+n-1:lo]. -/
def setLineBits (l : Line) (lo n v : Nat) : Line :=
  (l &&& ~~~BitVec.ofNat 512 ((2 ^ n - 1) * 2 ^ lo)) ||| BitVec.ofNat 512 (v % 2 ^ n * 2 ^ lo)

def tileClass (l : Line) : Nat := lineBits l 0 16
def tileGate (l : Line) : Bool := lineBits l 18 1 == 1
def tileKey0 (l : Line) : Nat := lineBits l 32 32
def tileKey1 (l : Line) : Nat := lineBits l 64 32
def tileStamp (l : Line) : Nat := lineBits l 96 32
/-- Header bits [63:0] and [127:64]. -/
def tileHead0 (l : Line) : Word := l.extractLsb' 0 64
def tileHead1 (l : Line) : Word := l.extractLsb' 64 64

/-- INLET and XPART as the hardware writes them, and GATE cleared, in an insertion made by an instruction (R17, R19, R46). -/
def tileMarks (l : Line) (inlet xpart : Bool) : Line :=
  setLineBits (setLineBits (setLineBits l 17 1 (if inlet then 1 else 0)) 18 1 0) 19 1 (if xpart then 1 else 0)

/-- An inlet tile as it commits: INLET set, GATE carried unchanged (R17, R44). -/
def inletMarks (l : Line) (xpart : Bool) : Line := setLineBits (setLineBits l 17 1 1) 19 1 (if xpart then 1 else 0)

def tileStamped (l : Line) (t : Nat) : Line := setLineBits l 96 32 t

/-! ## Home banks (R20) -/

def mix32 (x : BitVec 32) : BitVec 32 :=
  let x := x ^^^ (x >>> 16)
  let x := x * 0x7FEB352D#32
  let x := x ^^^ (x >>> 15)
  let x := x * 0x846CA68B#32
  x ^^^ (x >>> 16)

def homeIndex (pid key0 banks : Nat) : Nat :=
  (mix32 (BitVec.ofNat 32 key0 ^^^ (BitVec.ofNat 32 pid * 0x9E3779B9#32))).toNat * banks / 2 ^ 32

/-! ## Rule entries (R308, R309) -/

namespace Rule
def cv (r : Line) (j : Nat) : Nat := lineBits r (32 * j) 16
def cm (r : Line) (j : Nat) : Nat := lineBits r (32 * j + 16) 16
def v (r : Line) : Bool := lineBits r 128 1 == 1
def arity (r : Line) : Nat := lineBits r 129 2 + 1
def prio (r : Line) : Nat := lineBits r 131 2
def span (r : Line) : Nat := lineBits r 133 2
def aff (r : Line) : Nat := lineBits r 135 2
/-- AFFBLK: virtual field and virtual block. -/
def affField (r : Line) : Nat := lineBits r 143 3
def affBlock (r : Line) : Nat := lineBits r 137 6
def coreside (r : Line) : Nat := lineBits r 146 5
/-- Relation of slot j, 1 to 3. -/
def rel (r : Line) (j : Nat) : Nat := if j = 0 then 0 else lineBits r (149 + 2 * j) 2
def delta (r : Line) (j : Nat) : Nat := if j = 0 then 0 else lineBits r (144 + 16 * j) 16
def entry (r : Line) : Word := r.extractLsb' 256 64

/-- Well formed (R309). -/
def ok (r : Line) : Bool :=
  ([0, 1, 2, 3].all fun j => cv r j &&& (65535 - cm r j) == 0)
  && span r != 0 && decide (coreside r ≤ 16) && (coreside r == 0 || span r == 2)
  && (lineBits r 137 9 == 0 || aff r == 2)
  && ([0, 1, 2, 3].all fun j => decide (j < arity r) || (cv r j == 0 && cm r j == 0 && rel r j == 0 && delta r j == 0))
  && ([1, 2, 3].all fun j => delta r j == 0 || rel r j == 2)
  && lineBits r 256 3 == 0 && lineBits r 312 8 == 0
  && lineBits r 157 3 == 0 && lineBits r 208 48 == 0 && lineBits r 320 192 == 0

end Rule

/-! ## Groups (R24) -/

/-- A tile fits slot j's class pattern (R23). -/
def fits (r : Line) (j : Nat) (l : Line) : Bool := tileClass l &&& Rule.cm r j == Rule.cv r j

/-- Slot j's key1 relation to slot 0 (R23). -/
def related (r : Line) (j key1 key10 : Nat) : Bool :=
  match Rule.rel r j with
  | 1 => key1 == key10
  | 2 => BitVec.ofNat 32 key1 == BitVec.ofNat 32 key10 + (BitVec.ofNat 16 (Rule.delta r j)).signExtend 32
  | 3 => decide (key10 < key1)
  | _ => true

/-- May the tile take slot j behind the tiles of the lower slots? -/
def joins (r : Line) (j : Nat) (below : List Tile) (t : Tile) : Bool :=
  fits r j t.img && !(below.any fun u => u.seq == t.seq)
    && (match below with
      | [] => true
      | u :: _ => related r j (tileKey1 t.img) (tileKey1 u.img))

/-- Fill `n` slots from j up, each with the oldest tile that keeps the group formable; tile `t` has slot `at_`. -/
def fillSlots (r : Line) (avail : List Tile) (at_ : Nat) (t : Tile) : Nat → Nat → List Tile → Option (List Tile)
  | 0, _, got => some got
  | n + 1, j, got =>
    (if j = at_ then [t] else avail.filter fun u => u.seq != t.seq).findSome? fun u =>
      if joins r j got u then fillSlots r avail at_ t n (j + 1) (got ++ [u]) else none

/-- `Fill` of R27: the group of a rule with tile t in the lowest slot that some formable group gives it. `avail` holds the
unused tiles, oldest first. -/
def fill (r : Line) (avail : List Tile) (t : Tile) : Option (List Tile) :=
  let mates := avail.filter fun u => tileKey0 u.img == tileKey0 t.img
  (List.range (Rule.arity r)).findSome? fun j => fillSlots r mates j t (Rule.arity r) 0 []

/-- A group with tile t in slot 0. -/
def fillFirst (r : Line) (avail : List Tile) (t : Tile) : Option (List Tile) :=
  fillSlots r (avail.filter fun u => tileKey0 u.img == tileKey0 t.img) 0 t (Rule.arity r) 0 []

/-- Unused tiles once a group has taken its own. -/
def useTiles (avail got : List Tile) : List Tile := avail.filter fun u => !(got.any fun t => t.seq == u.seq)

/-- The oldest tile that completes a group as slot 0, and the group. -/
def oldestGroup (r : Line) (avail : List Tile) : Option (List Tile) := avail.findSome? fun t => fillFirst r avail t

/-- Valid rules of a table, in index order. -/
def validRules (rs : Map Nat Line) : List (Nat × Line) :=
  (List.range 256).filterMap fun i => match Map.get? rs i with
    | some r => if Rule.v r then some (i, r) else none
    | none => none

def rulesOf (rs : List (Nat × Line)) (lvl : Nat) : List (Nat × Line) := rs.filter fun q => Rule.prio q.2 == lvl

/-- Highest priority first, then lowest index. -/
def byPriority (rs : List (Nat × Line)) : List (Nat × Line) :=
  rulesOf rs 3 ++ rulesOf rs 2 ++ rulesOf rs 1 ++ rulesOf rs 0

/-- Groups of one rule until none is left or the limit is reached. -/
def groupsOf (q : Nat × Line) : Nat → List Tile → List Group × List Tile
  | 0, avail => ([], avail)
  | lim + 1, avail =>
    match oldestGroup q.2 avail with
    | none => ([], avail)
    | some ts =>
      let (gs, left) := groupsOf q lim (useTiles avail ts)
      ({ rule := q.1, img := q.2, tiles := ts } :: gs, left)

/-- A decision as it goes: groups formed, tiles unused, rotation pointers. -/
structure Deciding where
  groups : List Group := []
  avail : List Tile
  rot : Map Nat Nat := []
deriving DecidableEq, Repr

/-- The aged tiles, oldest first (first loop of R27). -/
def decideAged (rs : List (Nat × Line)) (lim : Nat) (d : Deciding) (t : Tile) : Deciding :=
  if lim ≤ d.groups.length ∨ !(d.avail.any fun u => u.seq == t.seq) then d
  else match (byPriority rs).findSome? fun q => (fill q.2 d.avail t).map fun ts => (q, ts) with
    | none => d
    | some (q, ts) => { d with groups := d.groups ++ [{ rule := q.1, img := q.2, tiles := ts }], avail := useTiles d.avail ts }

/-- One rule's turn in the second loop; its level's pointer moves past it where it forms a group. -/
def decideRule (lvl lim : Nat) (d : Deciding) (q : Nat × Line) : Deciding :=
  let (gs, left) := groupsOf q (lim - d.groups.length) d.avail
  if gs.isEmpty then d
  else { groups := d.groups ++ gs, avail := left, rot := d.rot.set lvl ((q.1 + 1) % 256) }

/-- A level's rules from its pointer on, cyclically. -/
def cyclic (rs : List (Nat × Line)) (lvl ptr : Nat) : List (Nat × Line) :=
  ((rulesOf rs lvl).filter fun q => decide (ptr ≤ q.1)) ++ (rulesOf rs lvl).filter fun q => decide (q.1 < ptr)

/-- `Decide` of R27 over the matchable tiles. -/
def decideGroups (rs : List (Nat × Line)) (lim : Nat) (tiles : List Tile) (rot : Map Nat Nat) : Deciding :=
  let d := (tiles.filter fun t => decide (32 ≤ t.age)).foldl (decideAged rs lim) { avail := tiles, rot := rot }
  [3, 2, 1, 0].foldl (fun d lvl => (cyclic rs lvl (rot.get 0 lvl)).foldl (decideRule lvl lim) d) d

/-- `RoundGroups` of R36. -/
def roundGroups (rs : List (Nat × Line)) (tiles : List Tile) : List Group :=
  ((byPriority rs).foldl (fun (d : List Group × List Tile) q =>
    let (gs, left) := groupsOf q d.2.length d.2
    (d.1 ++ gs, left)) ([], tiles)).1

/-- Is a group formable? -/
def formable (rs : List (Nat × Line)) (tiles : List Tile) : Bool := rs.any fun q => (oldestGroup q.2 tiles).isSome

/-- Put a tile in order of sequence number. -/
def insertTile (t : Tile) : List Tile → List Tile
  | [] => [t]
  | u :: us => if t.seq < u.seq then t :: u :: us else u :: insertTile t us

/-- Sequence number of R37. -/
def roundSeq (round bank f idx : Nat) : Nat := round % 2 ^ 24 * 2 ^ 40 + bank % 2 ^ 16 * 2 ^ 24 + f % 2 ^ 16 * 2 ^ 8 + idx % 2 ^ 8

end Sys2Proof.Machine
end

