-- ==== Sys2Proof/Machine/Links.lean ====
section
/-! DEFINITION. Packets and flits on the optical links (R391 to R399): dealt to lanes, received, sent again, forwarded, lost. What a
packet carries waits until its last flit has been accepted at the estate it goes to. -/

namespace Sys2Proof.Machine

def State.linkOf (s : State) (l : LinkId) : Link := (s.estate l.estate).links.get {} l.link
def State.modLink (s : State) (l : LinkId) (f : Link → Link) : State :=
  s.modEstate l.estate fun e => { e with links := e.links.set l.link (f (e.links.get {} l.link)) }

/-- The far end of a link, once they have trained. -/
def State.farOf (s : State) (l : LinkId) : Option LinkId := (s.linkOf l).far.map fun p => { estate := p.1, link := p.2 }

/-! ## Messages and insertions by number -/

def State.modMsg (s : State) (id : Nat) (f : Msg → Msg) : State :=
  match Map.get? s.msgs id with
  | some m => { s with msgs := s.msgs.set id (f m) }
  | none => s

def State.setStage (s : State) (id : Nat) (st : Stage) : State := s.modMsg id fun m => { m with stage := st }
def State.dropMsg (s : State) (id : Nat) : State := { s with msgs := Map.erase s.msgs id }

def State.modInsert (s : State) (id : Nat) (f : Insert → Insert) : State :=
  match Map.get? s.inserts id with
  | some x => { s with inserts := s.inserts.set id (f x) }
  | none => s

/-- Cycles after which a refused request is sent again (R266, R320). -/
def resendDelay := 64

/-! ## Flits (R392) -/

/-- One bit of the CRC-48 division: the register, and the next message bit. -/
def crcStep (r : Nat) (b : Bool) : Nat :=
  let top := r / 2 ^ 47 % 2 == 1
  let sh := r * 2 % 2 ^ 48
  if top != b then Nat.xor sh 0xB7A9D66E8B25 else sh

/-- Bits of a byte, most significant first. -/
def bitsHigh (b : Byte) : List Bool := [7, 6, 5, 4, 3, 2, 1, 0].map b.getLsbD

/-- CRC of bytes. -/
def crc48 (bs : List Byte) : Nat := Nat.xor ((bs.flatMap bitsHigh).foldl crcStep (2 ^ 48 - 1)) (2 ^ 48 - 1)

def flitSeq (f : Line) : Nat := lineBits f 448 12
def flitVc (f : Line) : Nat := lineBits f 460 2
def flitType (f : Line) : Nat := lineBits f 462 2
def flitCrc (f : Line) : Nat := lineBits f 464 48

def flitOk (f : Line) : Bool := crc48 ((lineBytes f).take 58) == flitCrc f

/-- A flit: payload and check field. -/
def flitOf (lseq vc type : Nat) (payload : List Byte) : Line :=
  let head := (payload ++ List.replicate 56 0).take 56 ++ leBytes 2 (lseq + vc * 2 ^ 12 + type * 2 ^ 14)
  BitVec.ofNat 512 (leNat (head ++ leBytes 6 (crc48 head)))

def dataFlit (lseq vc : Nat) (payload : List Byte) : Line := flitOf lseq vc 0 payload

/-! ## Lanes (R393) -/

def Link.lane (k : Link) (rx : Bool) (n : Nat) : Lane := k.lanes.get {} (rx, n)

/-- Lanes of a direction in service, in ascending number. -/
def Link.inService (k : Link) (rx : Bool) : List Nat := (List.range 8).filter fun n => (k.lane rx n).st == .inService

/-- The beats of a flit as they go out over the lanes S from beat counter c on: lane and beat. -/
def dealBeats (lanes : List Nat) (c : Nat) (f : Line) : List (Nat × Nat) :=
  (List.range 8).map fun j => (lanes.getD ((c + j) % lanes.length) 0, lineBits f (64 * j) 64)

/-- The flit as the receiver puts it together: beats in the same order; those of a lane it has lost are missing. -/
def joinBeats (live : List Nat) (bs : List (Nat × Nat)) : Line :=
  BitVec.ofNat 512 ((bs.map fun b => if live.contains b.1 then b.2 else 0).foldr (fun b n => b + 2 ^ 64 * n) 0)

/-- Lanes that carry beats of the flit. -/
def Sent.uses (x : Sent) : List Nat := (dealBeats x.lanes x.beat x.flit).map Prod.fst

/-- The flit as it comes to a receiver with these lanes. -/
def Sent.arrives (x : Sent) (live : List Nat) : Line := joinBeats live (dealBeats x.lanes x.beat x.flit)

/-! ## Security (R397) -/

/-- Mode of a channel. -/
def modeOfVc (w : Word) (vc : Nat) : Nat := w.toNat / 2 ^ (2 * vc) % 4

/-- Nonce of a data flit: link number of its sender, channel, direction, and its number on the channel (log 35). -/
def flitNonce (from_ to_ : LinkId) (vc count : Nat) : Nat :=
  let dir := if from_.estate * 128 + from_.link < to_.estate * 128 + to_.link then 0 else 1
  ((from_.link * 4 + vc) * 2 + dir) * 2 ^ 64 + count % 2 ^ 64

/-- The 56 payload bytes of a secured flit: 48 in clear or encrypted, and their tag. -/
def sealPayload (mode key nonce : Nat) (data : List Byte) : List Byte :=
  let plain := data.map BitVec.toNat
  let body := if mode = 1 then plain else gcmCipher key nonce plain
  (body ++ bigBytes 8 (gcmTag key nonce (mode == 1) body)).map (BitVec.ofNat 8)

/-- Does the tag of a secured flit fit the key the receiver holds? -/
def tagFits (mode key nonce : Nat) (f : Line) : Bool :=
  let bs := (lineBytes f).map BitVec.toNat
  bigNat ((bs.drop 48).take 8) == gcmTag key nonce (mode == 1) (bs.take 48)

/-! ## The receiver (R394, R397) -/

/-- A flit is discarded: one resend request is sent, naming the first LSEQ not accepted; another where a flit fails again. -/
def Link.discard (k : Link) (failed : Bool) : Link := { k with asked := true, ask := k.ask || failed || !k.asked }

/-- A lane that leaves with no loss goes once every flit sent over it has come (R393, R395). -/
def Link.dropLanes (k : Link) : Link :=
  { k with
    leaving := k.leaving.filter fun x => x.2 != some k.rxSeq
    lanes := (k.leaving.filter fun x => x.2 == some k.rxSeq).foldl (fun ls x =>
      ls.set (true, x.1) { k.lane true x.1 with st := .retraining }) k.lanes }

/-- The receiver at a data flit; `whole` says that no beat of it was lost. A stopped channel's flits are taken in sequence and
dropped (log 35). -/
def Link.receive (l : LinkId) (k : Link) (f : Line) (whole : Bool) : Link :=
  let vc := flitVc f
  let far : LinkId := match k.far with
    | some p => { estate := p.1, link := p.2 }
    | none => l
  let mode := modeOfVc k.liveR vc
  let next : Link := { k with rxSeq := (k.rxSeq + 1) % 4096, asked := false, ask := false }
  if !whole ∨ !flitOk f then k.discard true
  else if flitSeq f ≠ k.rxSeq then k.discard false
  else if k.stopped.contains vc then next.dropLanes
  else if mode ≠ 0 ∧ !tagFits mode (k.keys.get 0 (true, vc)).toNat (flitNonce far l vc (k.rcounts.get 0 vc)) f then
    let n := k.tagFails.get 0 vc + 1
    { k.discard true with tagFails := k.tagFails.set vc n, stopped := if 16 ≤ n then vc :: k.stopped else k.stopped }
  else
    { next with taken := k.taken ++ [(vc, f)], tagFails := k.tagFails.set vc 0
                rcounts := k.rcounts.set vc (k.rcounts.get 0 vc + 1) }.dropLanes

/-! ## Control flits (R392, R394, R398) -/

/-- Send allowance of a channel (R359). -/
def Link.allowance (k : Link) (vc : Nat) : Nat := k.allow.get 0 vc

/-- Lanes of the receiving side that stay. -/
def Link.keeps (k : Link) : List Nat := (k.inService true).filter fun n => !(k.leaving.any fun x => x.1 == n)

/-- What the receiving side tells the far end: a control flit is formed from all of it as it stands, so that each supersedes the one
before. Its payload's layout is the model's (log 35): LSEQ expected, resend request, lanes in service, flits of buffer freed. -/
def Link.controlFlit (k : Link) : Line :=
  flitOf 0 0 1 (leBytes 2 k.rxSeq ++ [if k.ask then 1 else 0] ++ leBytes 1 (k.keeps.map (2 ^ ·)).sum
    ++ [0, 1, 2, 3].flatMap fun v => leBytes 2 (k.taken.filter fun t => t.1 == v).length)

/-- Flits of the replay buffer from a sequence number on. -/
def Link.fromSeq (k : Link) (lseq : Nat) : List Sent := k.replay.dropWhile fun x => x.seq != lseq

/-- The flits before a sequence number are acknowledged: they leave the replay buffer. -/
def Link.ackTo (k : Link) (lseq : Nat) : Link :=
  if (k.fromSeq lseq).isEmpty ∧ k.txSeq ≠ lseq then k else { k with replay := k.fromSeq lseq }

/-- Flits go out once more, eight beats each, over the lanes now in service. -/
def resendFrom (lanes : List Nat) : Nat → List Sent → List Sent
  | _, [] => []
  | c, x :: xs => { x with lanes := lanes, beat := c, out := true } :: resendFrom lanes (c + 8) xs

/-- The flit named by a resend request and every later one are sent again, in the original order (R394). -/
def Link.resendAll (k : Link) (lseq : Nat) : Link :=
  let again := k.fromSeq lseq
  { k with replay := k.replay.take (k.replay.length - again.length) ++ resendFrom (k.inService false) k.beat again
           resent := (k.resent + again.length) % 2 ^ 28, beat := k.beat + 8 * again.length }

/-- Returned allowance raises a channel's (R359). -/
def Link.regain (k : Link) (vc n : Nat) : Link := { k with allow := k.allow.set vc (min 1023 (k.allowance vc + n)) }

/-- Buffer of the receiving side is freed. -/
def Link.free (k : Link) (vc : Nat) : Nat → Link
  | 0 => k
  | n + 1 => match k.taken.find? fun t => t.1 == vc with
    | some t => Link.free { k with taken := k.taken.erase t } vc n
    | none => k

/-- A sending lane leaves service at this flit boundary, for retraining, with the beat counter at 0; the far end drops it at the
same LSEQ (R393, R395; log 123). -/
def State.dropTx (s : State) (l : LinkId) (n : Nat) : State :=
  let k := s.linkOf l
  if (k.lane false n).st ≠ .inService then s
  else
    let x := k.lane false n
    let s := s.modLink l fun k => { k with lanes := k.lanes.set (false, n) { x with st := .retraining, retrains := x.retrains + 1 }, beat := 0 }
    match s.farOf l with
    | some far => s.modLink far fun j => Link.dropLanes
        (if (j.lane true n).st = .inService then
          { j with leaving := (j.leaving.filter fun x => x.1 != n) ++ [(n, some k.txSeq)] } else j)
    | none => s

/-- A control flit takes effect at the end that has it: acknowledgement, lane-down notice, resend, returns (R392). -/
def State.control (s : State) (l : LinkId) (f : Line) : State :=
  let seq := lineBits f 0 16
  let kept := lineBits f 24 8
  let s := s.modLink l (·.ackTo seq)
  let s := (((s.linkOf l).inService false).filter fun n => kept / 2 ^ n % 2 == 0).foldl (fun s n => s.dropTx l n) s
  let s := if lineBits f 16 8 % 2 = 1 then s.modLink l (·.resendAll seq) else s
  let s := [0, 1, 2, 3].foldl (fun s v => s.modLink l (·.regain v (lineBits f (32 + 16 * v) 16))) s
  match s.farOf l with
  | some far => s.modLink far fun k =>
      { [0, 1, 2, 3].foldl (fun k v => k.free v (lineBits f (32 + 16 * v) 16)) k with ask := false, beat := k.beat + 8 }
  | none => s

/-! ## Packets (R396, R398) -/

/-- Flits of a packet by its data bytes, on a plain or a secured channel. -/
def flitsOf (n : Nat) : Nat := if n ≤ 32 then 1 else if n ≤ 64 then 2 else 3

/-- Header and data of a packet in order. -/
def Packet.bytes (p : Packet) : List Byte := leBytes 16 (Config.packetHeader p.num).toNat ++ p.data

/-- Payload of the next flit of a packet on a link: 56 bytes of it, or on a secured channel 48 and their tag. -/
def Link.payload (l : LinkId) (k : Link) (p : Packet) : List Byte :=
  let mode := modeOfVc k.liveT p.vc
  let far : LinkId := match k.far with
    | some p => { estate := p.1, link := p.2 }
    | none => l
  if mode = 0 then (p.bytes.drop (56 * p.sent)).take 56
  else sealPayload mode (k.keys.get 0 (false, p.vc)).toNat (flitNonce l far p.vc (k.counts.get 0 p.vc))
    ((p.bytes.drop (48 * p.sent) ++ List.replicate 48 0).take 48)

/-- Flits a sender keeps until they are acknowledged (R394). -/
def replayDepth := 512

/-- The first packet of its channel goes on by one flit of eight beats: the allowance falls, and the flit is kept for a resend. -/
def Link.sendFlit (l : LinkId) (k : Link) (p : Packet) : Link :=
  let q := { p with sent := p.sent + 1 }
  { k with
    allow := k.allow.set p.vc (k.allowance p.vc - 1)
    replay := k.replay ++ [{ seq := k.txSeq, flit := dataFlit k.txSeq p.vc (k.payload l p), pkt := q
                             lanes := k.inService false, beat := k.beat }]
    counts := k.counts.set p.vc (k.counts.get 0 p.vc + 1)
    beat := k.beat + 8
    txSeq := (k.txSeq + 1) % 4096
    sendq := if q.sent < flitsOf p.data.length then k.sendq.map fun x => if x = p then q else x else k.sendq.erase p }

/-- Flits leave while a channel with a packet has allowance and the replay buffer has room; packets of one channel do not
interleave. -/
def Link.pump (l : LinkId) : Nat → Link → Link
  | 0, k => k
  | n + 1, k => match k.sendq.find? fun p => decide (0 < k.allowance p.vc) with
    | some p => if k.st = .up ∧ k.replay.length < replayDepth then Link.pump l n (k.sendFlit l p) else k
    | none => k

/-- Flits still to send. -/
def Link.owes (k : Link) : Nat := (k.sendq.map fun p => flitsOf p.data.length - p.sent).sum

/-- Every link of the machine sends what it may. -/
def State.pumpLinks (s : State) : State :=
  if s.estates.all fun e => e.2.links.all fun k => k.2.sendq.isEmpty then s
  else { s with estates := s.estates.map fun e => (e.1, { e.2 with links := e.2.links.map fun k =>
    (k.1, Link.pump { estate := e.1, link := k.1 } k.2.owes k.2) }) }

/-! ## What a packet carries -/

/-- A channel of the first hop carries nothing: there is no route, the link is down outside a reconfiguration, or its far end has
stopped the channel (R397, R402). -/
def State.hopDead (s : State) (e t vc : Nat) : Bool :=
  match Map.get? (s.estate e).routes t with
  | some l =>
    let k := s.linkOf { estate := e, link := l }
    (k.st != .up && (s.estate e).phase == 0) || (match s.farOf { estate := e, link := l } with
      | some far => (s.linkOf far).stopped.contains vc
      | none => false)
  | none => true

/-- What goes from one estate to another on this channel is abandoned: there is no way, or the package has failed (R402, R404). -/
def State.cut (s : State) (e t vc : Nat) : Bool := e != t && ((s.estate e).failed.contains t || s.hopDead e t vc)

/-- A packet enters the first hop from one estate to another, if that is up. -/
def State.packet (s : State) (e t vc : Nat) (cargo : Cargo) (data : List Byte) : State :=
  match Map.get? (s.estate e).routes t with
  | some l =>
    if (s.linkOf { estate := e, link := l }).st = .up then
      let s' : State := { s with nextId := s.nextId + 1 }
      s'.modLink { estate := e, link := l } fun k =>
        { k with sendq := k.sendq ++ [{ vc := vc, cargo := cargo, dest := t, num := s.nextId, data := data }] }
    else s
  | none => s

/-- How a message ends whose request or answer is abandoned: a request completes with code 4, a store fails with cause 1. -/
def Msg.lostCode (m : Msg) : Nat :=
  if m.isStore then 1 else match m.body with
    | .close .. => 0
    | _ => 4

def Msg.lost (m : Msg) : Msg := { m with wire := 2, stage := .done m.lostCode }

/-- An engine's piece on a link is lost. -/
def Core.losePiece (k : Core) (id : Nat) : Core :=
  let lose (x : Option Flight) : Option Flight := x.map fun f => { f with lost := true }
  { k with cmds := k.cmds.map fun x => if x.1 = id then (id, { x.2 with flight := lose x.2.flight }) else x
           mreqs := k.mreqs.map fun r => if r.ord = id then { r with flight := lose r.flight } else r }

/-- What a packet carried is abandoned: a request or an answer ends, an insertion stays in its buffer and is sent again, a piece fails
(R402; log 35). -/
def State.loseCargo (s : State) : Cargo → State
  | .msg id => s.modMsg id fun m => match m.stage with
    | .sent | .done _ => m.lost
    | _ => m
  | .insert id => s.modInsert id fun x => if x.stage = .sent then { x with stage := .refused (s.cycle + resendDelay) } else x
  | .piece c id => s.modCore c (·.losePiece id)
  | .halt .. | .note => s

/-- Flits that the far end has not accepted yet: those from its next LSEQ on. -/
def Link.unaccepted (k : Link) (rxSeq : Nat) : List Sent := k.fromSeq rxSeq

/-- Next LSEQ that the far end of a link expects. -/
def State.expects (s : State) (k : Link) : Nat :=
  match k.far with
  | some p => (s.linkOf { estate := p.1, link := p.2 }).rxSeq
  | none => (k.replay.head?.map (·.seq)).getD k.txSeq

/-- Does a flit of this cargo still wait to be sent, or to be accepted (R394)? -/
def Link.carries (k : Link) (rxSeq : Nat) (c : Cargo) : Bool :=
  (k.sendq.any fun p => p.cargo == c) || (k.unaccepted rxSeq).any fun x => x.pkt.cargo == c

def State.onWire (s : State) (c : Cargo) : Bool :=
  s.estates.any fun e => e.2.links.any fun k => k.2.carries (s.expects k.2) c

/-- All of its flits have been accepted where it goes (R394, R396). -/
def State.flown (s : State) (c : Cargo) : Bool := !s.onWire c

/-- A packet accepted whole at a package that it does not end at goes on by that package's own route map (R399). -/
def State.forward (s : State) (e : Nat) (p : Packet) : State :=
  if p.dest = e then s
  else if s.cut e p.dest p.vc then s.loseCargo p.cargo
  else s.packet e p.dest p.vc p.cargo p.data

/-- `flit_receive` (R392 to R394, R399): a control flit takes effect, or a data flit is accepted or discarded; a flit with a beat on
a lane that the receiver has lost, or loses as it comes, fails (R395). Types 2 and 3 are discarded. -/
def execFlitReceive (l : LinkId) (flit : Line) (lost : List Nat) (s : State) : Out :=
  let k := s.linkOf l
  let far := s.farOf l
  -- the flit that this one is, as it was sent
  let sent := (far.map fun f => (s.linkOf f).replay.find? (·.out)).join
  let whole := match sent with
    | some x => x.uses.all fun n => (k.inService true).contains n && !lost.contains n
    | none => true
  .next (
    if k.st ≠ .up ∨ 3 ≤ (s.estate l.estate).phase then s
    else if flitType flit = 1 then (if flitOk flit then s.control l flit else s)
    else if flitType flit ≠ 0 ∧ flitOk flit = true then s
    else
      let j := k.receive l flit whole
      let s := s.modLink l fun _ => j
      match far, sent with
      | some f, some x =>
        let s := s.modLink f fun k => { k with replay := k.replay.map fun y => if y.seq = x.seq then { y with out := false } else y }
        if j.rxSeq ≠ k.rxSeq ∧ x.seq = k.rxSeq ∧ x.pkt.sent = flitsOf x.pkt.data.length then s.forward l.estate x.pkt else s
      | _, _ => s)

/-- `resend_request` (R393, R394): the flit named and every later one is sent again. -/
def execResendRequest (l : LinkId) (lseq : BitVec 12) (s : State) : Out := .next (s.modLink l (·.resendAll lseq.toNat))

/-- `cumulative_ack` (R394): the flits up to the one named leave the replay buffer. -/
def execCumulativeAck (l : LinkId) (lseq : BitVec 12) (s : State) : Out :=
  .next (s.modLink l fun k => if (k.fromSeq lseq.toNat).isEmpty then k else { k with replay := (k.fromSeq lseq.toNat).drop 1 })

/-- `allowance_return` (R398): the far end has freed so much of its buffer. -/
def execAllowanceReturn (l : LinkId) (vc : BitVec 2) (n : Nat) (s : State) : Out :=
  let s := s.modLink l (·.regain vc.toNat n)
  .next (match s.farOf l with
  | some far => s.modLink far (·.free vc.toNat n)
  | none => s)

end Sys2Proof.Machine
end

