-- ==== Sys2Proof/Machine/Mail.lean ====
section
/-! DEFINITION. Mailboxes: `post`, `xget`, `xtry`, `xpeek`, `rld`, and the mailbox unit's steps (R122 to R131, R271, R320). -/

namespace Sys2Proof.Machine

/-! ## Lists in order -/

def insertBy {α : Type} (f : α → Nat) (x : α) : List α → List α
  | [] => [x]
  | y :: ys => if f x ≤ f y then x :: y :: ys else y :: insertBy f x ys

def sortBy {α : Type} (f : α → Nat) : List α → List α
  | [] => []
  | x :: xs => insertBy f x (sortBy f xs)

/-! ## Registers -/

def Core.mail (k : Core) (x : Reg) : Mail := k.x.get {} x
def Core.setMail (k : Core) (x : Reg) (m : Mail) : Core := { k with x := k.x.set x m }

/-- A consumer acquires the poster's snapshot; a lost one saturates to its scope (R130, R287). -/
def State.acquireSnap (s : State) (c : CoreId) (n : Nat) (r : Option HeldRef) : State :=
  (s.acquireRef c n r fun r => r.scope.level).dropVec r

/-- Act as another context of the machine, then come back. -/
def State.asCtx (s : State) (c : CoreId) (n : Nat) (ws : List Word) (f : State → State) : State :=
  { f { s with cur := (c, n), words := ws } with cur := s.cur, words := s.words }

/-- A context stopped by a gang stop or a debug halt (R382, R383). -/
def State.isHalted (s : State) (c : CoreId) (n : Nat) : Bool := ((s.core c).gang && (s.part c.pid).stopped != some (c, n)) || (s.core c).halted.contains n

/-- Contexts of a core Waiting at an instruction the test accepts, lowest first. -/
def State.waiters (s : State) (c : CoreId) (p : Instr → Bool) : List Nat :=
  (List.range 11).filter fun n => match (s.ctx c n).run with
    | .waiting i => p i
    | _ => false

/-- The context runs on: Ready from this cycle (R59). -/
def State.ready (s : State) (c : CoreId) (n : Nat) : State :=
  s.modCtx c n fun x => { x with run := .ready, since := max x.since s.cycle }

/-- A waiting context's condition is met: it completes its instruction now where its core is in the machine and it is not
halted, with no new issue (R139); in an image it is marked Ready and issues again after re-admission (R70, R126). -/
def State.wake (s : State) (c : CoreId) (n : Nat) (f : Instr → State → State) : State :=
  match (s.ctx c n).run with
  | .waiting i =>
    if !s.isResident c ∨ s.swapping c then s.ready c n
    else if s.isHalted c n ∨ s.isFenced c then s
    else
      let count := (s.ctx c n).icount
      ((s.ready c n).asCtx c n (encode i) (f i)).modCtx c n fun x => { x with icount := count }
  | _ => s

/-- `xget` of a present register by the context at issue (R127). -/
def State.takeMail (s : State) (o : OpA) : State :=
  let x := o.a
  let m := s.myCore.mail x
  if m.err then s.raise 0x12 { r4 := m.value }
  else
    let s := s.modMyCore (·.setMail x { m with pres := false, snap := none })
    ((s.acquireSnap s.cur.1 s.cur.2 m.snap).writeG o.d m.value).retire 1

/-- Step 3 of R126: contexts waiting on a present register take it, the lowest first; one that is left present, in error, goes to
the next of them (R127). -/
def State.serveMail (s : State) (c : CoreId) (x : Reg) : State :=
  (s.waiters c fun i => match i with
    | .xget o => o.a == x
    | _ => false).foldl (fun s n =>
      if ((s.core c).mail x).pres then s.wake c n fun i s => match i with
        | .xget o => s.takeMail o
        | _ => s
      else s) s

/-- A value, or an error code, arrives at a register (R131). -/
def State.fillMail (s : State) (c : CoreId) (x : Reg) (m : Mail) : State := (s.modCore c (·.setMail x m)).serveMail c x

/-- May a post be applied to the register now (R125)? -/
def Core.mailFree (k : Core) (x : Reg) : Bool := !(k.mail x).pres && !(k.mail x).await && !(k.hold.any fun h => h.x == x)

/-- Posts in the overflow of a core's interface, oldest first (R125, R320). -/
def State.overflow (s : State) (c : CoreId) : List (Nat × Msg) :=
  s.msgs.filter fun m => match m.2.body, m.2.stage with
    | .post t _ _, .held => t == c
    | _, _ => false

/-- A post at its core: applied, or held (R125, R126 step 2). -/
def State.acceptPost (s : State) (id : Nat) (m : Msg) (c : CoreId) (x : Reg) (value : Word) : State :=
  let (r, s) := s.storeVec (s.dieOf c) m.snap.held
  let s := (s.setStage id (.done 0)).countMet c
  if (s.core c).mailFree x then s.fillMail c x { value := value, pres := true, snap := some r }
  else s.modCore c fun k => { k with hold := k.hold ++ [{ x := x, value := value, snap := some r, since := s.cycle }] }

/-- Room in the hold queue, or none needed. -/
def Core.takesPost (k : Core) (x : Reg) : Bool := k.mailFree x || decide (k.hold.length < 16)

/-- Depths of R320. -/
def mailOverflowDepth := 64
def reholdDepth := 256

/-- A block held for re-admission (R72). -/
def State.blockHolds (s : State) (b : Option BlockId) : Bool :=
  match b with
  | some b => (s.block b).held
  | none => false

/-- Is a unit's interface holding messages: its remap entry is held (R72)? -/
def State.unitHolds (s : State) (u : DUnit) : Bool :=
  match u with
  | .block b => (s.block b).held
  | _ => false

/-- The virtual field that an access's targets name, by estate and field. -/
def fieldOf (ts : List Target) : Option (Nat × Nat) :=
  match ts with
  | t :: _ => if t.va / 2 ^ 56 = 0xFD then some (t.va / 2 ^ 42 % 64, t.va / 2 ^ 39 % 8) else none
  | [] => none

/-- An access of a partition finds its unit's interface holding: the remap entry is held, or the field moves (R72, R75). -/
def State.holdsAt (s : State) (p : Nat) (ts : List Target) : Bool :=
  s.unitHolds (firstUnit ts) || (match fieldOf ts with
    | some f => (Map.get? (s.part p).moving f).isSome
    | none => false)

/-- The unit of a core's scratchpad and mailbox (R241). -/
def coreUnit (c : CoreId) : DUnit :=
  match c.block with
  | some b => .block b
  | none => .loose c.pid c.num

/-- The unit a message goes to, whose sequence its number belongs to; none before its translation. -/
def Msg.unit (m : Msg) : Option DUnit :=
  match m.body with
  | .access _ ts => if m.seqUnit.isSome then m.seqUnit else ts.head?.map (·.unit)
  | .post t _ _ => some (coreUnit t)
  | .close _ u => some u
  | _ => none

/-- Messages held at a unit (R320). -/
def State.heldAt (s : State) (u : DUnit) : Nat :=
  (s.msgs.filter fun m => (match m.2.stage with
    | .rehold => true
    | _ => false) && m.2.unit == some u).length

/-- A message that finds its unit held is held there in arrival order, or refused (R72, R320). -/
def State.hold (s : State) (id : Nat) (u : DUnit) : State :=
  if s.heldAt u < reholdDepth then
    { s with nextId := s.nextId + 1 }.modMsg id fun m => { m with stage := .rehold, ord := s.nextId }
  else s.setStage id (.refused (s.cycle + resendDelay))

/-- `post_arrival`: applied, held, kept in the overflow, refused, or discarded at a fenced block (R124 to R126, R320). -/
def execPostArrival (id : Nat) (s : State) : Out :=
  .next (match Map.get? s.msgs id with
  | some m => if !s.flown (.msg id) then s else match m.body, m.stage with
    | .post c x value, .sent =>
      match c.block with
      | some b =>
        if (s.block b).held then s.hold id (.block b)
        else if s.isFenced c then (s.countMet c).setStage id (.done 4)
        else if (s.overflow c).isEmpty ∧ (s.core c).takesPost x then s.acceptPost id m c x value
        else s.setStage id (if (s.overflow c).length < mailOverflowDepth then .held else .refused (s.cycle + resendDelay))
      | none =>
        if s.isFenced c then (s.countMet c).setStage id (.done 4)
        else if (s.overflow c).isEmpty ∧ (s.core c).takesPost x then s.acceptPost id m c x value
        else s.setStage id (if (s.overflow c).length < mailOverflowDepth then .held else .refused (s.cycle + resendDelay))
    | _, _ => s
  | none => s)

/-- Posts of the overflow come in, oldest first, while the oldest may (R125). -/
def State.drain (c : CoreId) : List (Nat × Msg) → State → State
  | [], s => s
  | (id, m) :: ms, s => match m.body with
    | .post _ x value => if (s.core c).takesPost x then State.drain c ms (s.acceptPost id m c x value) else s
    | _ => s

def State.drainOverflow (s : State) (c : CoreId) : State := State.drain c (s.overflow c) s

/-- The oldest held post of a free register is applied (R126 step 1). -/
def State.applyHeld (s : State) (c : CoreId) (x : Reg) : State :=
  let k := s.core c
  if (k.mail x).pres ∨ (k.mail x).await then s
  else match k.hold.find? fun h => h.x == x with
    | none => s
    | some h =>
      (s.modCore c fun k => { k with hold := k.hold.erase h }).fillMail c x { value := h.value, pres := true, snap := h.snap }

/-- `held_post_apply` (R126 step 1). -/
def execHeldPostApply (c : CoreId) (x : Reg) (s : State) : Out := .next ((s.applyHeld c x).drainOverflow c)

/-- Steps 1 to 3 of R126, before the mailbox instruction of the cycle: posts that may be applied are, and contexts that wait on a
present register take it. -/
def State.mailCycle (s : State) (c : CoreId) : State :=
  let s := (((s.core c).hold.map (·.x)).dedup).foldl (fun s x => s.applyHeld c x) s
  let s := s.drainOverflow c
  ((Map.keys (s.core c).x)).foldl (fun s x => s.serveMail c x) s

/-- Steps 1 to 3, then step 4: the instruction of the context at issue. -/
def State.mailStep (s : State) (f : State → State) : Out := .next (f (s.mailCycle s.cur.1))

/-- `mailbox_overrun_report`: a post held 1,000,000 cycles is reported once (R125, R378). -/
def execMailboxOverrunReport (c : CoreId) (s : State) : Out :=
  let due (h : HeldPost) : Bool := !h.reported && decide (h.since + 1000000 ≤ s.cycle)
  .next (
    if (s.core c).hold.any due then
      (s.modCore c fun k => { k with hold := k.hold.map fun h => { h with reported := h.reported || due h } }).notice c.pid noticeMovr
    else s)

/-- A refused message is sent again once its 64 cycles are over (R266, R320). -/
def State.resend (s : State) (id : Nat) (which : Msg → Bool) : State :=
  match Map.get? s.msgs id with
  | some m => match m.stage with
    | .refused t => if which m ∧ t ≤ s.cycle then s.setStage id .sent else s
    | _ => s
  | none => s

/-- `overflow_post_resend` (R320). -/
def execOverflowPostResend (id : Nat) (s : State) : Out :=
  .next (s.resend id fun m => m.body matches .post ..)

/-- `readmission_hold_resend` (R320). -/
def execReadmissionHoldResend (id : Nat) (s : State) : Out :=
  .next (s.resend id fun _ => true)

/-- `post` (R124): d is the mailbox register, a names the core, b the value. -/
def execPost (o : OpA) (s : State) : Out :=
  let n := s.readG o.a
  let c := s.cur.1
  let t := CoreId.virt c.pid n.toNat
  .next (
    if n.extractLsb' 20 44 ≠ 0 ∨ !c.isVirt ∨ !s.hasCore t then s.raise 0x07 { addr := n }
    else if s.fabricHolds c t.estate then s.stall
    else if !s.hasRoute c.estate t.estate then s.raise 0x09 { addr := n }
    else if 256 ≤ s.unacked c s.cur.2 0 ∨ 1024 ≤ s.unackedAll c s.cur.2 then s.stall
    else
      let after := s.before c s.cur.2 0
      let (v, s) := s.release c s.cur.2 (s.narrowest c t)
      let (_, s) := s.send { core := c, ctx := s.cur.2, pc := s.me.pc, words := s.words, body := .post t o.d (s.readG o.b)
                             stage := .unsent, snap := v, after := after, issued := s.cycle }
      s.retire 1)

/-- What a message waits for is answered: a lane kept until the rest of its gather has its answer (R235, R245). -/
def State.cleared (s : State) (m : Msg) : Bool :=
  m.after.all fun i => match Map.get? s.msgs i with
    | some k => (k.stage matches .collected _)
    | none => true

/-- `post_send` (R124). -/
def execPostSend (id : Nat) (s : State) : Out :=
  .next (match Map.get? s.msgs id with
  | some m => match m.body, m.stage with
    | .post .., .unsent => if s.cleared m then (s.setStage id .sent).countSent m.core else s
    | _, _ => s
  | none => s)

/-- `xget` (R127). -/
def execXget (o : OpA) (s : State) : Out :=
  s.mailStep fun s => if (s.myCore.mail o.a).pres then s.takeMail o else s.wait (.xget o)

/-- `xtry` (R128). -/
def execXtry (o : OpA) (s : State) : Out :=
  s.mailStep fun s =>
    let m := s.myCore.mail o.a
    if !m.pres then s.putG o.b 0
    else if m.err then
      ((s.modMyCore (·.setMail o.a { m with pres := false, err := false })).writeG o.d m.value).putG o.b 2
    else
      let s := s.modMyCore (·.setMail o.a { m with pres := false, snap := none })
      ((s.acquireSnap s.cur.1 s.cur.2 m.snap).writeG o.d m.value).putG o.b 1

/-- `xpeek` (R128). -/
def execXpeek (o : OpA) (s : State) : Out :=
  s.mailStep fun s =>
    let m := s.myCore.mail o.a
    if !m.pres then s.putG o.b 0 else (s.writeG o.d m.value).putG o.b (if m.err then 2 else 1)

/-- `rld` to a mailbox register, or to a vector register or pair (R271). -/
def execRld (o : OpM) (s : State) : Out :=
  s.mailStep fun s =>
    let m := s.myCore.mail o.data
    if o.shape = 0 then
      if m.pres ∨ m.await then s.raise 0x11 { r4 := m.value }
      else s.oneAccess o .rld (s.ea o) 8 [] (.x o.data) true
    else s.oneAccess o .rld (s.ea o) o.size [] (vecDest o) true

end Sys2Proof.Machine
end

