-- ==== Sys2Proof/Machine/MemEvents.lean ====
section
/-! DEFINITION. Messages on their way: performed at their unit, answered, lost, timed out, translated (R63, R220, R245, R248 to
R275, R278). -/

namespace Sys2Proof.Machine

/-- Apply to the message of a number, if there is one. -/
def State.withMsg (s : State) (id : Nat) (f : Msg → State → State) : State :=
  match Map.get? s.msgs id with
  | some m => f m s
  | none => s

/-- Apply to a message that has come to where it goes. -/
def State.comeIn (s : State) (id : Nat) (f : Msg → State → State) : State :=
  if s.flown (.msg id) then s.withMsg id f else s

/-- Remote-request timeout of a core's partition (R249, R312). -/
def State.timeout (s : State) (c : CoreId) : Nat := Record.rrtimeout (s.recordOf c)

/-! ## At the unit -/

/-- A target in a fenced block or core (R379). -/
def State.unitFenced (s : State) (u : DUnit) : Bool :=
  match u with
  | .block b => (s.block b).fenced
  | .loose p n => (s.core (.virt p n)).fenced
  | _ => false

def peekTargets (s : State) (ts : List Target) : List Byte := ts.flatMap fun t => s.peekBytes t.loc t.len

/-- Bytes written at the targets; those of a block out of the machine are in its image too (R70). -/
def State.commitTargets (s : State) : List Target → List Byte → State
  | [], _ => s
  | t :: ts, bs => ((s.commitBytes t.loc (bs.take t.len)).mirror t.loc (bs.take t.len)).commitTargets ts (bs.drop t.len)

/-- A poisoned line stops any access but a store that overwrites it whole (R258, R269, R275, R381). -/
def State.poisonStops (s : State) (k : AKind) (ts : List Target) : Bool :=
  ts.any fun t => (linesOf t.loc t.len).any fun l => s.linePoisoned l
    && !(k matches .store && t.loc ≤ 64 * l && 64 * l + 64 ≤ t.loc + t.len)

/-- Targets from byte `pos` on, `n` bytes of them. -/
def sliceTargets : List Target → Nat → Nat → List Target
  | [], _, _ => []
  | t :: ts, pos, n =>
    if n = 0 then []
    else if t.len ≤ pos then sliceTargets ts (pos - t.len) n
    else
      let k := min n (t.len - pos)
      { t with loc := t.loc + pos, va := t.va + pos, len := k } :: sliceTargets ts 0 (n - k)

/-- Bytes that this turn performs of an access: all that is left, or where it may be parted as many as the turn comes to. -/
def State.portion (s : State) (m : Msg) (a : Access) : Nat × State :=
  let left := a.size - m.pos
  if a.grain = a.size then (left, s)
  else
    let (k, s) := s.useFresh
    (if Config.tear k = 0 then left else min left (Config.tear k * a.grain), s)

/-- One portion of a load or store that has passed its checks: bytes are read, or written; with the last one it is done. -/
def State.movePart (s : State) (id : Nat) (m : Msg) (a : Access) (ck : Check) (ts : List Target) : State :=
  let (n, s) := s.portion m a
  let part := sliceTargets ts m.pos n
  let (bs, s) := if a.kind.writes then ([], s) else s.readBytes ck part
  let s := if a.kind.writes then s.commitTargets part ((a.data.drop m.pos).take n) else s
  s.modMsg id fun m =>
    { m with pos := m.pos + n, reply := m.reply ++ bs, stage := if a.size ≤ m.pos + n then .done 0 else m.stage }

/-- The message between cores that an access is, and its reply (R382). -/
def State.countVisit (s : State) (m : Msg) (ts : List Target) : State :=
  match ts.find? Target.inCore with
  | some t => s.countMet (t.coreOf m.core.pid)
  | none => s

/-- An access performed at its unit: refused at a fenced target, stopped by poison, stopped by a race in enforcing mode, or
done; one that is not single-copy atomic may take several turns (R231, R237, R258, R269, R272, R291 to R293). -/
def State.performAt (s : State) (id : Nat) (m : Msg) (a : Access) (ts : List Target) : State :=
  let ck := a.check m.core m.ctx m.snap m.pc m.mode a.kind.writes
  if m.pos ≠ 0 then s.movePart id m a ck ts
  else
    let s := s.countVisit m ts
    if s.unitFenced (firstUnit ts) then s.setStage id (.done 2)
    else if s.poisonStops a.kind ts then s.setStage id (.done 3)
    else match a.kind with
      | .load | .rld | .store =>
        -- what a read finds, before its own check is recorded
        let (bs, t) := if a.kind.writes ∨ a.grain ≠ a.size then ([], s) else s.readBytes ck ts
        let (v, t) := t.check ck ts
        let t := t.modMsg id fun m => { m with race := if v.commits then none else v.race, joins := v.joins }
        if v.commits = false then t.setStage id (.done 0)
        else if a.kind.writes ∨ a.grain ≠ a.size then t.movePart id m a ck ts
        else t.modMsg id fun m => { m with stage := .done 0, reply := bs }
      | k =>
        let old := peekTargets s ts
        let (new, flags) := writeOf k old
        let (v, s) := s.check { ck with write := new.isSome, release := new.isSome && a.order.releases } ts
        let s := match v.commits, new with
          | true, some bs => s.commitTargets ts bs
          | _, _ => s
        s.modMsg id fun m =>
          { m with stage := .done 0, reply := old, flags := flags.toNat
                   race := if v.commits then none else v.race, joins := v.joins }

/-- Does the access reach host memory, behind the host endpoint on port 0 (R409)? -/
def State.toHost (s : State) (ts : List Target) : Bool :=
  ts.any fun t => match t.unit with
    | .estate e => (s.estate e).host && decide (physLoc e 0x400000000000 ≤ t.loc) && decide (t.loc < physLoc e 0x420000000000)
    | _ => false

/-- `load_perform` (R268): a load or remote load at its bank or scratchpad; one that has timed out reads nothing (R249), and one
of host memory waits for the host's completion (R409). -/
def execLoadPerform (id : Nat) (s : State) : Out :=
  .next (s.comeIn id fun m s => match m.body, m.stage with
    | .access a ts, .sent =>
      if a.kind.writes ∨ s.toHost ts = true then s
      else if s.holdsAt m.core.pid ts then s.hold id (firstUnit ts)
      else if m.detached then (s.countVisit m ts).setStage id (.done 0)
      else s.performAt id m a ts
    | _, _ => s)

/-- The cause of a store that failed at its unit, 0 where it did not. -/
def State.failedWith (s : State) (id : Nat) : Nat :=
  match Map.get? s.msgs id with
  | some m => match m.stage with
    | .done e => e
    | _ => 0
  | none => 0

/-- The message has been performed, or has failed. -/
def State.isDone (s : State) (id : Nat) : Bool :=
  match Map.get? s.msgs id with
  | some m => (match m.stage with
    | .done _ => true
    | _ => false)
  | none => true

def State.countRefused (s : State) (ts : List Target) : State :=
  match ts with
  | t :: _ => s.modDie (s.recordDie t) fun d => { d with weirref := satInc d.weirref }
  | [] => s

/-- Depths of the Weir (R266, R267). -/
def weirDepth := 512
def weirEntries := 4096

def State.refuse (s : State) (id : Nat) (ts : List Target) : State :=
  (s.countRefused ts).setStage id (.refused (s.cycle + resendDelay))

/-- Stores held in a unit's Weir (R266). -/
def State.weirHeld (s : State) (u : DUnit) : Nat :=
  (s.msgs.filter fun m => m.2.stage == .held && (match m.2.body with
    | .access a ts => a.kind.isStore && firstUnit ts == u
    | _ => false)).length

/-- A store or reduction at its Weir (R245, R248, R266 to R268, R274): stream 0 commits as it arrives; an ordered store commits
in sequence, is held, or is refused. Behind a failed store of its stream every one fails. -/
def State.arriveStore (s : State) (id : Nat) (m : Msg) (a : Access) (ts : List Target) : State :=
  let u := firstUnit ts
  if s.holdsAt m.core.pid ts then s.hold id u
  else if a.stream = 0 then s.performAt id m a ts
  else
    let key : WeirKey := { core := m.core, ctx := m.ctx, stream := a.stream, unit := m.unit.getD u }
    match (match Map.get? s.weirs key with
      | some e => some e
      | none => if (s.weirs.filter fun (e : WeirKey × WeirEntry) => e.1.unit == key.unit).length < weirEntries then some {} else none) with
    | none => s.refuse id ts
    | some e =>
      if m.seq ≠ e.expected then
        if (m.stage matches .held) then s
        else if s.weirHeld u < weirDepth then
          ({ s with weirs := s.weirs.set key { e with last := s.cycle } }).setStage id .held
        else s.refuse id ts
      else
        let s := if m.void then (s.countVisit m ts).setStage id (.done 0)
          else if e.failed = 0 then s.performAt id m a ts else (s.countVisit m ts).setStage id (.done e.failed)
        let f := if e.failed = 0 then s.failedWith id else e.failed
        -- an access of which bytes are left keeps its turn
        let next := if s.isDone id then (e.expected + 1) % 65536 else e.expected
        { s with weirs := s.weirs.set key { expected := next, last := s.cycle, failed := f } }

/-- `store_arrival` (R266): also a held store that has become the next. -/
def execStoreArrival (id : Nat) (s : State) : Out :=
  .next (s.comeIn id fun m s => match m.body, m.stage with
    | .access a ts, .sent => if a.kind.isStore ∧ !(s.toHost ts && a.kind != .store) then s.arriveStore id m a ts else s
    | .access a ts, .held => if a.kind.isStore then s.arriveStore id m a ts else s
    | _, _ => s)

/-- `atomic_perform` (R272): an `amo` at its ALU, one that has timed out with no effect (R258); a reduction commits through its
Weir (R274). On host memory either waits for the host's completion (R409). -/
def execAtomicPerform (id : Nat) (s : State) : Out :=
  .next (s.comeIn id fun m s => match m.body, m.stage with
    | .access a ts, .sent => match a.kind with
      | .amo .. =>
        if s.toHost ts then s
        else if s.holdsAt m.core.pid ts then s.hold id (firstUnit ts)
        else if m.detached then (s.countVisit m ts).setStage id (.done 0)
        else s.performAt id m a ts
      | .red .. => if s.toHost ts then s else s.arriveStore id m a ts
      | _ => s
    | _, _ => s)

/-- `weir_resend` (R266). -/
def execWeirResend (id : Nat) (s : State) : Out := .next (s.resend id Msg.isStore)

/-- Numbers of units, as a turn of the agenda names them. -/
def DUnit.number : DUnit → Nat
  | .block b => 4 * blockKey b
  | .loose p n => 4 * (p * 2 ^ 20 + n) + 1
  | .field e d => 4 * (e * 8 + d) + 2
  | .estate e => 4 * e + 3

/-- `close_marker_commit` (R267): in sequence, and its commit deletes the entry. -/
def execCloseMarkerCommit (id : Nat) (s : State) : Out :=
  .next (s.comeIn id fun m s => match m.body, m.stage with
    | .close st u, .sent =>
      let key : WeirKey := { core := m.core, ctx := m.ctx, stream := st, unit := u }
      if s.unitHolds u then s.hold id u
      else match Map.get? s.weirs key with
        | some e => if e.expected = m.seq then ({ s with weirs := Map.erase s.weirs key }).setStage id (.done 0) else s
        | none => s.setStage id (.done 0)
    | _, _ => s)

/-- The source's slot for a unit is open: its stores may be in flight. -/
def Ctx.slotOpen (x : Ctx) (stream : Nat) (u : DUnit) : Bool :=
  x.slots.any fun k => k.stream == stream && k.unit == u && !k.failed

/-- `weir_entry_timeout` (R267): the entry of a stream that has failed, idle for one timeout, goes, and the stores held in it are
discarded. -/
def execWeirEntryTimeout (c : CoreId) (n st u : Nat) (s : State) : Out :=
  .next (match s.weirs.find? fun (e : WeirKey × WeirEntry) => e.1.core == c && e.1.ctx == n && e.1.stream == st && e.1.unit.number == u with
    | none => s
    | some (key, e) =>
      if e.last + s.timeout c ≤ s.cycle ∧ (s.ctx c n).slotOpen st key.unit = false then
        let cause := if e.failed = 0 then 1 else e.failed
        { s with weirs := Map.erase s.weirs key
                 msgs := s.msgs.map fun m =>
                   if m.2.core = c ∧ m.2.ctx = n ∧ m.2.streamOf = st ∧ m.2.unit = some key.unit ∧ m.2.stage = .held
                       ∧ m.2.isStore = true
                   then (m.1, { m.2 with stage := .done cause }) else m }
      else s)

/-! ## What was held at an interface comes in (R72, R75) -/

/-- A sent message comes to its unit. -/
def State.arrival (s : State) (id : Nat) (m : Msg) : Out :=
  match m.body with
  | .post .. => execPostArrival id s
  | .close .. => execCloseMarkerCommit id s
  | .access a _ => (match a.kind with
    | .load | .rld => execLoadPerform id s
    | .amo .. => execAtomicPerform id s
    | _ => execStoreArrival id s)
  | _ => .next s

/-- The state an outcome gives, if it gives one. -/
def State.after (s : State) : Out → State
  | .next t => t
  | _ => s

/-- Messages held at an interface go on, in arrival order (R72 step 4, R75 step 3). -/
def State.releaseHeld (s : State) (which : Msg → Bool) : State :=
  let held := s.msgs.filter fun m => m.2.stage == .rehold && which m.2
  (sortBy (fun m => m.2.ord) held).foldl (fun s m => let s := s.setStage m.1 .sent
    s.after (s.arrival m.1 { m.2 with stage := .sent })) s

def State.releaseUnit (s : State) (u : DUnit) : State := s.releaseHeld fun m => m.unit == some u

/-! ## Back at the core -/

/-- The latency field of a reply is added to its group's accumulator; its value is free (R278, R279; log 14). -/
def State.addLatency (s : State) (c : CoreId) (group : Nat) : State :=
  match s.place c with
  | none => s
  | some p =>
    let (k, s) := s.useFresh
    s.modPhys p fun x =>
      let w := (x.lat.get 0 group).toNat
      let v := (w % 2 ^ 40 + (Config.latency k).toNat) % 2 ^ 40 + (w / 2 ^ 40 + 1) % 2 ^ 24 * 2 ^ 40
      { x with lat := x.lat.set group (BitVec.ofNat 64 v) }

/-- Group of a message's destination (R279); own-window accesses have none. -/
def State.groupOf (s : State) (m : Msg) : Option Nat :=
  match m.body with
  | .access a ts => if a.addr.extractLsb' 56 8 = 0xFC then none else ts.head?.map (·.group)
  | .post t _ _ => some (s.scratchTarget m.core t 0 0).group
  | _ => none

/-- A reply or acknowledgement reaches its core (R278, R382). -/
def State.arriveReply (s : State) (m : Msg) : State :=
  let s := match s.groupOf m with
    | some g => s.addLatency m.core g
    | none => s
  if m.targets.any Target.inCore ∨ m.body matches .post .. then s.countRcvd m.core else s

/-- The fault of an access that completed with an error: remote-load, or peer-fenced (R258, R373, R381). -/
def remoteFault (word addr : Word) (reg : Nat) : Nat × Info :=
  (if word.extractLsb' 0 16 = 2 then 0x10 else 0x0F, { addr := addr, r4 := word, r5 := BitVec.ofNat 64 reg })

/-- The registers of a message are no longer pending. -/
def Ctx.unpend (x : Ctx) (id : Nat) : Ctx := { x with pend := x.pend.filter fun p => p.2 != id }

/-- An answered access takes effect on its context: data and joins, a race fault, or an error (R257 to R260, R271). -/
def State.settleLoad (s : State) (id : Nat) (m : Msg) (a : Access) (e : Nat) : State :=
  let s := s.modCtx m.core m.ctx (·.unpend id)
  let site := some (m.pc, m.words)
  let s := match m.race with
    | some ws => s.owe m.core m.ctx { code := 0x13, info := { addr := a.addr, race := some ws }, site := site }
    | none =>
      if e = 0 then
        (s.modCtx m.core m.ctx fun x =>
          { x.deliver m.dst a.lane m.reply with fflags := x.fflags ||| BitVec.ofNat 64 m.flags }).applyJoins m.core m.ctx m.joins
      else if a.own then s.owe m.core m.ctx { code := 0x0C, info := { addr := a.addr }, site := site }
      else if m.mode = 2 then
        let (code, info) := remoteFault (errorWord e a.addr) a.addr m.dst.number
        s.owe m.core m.ctx { code := code, info := info, site := site }
      else s.modCtx m.core m.ctx fun x => x.markErr m.dst (errorWord e a.addr) a.addr
  s.unhold m.core m.ctx id

/-- The lanes of the gather a message belongs to, itself included. -/
def State.mates (s : State) (m : Msg) : List (Nat × Msg) :=
  (s.msgsOf m.core m.ctx).filter fun k => k.2.pc == m.pc && k.2.issued == m.issued && k.2.dst == m.dst

def Msg.laneOf (m : Msg) : Nat :=
  match m.body with
  | .access a _ => a.lane
  | _ => 0

/-- Every lane answered: the lowest race or error is the gather's; without one every lane is written (R258, R263). -/
def State.settleGather (s : State) (ms : List (Nat × Msg)) : State :=
  let code (m : Msg) : Nat := match m.stage with
    | .collected e => e
    | _ => 0
  let bad := ms.find? fun m => m.2.race.isSome || code m.2 != 0
  let s := ms.foldl (fun s m => s.dropMsg m.1) s
  let go (s : State) (m : Nat × Msg) : State := match m.2.body with
    | .access a _ => s.settleLoad m.1 m.2 a (code m.2)
    | _ => s
  match bad with
  | none => ms.foldl go s
  | some b =>
    let s := ms.foldl (fun s m => if m.1 = b.1 then s else
      (s.modCtx m.2.core m.2.ctx fun x => { x.unpend m.1 with holdOn := x.holdOn.filter (· != m.1) })) s
    go s b

/-- A load's or atomic's answer is applied; a gather waits for its last lane (R257, R263). -/
def State.answer (s : State) (id : Nat) (m : Msg) (a : Access) (e : Nat) : State :=
  match m.dst with
  | .lanes .. =>
    let s := s.modMsg id fun m => { m with stage := .collected e, tag := none }
    let ms := s.mates m
    if ms.all fun k => k.2.stage matches .collected _ then s.settleGather ms else s
  | _ => (s.dropMsg id).settleLoad id m a e

/-- An `rld.8` completes: the register becomes present, with its error if it met one; a race in enforcing mode leaves it absent
(R131, R258, R271). -/
def State.answerMail (s : State) (id : Nat) (m : Msg) (a : Access) (x : Reg) (e : Nat) : State :=
  let s := s.dropMsg id
  let s := match m.race with
    | some ws =>
      (s.modCore m.core fun k => k.setMail x { k.mail x with await := false }).owe m.core m.ctx
        { code := 0x13, info := { addr := a.addr, race := some ws }, site := some (m.pc, m.words) }
    | none =>
      let s := if e = 0 then s.applyJoins m.core m.ctx m.joins else s
      s.fillMail m.core x { value := if e = 0 then BitVec.ofNat 64 (leNat m.reply) else errorWord e a.addr
                            pres := true, err := e != 0 }
  s.unhold m.core m.ctx id

/-- A `probe` is answered: count and header reach its registers, or the registers are in error (R326). -/
def State.answerProbe (s : State) (id : Nat) (m : Msg) (d c : Reg) (e : Nat) : State :=
  let w (i : Nat) : Word := BitVec.ofNat 64 (leNat ((m.reply.drop (8 * i)).take 8))
  (((s.dropMsg id).modCtx m.core m.ctx (·.unpend id)).modCtx m.core m.ctx fun x =>
    if e = 0 then (if c = 0 then x.setG d (w 0) else ((x.setG d (w 0)).setG c (w 1)).setG (c + 1) (w 2))
    else
      let x := x.markErr (.g d .i64) (errorWord e 0) 0
      if c = 0 then x else (x.markErr (.g c .i64) (errorWord e 0) 0).markErr (.g (c + 1) .i64) (errorWord e 0) 0)

/-- A `take` is answered: its image is written, whatever the check finds, and its tile acquired (R300, R327). -/
def State.answerTake (s : State) (id : Nat) (m : Msg) (p : Word) (e : Nat) : State :=
  let s := s.dropMsg id
  let s :=
    if e ≠ 0 then
      if m.detached then s
      else
        let (code, info) := remoteFault (errorWord e p) p 0
        s.owe m.core m.ctx { code := code, info := info }
    else
      let ts := [s.scratchTarget m.core m.core (p.extractLsb' 0 19).toNat 64]
      let (v, s) := s.check { core := m.core, ctx := m.ctx, snap := m.snap, read := false, write := true, atomic := false
                              release := false, order := .plain, scope := .thread, pc := m.pc, mode := m.mode
                              always := true } ts
      let s := s.commitTargets ts m.reply
      if m.detached then s
      else
        let s := s.applyJoins m.core m.ctx m.joins
        match v.race with
        | some ws => s.owe m.core m.ctx { code := 0x13, info := { addr := p, race := some ws } }
        | none => s
  s.unhold m.core m.ctx id

/-- `load_reply` (R257): loads and atomics, and the answers of `probe` and `take`; remote loads are `rld_reply`'s. -/
def execLoadReply (id : Nat) (s : State) : Out :=
  .next (s.comeIn id fun m s => match m.body, m.stage with
    | .access a _, .done e =>
      if m.detached ∨ a.kind = .rld ∨ a.kind.isStore then s else (s.arriveReply m).answer id m a e
    | .probe _ _ d c, .done e => if m.detached then s else s.answerProbe id m d c e
    | .take _ _ p, .done e => s.answerTake id m p e
    | _, _ => s)

/-- `rld_reply` (R271). -/
def execRldReply (id : Nat) (s : State) : Out :=
  .next (s.comeIn id fun m s => match m.body, m.stage with
    | .access a _, .done e =>
      if m.detached ∨ a.kind ≠ .rld then s
      else match m.dst with
        | .x r => (s.arriveReply m).answerMail id m a r e
        | _ => (s.arriveReply m).answer id m a e
    | _, _ => s)

/-- `late_reply` (R249, R278, R370): discarded and counted, its latency too. -/
def execLateReply (id : Nat) (s : State) : Out :=
  .next (s.comeIn id fun m s => match m.stage with
    | .done _ =>
      if m.detached then
        let s := (s.dropMsg id).arriveReply m
        match s.place m.core with
        | some p => s.modPhys p fun x => { x with latereply := satInc x.latereply }
        | none => s
      else s
    | _ => s)

/-- Packets of a message that goes on under another number. -/
def State.renumber (s : State) (old new : Nat) : State :=
  let packet (p : Packet) : Packet := if p.cargo = .msg old then { p with cargo := .msg new } else p
  { s with estates := s.estates.map fun e => (e.1, { e.2 with links := e.2.links.map fun k =>
      (k.1, { k.2 with sendq := k.2.sendq.map packet, replay := k.2.replay.map fun x => { x with pkt := packet x.pkt } }) }) }

/-- Does the timeout of R249 run for the message: it has left, and is no `probe` or `take` (R326)? -/
def Msg.timed (m : Msg) : Bool :=
  m.tag.isSome && !m.translating && (match m.body with
    | .access .. => true
    | _ => false)

/-- `remote_request_timeout` (R249): the request completes with code 0x0001, its tag is quarantined, its reply will be late. -/
def execRemoteRequestTimeout (id : Nat) (s : State) : Out :=
  .next (s.withMsg id fun m s =>
    match m.body, m.tag with
    | .access a _, some (t, g) =>
      if m.timed ∧ m.issued + s.timeout m.core ≤ s.cycle then
        let s := s.modCore m.core fun k => { k with quarantine := k.quarantine ++ [(t, g, s.cycle + s.timeout m.core)] }
        let late := { m with detached := true, tag := none, race := none }
        let s1 := if m.detached then s
          else match m.dst with
            | .x r => s.answerMail id { m with race := none } a r 1
            | .lanes .. => s.answer id { m with race := none } a 1
            | _ => s.answer id { m with race := none } a 1
        -- the request itself goes on under a number of its own
        if m.detached then s1.modMsg id fun _ => late
        else
          let (new, s1) := s1.send late
          s1.renumber id new
      else s
    | _, _ => s)

/-- `tag_quarantine_end` (R249). -/
def execTagQuarantineEnd (c : CoreId) (t : Nat) (s : State) : Out :=
  .next (s.modCore c fun k => { k with quarantine := k.quarantine.filter fun q => !(q.1 == t && decide (q.2.2 ≤ s.cycle)) })

/-! ## Stores answered -/

/-- Stores of a slot not yet resolved. -/
def State.slotStores (s : State) (c : CoreId) (n st : Nat) (u : DUnit) : Bool :=
  (s.msgsOf c n).any fun m => m.2.isStore && m.2.streamOf == st && m.2.unit == some u

/-- A slot whose stores are resolved sends its close marker, or goes if its stream has failed (R267). -/
def State.closeSlot (s : State) (c : CoreId) (n st : Nat) (u : DUnit) : State :=
  match (s.ctx c n).slots.find? fun k => k.stream == st && k.unit == u with
  | none => s
  | some k =>
    if k.closing ∨ s.slotStores c n st u then s
    else if k.failed then s.modCtx c n fun x => { x with slots := x.slots.erase k }
    else
      let (_, s) := s.send { core := c, ctx := n, body := .close st u, stage := .sent, seq := k.next, issued := s.cycle }
      s.modCtx c n fun x => { x with slots := x.slots.map fun j => if j = k then { j with closing := true } else j }

/-- `store_ack` (R266): the count falls, the verdict is taken, the slot may close; a close marker's frees its slot (R267). -/
def execStoreAck (id : Nat) (s : State) : Out :=
  .next (s.comeIn id fun m s => match m.body, m.stage with
    | .close st u, .done _ =>
      (s.dropMsg id).modCtx m.core m.ctx fun x =>
        { x with slots := x.slots.filter fun k => !(k.stream == st && k.unit == u) }
    | .post .., .done 0 => ((s.dropMsg id).arriveReply m).unhold m.core m.ctx id
    | .access a ts, .done 0 =>
      if !a.kind.isStore then s
      else
        let s := (s.dropMsg id).arriveReply m
        let s := s.closeSlot m.core m.ctx a.stream (m.unit.getD (firstUnit ts))
        let s := match m.race with
          | some ws => s.owe m.core m.ctx
              { code := 0x13, info := { addr := a.addr, race := some ws }, site := some (m.pc, m.words) }
          | none => s
        s.unhold m.core m.ctx id
    | _, _ => s)

/-- Later stores of the stream towards the unit that can no longer commit are discarded and counted (R248). -/
def State.discardLater (s : State) (id : Nat) (m : Msg) (u : DUnit) : State :=
  let st := m.streamOf
  if st = 0 then s
  else
    let dead := (s.msgsOf m.core m.ctx).filter fun k =>
      decide (id < k.1) && k.2.isStore && k.2.streamOf == st && k.2.unit == some u && !(k.2.stage matches .done 0)
        && !k.2.translating
    dead.foldl (fun s k =>
      let a := match k.2.body with
        | .access a _ => a.addr
        | _ => 0
      ((s.dropMsg k.1).modCtx m.core m.ctx fun x =>
        { x.countFailure st 0 a u with holdOn := x.holdOn.filter (· != k.1) })) s

/-- In enforcing mode a failed store delivers its record at the store itself (R248, R259). -/
def State.oweFailure (s : State) (m : Msg) : State :=
  match (s.ctx m.core m.ctx).failureFor m.streamOf with
  | some f =>
    (s.modCtx m.core m.ctx fun x => { x with failures := x.failures.filter fun g => g.stream != f.stream }).owe m.core m.ctx
      { code := 0x14, info := f.info, site := some (m.pc, m.words) }
  | none => s

/-- An older store of the stream towards the unit has failed too, and its notice comes first: ADDR is the first failed store's. -/
def State.olderFailed (s : State) (id : Nat) (m : Msg) : Bool :=
  m.streamOf != 0 && (s.msgsOf m.core m.ctx).any fun k =>
    decide (k.1 < id) && k.2.isStore && k.2.streamOf == m.streamOf && k.2.unit == m.unit && (match k.2.stage with
      | .done (_ + 1) => true
      | _ => false)

/-- `store_failure_notice` (R269): the record is written, the unit's slot fails and may not reopen for one timeout (R267). -/
def execStoreFailureNotice (id : Nat) (s : State) : Out :=
  .next (s.comeIn id fun m s => match m.stage with
    | .done (e + 1) =>
      if !m.isStore ∨ s.olderFailed id m then s
      else if m.detached then (s.dropMsg id).arriveReply m
      else
        let addr := match m.body with
          | .access a _ => a.addr
          | _ => 0
        let u := m.unit.getD (.estate 0)
        let st := m.streamOf
        let s := (s.dropMsg id).arriveReply m
        let s := s.modCtx m.core m.ctx fun x => x.countFailure st (e + 1) addr u
        let s := s.discardLater id m u
        let s := if st = 0 then s else s.modCtx m.core m.ctx fun x =>
          { x with slots := x.slots.map fun k => if k.stream = st ∧ k.unit = u then { k with failed := true } else k
                   holds := x.holds ++ [{ stream := st, unit := u, until_ := s.cycle + s.timeout m.core }] }
        let s := s.closeSlot m.core m.ctx st u
        let s := if m.mode = 2 then s.oweFailure m else s
        s.unhold m.core m.ctx id
    | _ => s)

/-- `slot_reopen_hold_end` (R267). -/
def execSlotReopenHoldEnd (c : CoreId) (n st u : Nat) (s : State) : Out :=
  .next (s.modCtx c n fun x => { x with holds := x.holds.filter fun h =>
    !(h.stream == st && h.unit.number == u && decide (h.until_ ≤ s.cycle)) })

/-- The error code an unsent release atomic completes with, by the cause that stopped it (log 28). -/
def codeOfCause (c : Nat) : Nat := if c = 1 then 4 else if c = 3 then 3 else 2

/-- An own-window access kept behind a translation or an earlier lane is performed (R214, R238, R263). -/
def State.performLate (s : State) (id : Nat) (m : Msg) (a : Access) : State :=
  let site := some (m.pc, m.words)
  match s.actOwn m.core m.ctx a (a.addr.extractLsb' 0 19).toNat m.snap m.pc writeOf with
  | (.error (code, info), s) =>
    if a.kind.isStore then ((s.dropMsg id).owe m.core m.ctx { code := code, info := info, site := site }).unhold m.core m.ctx id
    else (s.modMsg id fun m => { m with race := info.race }).answer id { m with race := info.race } a (if code = 0x13 then 0 else 3)
  | (.ok .failed, s) => ((s.dropMsg id).modCtx m.core m.ctx fun x => x.countOwn 3 a.addr).unhold m.core m.ctx id
  | (.ok (.done old flags joins), s) =>
    let m' := { m with reply := old, flags := flags, joins := joins }
    if a.kind.isStore then (s.dropMsg id).unhold m.core m.ctx id
    else (s.modMsg id fun _ => m').answer id m' a 0

/-- The messages sent with one: the replicas of a release multicast go as one release (R264). -/
def State.together (s : State) (id : Nat) (m : Msg) : List (Nat × Msg) :=
  if m.isStore then
    (s.msgsOf m.core m.ctx).filter fun k => k.2.pc == m.pc && k.2.issued == m.issued && k.2.stage == .unsent && k.2.isStore
  else [(id, m)]

/-- A release that a record has stopped: in enforcing mode the record is delivered at it, else it is discarded and counted
(R248); its number in an ordered stream goes to the unit all the same, so that later stores there are next in sequence (log 127). -/
def State.stopRelease (s : State) (f : Failure) (ms : List (Nat × Msg)) (id : Nat) (m : Msg) (a : Access) : State :=
  if m.mode = 2 then
    let s := ms.foldl (fun s k => (s.dropMsg k.1).modCtx m.core m.ctx fun x =>
      { x.unpend k.1 with holdOn := x.holdOn.filter fun i => i != k.1 || i == id }) s
    let s := s.modCtx m.core m.ctx fun x => { x with failures := x.failures.filter fun g => g.stream != f.stream }
    (s.owe m.core m.ctx { code := 0x14, info := f.info, site := some (m.pc, m.words) }).unhold m.core m.ctx id
  else
    let s := ms.foldl (fun s _ => s.modCtx m.core m.ctx fun x => x.countLost f.stream) s
    if !a.kind.isStore then s.answer id m a (codeOfCause f.cause)
    else if a.stream = 0 then ms.foldl (fun s k => (s.dropMsg k.1).unhold m.core m.ctx k.1) s
    else ms.foldl (fun s k => (s.modMsg k.1 fun m => { m with stage := .sent, void := true, issued := s.cycle }).unhold m.core m.ctx k.1) s

/-- A message whose condition holds leaves. -/
def State.sendNow (s : State) (id : Nat) (m : Msg) : State :=
  let s := s.modMsg id fun m => { m with stage := .sent, issued := s.cycle }
  if m.targets.any Target.inCore then s.countSent m.core else s

/-- `release_send` (R245, R248): a release whose condition holds is sent, all its replicas at once (R264), unless a record of a
stream it waits for stops it; an access behind an older one to the same location goes when that is over (R235). -/
def execReleaseSend (id : Nat) (s : State) : Out :=
  .next (s.withMsg id fun m s => match m.body, m.stage with
    | .access a _, .unsent =>
      if !s.cleared m then s
      else if a.own then s.performLate id m a
      else if !a.order.releases then s.sendNow id m
      else
        let ms := s.together id m
        if !(ms.all fun k => s.cleared k.2) then s
        else match (s.ctx m.core m.ctx).failureFor a.stream with
          | some f => s.stopRelease f ms id m a
          | none => ms.foldl (fun s k => s.sendNow k.1 k.2) s
    | _, _ => s)

/-! ## Translation (R63, R65, R220 to R226) -/

/-- An older access of the core's replay queue has not issued yet: the queue issues in the original order across the contexts
(R73). -/
def State.behindReplay (s : State) (id : Nat) (m : Msg) : Bool :=
  m.replayed && s.msgs.any fun k => k.2.replayed && k.2.core == m.core && k.2.stage == .walk && decide (k.1 < id)
    && !(k.2.ctx == m.ctx && k.2.pc == m.pc && k.2.issued == m.issued)

/-- Messages of one instruction. -/
def Msg.mateOf (m k : Msg) : Bool := k.pc == m.pc && k.issued == m.issued

/-- The access is the next of its context, and of its core's replay queue, to complete translation (R63, R73). -/
def State.walksNext (s : State) (id : Nat) (m : Msg) : Bool :=
  m.stage == .walk && !s.behindReplay id m && !((s.walking m.core m.ctx).any fun k => decide (k.1 < id) && !m.mateOf k.2)

/-- The access has a walker (R222, R320). -/
def State.hasWalker (s : State) (id : Nat) (m : Msg) : Bool :=
  match s.walkCluster m.core with
  | some k => (s.misses k).contains id && decide (s.aheadOf k id < 8)
  | none => false

/-- The context parks: it awaits the page, and one request is appended for each page and context (R63, R65, R226). -/
def State.parkOn (s : State) (c : CoreId) (n va kind : Nat) (p : Page) (mig : Bool) : State :=
  let known := (s.ctx c n).waitPages.contains p
  let s := if known then s else s.pageRequest c va kind n mig
  let s := s.modCtx c n fun x =>
    { x with run := .parked, waitPages := if known then x.waitPages else x.waitPages ++ [p] }
  s.countPark c

/-- A message of the same instruction as the one of this number. -/
def State.mateId (s : State) (id : Nat) (k : Msg) : Bool :=
  match Map.get? s.msgs id with
  | some m => m.mateOf k
  | none => false

/-- The access, every lane of it, and every younger one not yet translated enter the replay queue (R63). -/
def State.parkFrom (s : State) (c : CoreId) (n id : Nat) : State :=
  { s with msgs := s.msgs.map fun m =>
      if m.2.core = c ∧ m.2.ctx = n ∧ m.2.stage = .walk ∧ !m.2.detached ∧ (id ≤ m.1 ∨ s.mateId id m.2 = true) then
        (m.1, { m.2 with stage := .parked, replayed := false, leafs := [], noFill := false })
      else m }

/-- The replay queue's accesses of a context go to the walkers again (R65, R73). -/
def State.replay (s : State) (c : CoreId) (n : Nat) : State :=
  { s with msgs := s.msgs.map fun m =>
      if m.2.core = c ∧ m.2.ctx = n ∧ m.2.stage = .parked then (m.1, { m.2 with stage := .walk, replayed := true }) else m }

/-- A walk that faults: the access and every younger one not translated have not happened, and the fault is precise at the
access (R223; log 27). -/
def State.faultWalk (s : State) (id : Nat) (m : Msg) (code : Nat) (info : Info) : State :=
  let group (k : Msg) : Bool := k.pc == m.pc && k.issued == m.issued
  let dead := (s.walking m.core m.ctx).filter fun k => group k.2 || decide (id ≤ k.1)
  let younger := walkCount (dead.filter fun k => !group k.2)
  let s := dead.foldl (fun s k =>
    let s := match k.2.dst with
      | .x r => s.modCore k.2.core fun q => q.setMail r { q.mail r with await := false }
      | _ => s
    (s.dropMsg k.1).modCtx m.core m.ctx fun x => { x.unpend k.1 with holdOn := x.holdOn.filter (· != k.1) }) s
  (s.modCtx m.core m.ctx fun x => { x with icount := x.icount - BitVec.ofNat 64 younger }).raiseFor m.core m.ctx
    { code := code, info := info, site := some (m.pc, m.words) }

/-- Where a translated access goes. -/
def State.placed (s : State) (m : Msg) : Option Located :=
  match m.body with
  | .access a _ => match s.locate m.core a.kind.xkind a.addr a.size m.leafs with
    | .walk _ => none
    | .fault .. => none
    | l => some l
  | _ => none

/-- Does the message's access take a tag (R249)? -/
def Msg.takesTag (m : Msg) : Bool :=
  match m.body with
  | .access a _ => !a.kind.isStore && !a.own
  | _ => false

/-- What a reconfiguration holds keeps no tag (R401). -/
def State.giveBack (s : State) (ms : List (Nat × Msg)) : State :=
  ms.foldl (fun s k => s.modMsg k.1 fun m => { m with tag := none }) s

/-- A free tag for an access that was held (R249, R401). -/
def State.retag (s : State) (m : Msg) : Option (Nat × Nat) × State :=
  if m.tag.isSome || !m.takesTag then (m.tag, s)
  else match (s.freeTags m.core).head? with
    | some (t, g) => (some (t, g), s.modCore m.core fun k => { k with tagGen := k.tagGen.set t g })
    | none => (none, s)

/-- Every access that was held finds a tag. -/
def State.tagsFor (s : State) (m : Msg) (ms : List (Nat × Msg)) : Bool :=
  let need := (ms.filter fun k => k.2.takesTag && k.2.tag.isNone).length
  need == 0 || (decide (need ≤ (s.freeTags m.core).length) && decide (s.loadsOut m.core m.ctx + need ≤ 16))

/-- A translated access leaves, or is discarded behind a failure; it first waits for what it overlaps (R235, R245, R265). -/
def State.launch (s : State) (id : Nat) (m : Msg) (a : Access) (ts : List Target) : State :=
  let x := s.ctx m.core m.ctx
  let u := firstUnit ts
  if a.kind.isStore ∧ !a.own ∧ x.discards a.stream u then
    ((s.dropMsg id).modCtx m.core m.ctx fun x => x.countFailure a.stream 0 a.addr u).unhold m.core m.ctx id
  else
    let (seq, x) := if a.kind.isStore ∧ !a.own then x.takeSeq a.stream u else (0, x)
    let (tag, s) := (s.modCtx m.core m.ctx fun _ => x).retag m
    let olap := ((s.overlapping m.core m.ctx ts).filter fun i => decide (i < id)).filter fun i =>
      a.kind.writes || (match Map.get? s.msgs i with
        | some k => k.writesMem
        | none => false)
    let after := m.after ++ olap
    let waits := a.order.releases || !olap.isEmpty
    let m' := { m with body := .access a ts, seq := seq, after := after, tag := tag, stage := if waits then .unsent else .sent }
    let s := s.modMsg id fun _ => { m' with issued := if a.own then m.issued else s.cycle }
    if waits then s
    else if a.own then s.performLate id m' a
    else if ts.any Target.inCore then s.countSent m.core else s

/-- Lanes in order; a store that finds no slot, and those behind it, leave later (R265). -/
def State.launchLanes : List (Nat × Msg) → State → State
  | [], s => s
  | (id, m) :: ms, s => match m.body, s.placed m with
    | .access a _, some (.own off) => State.launchLanes ms (s.launch id m a [s.scratchTarget m.core m.core off a.size])
    | .access a _, some (.remote ts) =>
      if a.kind.isStore ∧ !(s.ctx m.core m.ctx).discards a.stream (firstUnit ts)
          ∧ !s.slotOk m.core m.ctx a.stream (firstUnit ts) (some (m.pc, m.issued)) then s
      else State.launchLanes ms (s.launch id m a ts)
    | _, _ => s

/-- An instruction whose every lane is translated is sent (R263), unless a reconfiguration holds a lane (R401). -/
def State.launchAll (s : State) (m : Msg) : State :=
  let ms := (s.walking m.core m.ctx).filter fun k => m.mateOf k.2
  if !(ms.all fun k => (s.placed k.2).isSome) then s
  else if ms.any fun k => s.leadsOut m.core (s.placed k.2) then s.giveBack ms
  else if !s.tagsFor m ms then s
  else
    let ms := ms.map fun k => (k.1, { k.2 with
      leafs := match k.2.body with
        | .access a _ => s.leafsFor m.core a k.2.leafs
        | _ => []
      tcore := s.place m.core })
    let s := ms.foldl (fun s k => match k.2.body with
      | .access a _ => s.touchLeafs m.core a.kind.xkind k.2.leafs
      | _ => s) s
    State.launchLanes ms (ms.foldl (fun s k => s.modMsg k.1 fun _ => k.2) s)

/-- A walk has found a leaf: the access keeps it, and the TLBs are filled, unless a `tlbi` met the walk (R222, R224). -/
def State.walked (s : State) (id : Nat) (m : Msg) (kind : XKind) (w : Word) (p : Page) (loc : Nat) : State :=
  let (w, s) := s.markPte w loc kind
  let e : TlbEntry := { asid := s.asidOf m.core, page := p, leaf := w }
  let s := if m.noFill then s else s.fillTlb m.core kind e
  s.modMsg id fun m => { m with leafs := (m.leafs.filter fun t => t.page != p) ++ [e] }

/-- `page_walk_complete` (R220): the TLBs are filled and the access goes on, it parks, or it faults; `bad` is an uncorrectable
error read during the walk, at one of its entries (R223, R410; log 24). -/
def execPageWalkComplete (id : Nat) (bad : Bool) (s : State) : Out :=
  .next (s.withMsg id fun m s => match m.body with
    | .access a _ =>
      let c := m.core
      let kind := a.kind.xkind
      if !s.walksNext id m then s
      else match s.locate c kind a.addr a.size m.leafs with
        | .fault code va => s.faultWalk id m code { addr := va }
        | .walk va =>
          if !s.hasWalker id m then s
          else if bad then
            let ((l, loc, w), s) := s.walkError c va
            (s.readError loc).faultWalk id m 0x0E { addr := a.addr, r4 := BitVec.ofNat 64 l, r5 := w }
          else match s.walk c va kind with
          | .park p mig => (s.parkFrom c m.ctx id).parkOn c m.ctx va kind.code p mig
          | .fault code l w => s.faultWalk id m code { addr := a.addr, r4 := BitVec.ofNat 64 l, r5 := w }
          | .leaf w p loc =>
            let s := s.walked id m kind w p loc
            s.withMsg id fun m s => s.launchAll m
        | _ => s.launchAll m
    | _ => s)

/-- The page is there: every context of the ASID that awaits a page holding the address loses it, and one that awaits no more
is ready to replay (R65, R225). -/
def State.resolveCtx (s : State) (c : CoreId) (n va : Nat) : Bool × State :=
  let x := s.ctx c n
  if x.waitPages.any (·.has va) then
    let left := x.waitPages.filter fun p => !p.has va
    let s := s.modCtx c n fun x => { x with waitPages := left }
    if left.isEmpty ∧ s.isResident c then
      (true, (s.replay c n).ready c n)
    else (true, s)
  else (false, s)

/-- Cores of a partition that the state lists. -/
def State.coresOf (s : State) (p : Nat) : List CoreId := (Map.keys s.cores).filter fun c => c.pid == p

end Sys2Proof.Machine
end

