-- ==== Sys2Proof/Machine/Sync.lean ====
section
/-! DEFINITION. Semaphores and barriers (R343 to R355): their instructions, the semaphore unit's cycle, and starvation
records. -/

namespace Sys2Proof.Machine

/-! ## Semaphores -/

def Core.semOf (k : Core) (i : Nat) : Sem := k.sem.get {} i
def Core.setSem (k : Core) (i : Nat) (m : Sem) : Core := { k with sem := k.sem.set i m }

/-- What a wait of scope `mine` joins: the vector, under the condition of R242; a lost one saturates to its scope (R252, R286,
R287). -/
def State.acquireSem (s : State) (c : CoreId) (n : Nat) (r : Option HeldRef) (mine : Scope) : State :=
  match r with
  | none => s
  | some r => match s.vec r with
    | some h => if s.syncs c h mine then (s.touchVec r).joinCtx c n h else s
    | none => s.saturateCtx c n r.scope.level

/-- The same for a command, whose clocks are its own (R250, R252). -/
def State.acquireSnap' (s : State) (c : CoreId) (v : Snap) (r : Option HeldRef) (mine : Scope) : Snap × State :=
  match r with
  | none => (v, s)
  | some r => match s.vec r with
    | some h => if s.syncs c h mine then ({ v with ents := joinHeld v.who v.ents h }, s.touchVec r) else (v, s)
    | none => ({ v with ents := saturate 1 r.scope.level v.ents }, s)

/-- The physical core a core runs on, or ran on last while its block is absent (R361; log 128). -/
def State.physOf (s : State) (c : CoreId) : Option (Nat × Nat × Nat) :=
  match s.place c, c.block with
  | some q, _ => some q
  | none, some b => (s.block b).was.map fun k => (k.1, k.2.1, meshOf k.2.2 (numCore c.num))
  | none, none => none

/-- A saturation is noted in `smovf`, which stays with the physical core (R361). -/
def State.noteSaturation (s : State) (c : CoreId) (sm : Nat) : State :=
  match s.physOf c with
  | some q => s.modPhys q fun x =>
      { x with smovf := (x.smovf &&& 0xFFFFFFFF00000000#64) + 0x100000000 + 0x100 + BitVec.ofNat 64 sm }
  | none => s

/-- A signal is added, saturating at 0xFFFF with a note in `smovf`; a release joins the vector (R252, R343, R361). -/
def State.addSignal (s : State) (c : CoreId) (g : Sig) : State :=
  let m := (s.core c).semOf g.sm
  let (vec, s) := match g.vec with
    | none => (m.vec, s)
    | some v => s.contributeRef (s.dieOf c) m.vec v
  let s := s.modCore c fun k => k.setSem g.sm { count := min 0xFFFF (m.count + g.inc), vec := vec }
  if m.count + g.inc ≤ 0xFFFF then s else s.noteSaturation c g.sm

/-- `swait` of the context at issue passes (R346). -/
def State.passSwait (s : State) (o : OpS) : State :=
  let m := s.myCore.semOf o.idx.toNat
  let s := s.modMyCore (·.setSem o.idx.toNat { m with count := m.count - o.count.toNat })
  (if o.order.acquires then s.acquireSem s.cur.1 s.cur.2 m.vec o.scope else s).retire 1

/-- Can a clause of this index and threshold pass (R77)? -/
def Core.clausePasses (k : Core) (w : EW) : Bool := decide (w.wThr.toNat ≤ (k.semOf w.wIdx.toNat).count)

/-- A wait clause passes: its units go, and with the A flag its vector is joined (R77, R252). -/
def State.passClause (s : State) (c : CoreId) (w : EW) (v : Snap) : Snap × State :=
  let m := (s.core c).semOf w.wIdx.toNat
  if w.wThr = 0 then (v, s)
  else
    let (v, s) := if w.fa then s.acquireSnap' c v m.vec w.scope else (v, s)
    (v, s.modCore c (·.setSem w.wIdx.toNat { m with count := m.count - w.wThr.toNat }))

/-- The clause of a command or request of this number passes if it can. -/
def State.passEngine (s : State) (c : CoreId) (ord : Nat) : State :=
  let k := s.core c
  match k.cmds.find? fun x => x.1 == ord && !x.2.passed with
  | some (_, x) =>
    if k.clausePasses x.w then
      let (v, s) := s.passClause c x.w x.snap
      s.modCore c fun k => { k with cmds := k.cmds.map fun y => if y.1 = ord then (ord, { y.2 with passed := true, snap := v }) else y }
    else s
  | none =>
    match k.mreqs.find? fun x => x.ord == ord && x.passed.isNone with
    | some x =>
      if k.clausePasses x.w then
        let (v, s) := s.passClause c x.w x.snap
        s.modCore c fun k => { k with mreqs := k.mreqs.map fun y =>
          if y.ord = ord then { y with passed := some s.cycle, snap := v } else y }
      else s
    | none => s

/-- Numbers in ascending order. -/
def insertNat (n : Nat) : List Nat → List Nat
  | [] => [n]
  | m :: ms => if n ≤ m then n :: m :: ms else m :: insertNat n ms

def sortNats : List Nat → List Nat
  | [] => []
  | n :: ns => insertNat n (sortNats ns)

/-- Commands and requests of a core in command order. -/
def Core.engineOrder (k : Core) : List Nat := sortNats (k.cmds.map Prod.fst ++ k.mreqs.map (·.ord))

/-- Steps 1 and 2 of R344. In an image signals are added and no wait passes (R70); those that come while the block is on its way
in are held (R72). -/
def State.semCycle (s : State) (c : CoreId) : State :=
  if s.blockHolds c.block then s
  else
  let gs := (s.core c).sigs
  let s := s.modCore c fun k => { k with sigs := [] }
  let s := [0, 1, 2].foldl (fun s p => (gs.filter fun g => g.port == p).foldl (fun s g => s.addSignal c g) s) s
  let s := if s.isResident c ∧ !s.isFenced c then (s.core c).engineOrder.foldl (fun s i => s.passEngine c i) s else s
  (List.range 11).foldl (fun s n => match (s.ctx c n).run with
    | .waiting (.swait o) =>
      if o.count.toNat ≤ ((s.core c).semOf o.idx.toNat).count then s.wake c n fun _ s => s.passSwait o else s
    | _ => s) s

/-- A `swait` of the core could pass. -/
def Core.swaitDue (k : Core) : Bool := k.ctxs.any fun x => match x.2.run with
  | .waiting (.swait o) => decide (o.count.toNat ≤ (k.semOf o.idx.toNat).count)
  | _ => false

/-- `semaphore_cycle` (R344). -/
def execSemaphoreCycle (c : CoreId) (s : State) : Out := .next (s.semCycle c)

/-- `swait` (R346): it takes part in step 2 of the cycle it issues in. -/
def execSwait (o : OpS) (s : State) : Out := .next ((s.wait (.swait o)).semCycle s.cur.1)

/-- The oldest failure record of the context, for a release of every stream (R270, R347, R352). -/
def State.oldestFailure (s : State) : Option Failure := s.me.failures.head?

/-- `ssig` (R347). -/
def execSsig (o : OpS) (s : State) : Out :=
  let g : Sig := { sm := o.idx.toNat, inc := o.count.toNat, port := 2 }
  .next (
    if o.order.releases then
      if !(s.before s.cur.1 s.cur.2 0).isEmpty then s.stall
      else match s.oldestFailure with
        | some f => s.deliverFailure f
        | none =>
          let (v, s) := s.release s.cur.1 s.cur.2 o.scope
          (s.modMyCore fun k => { k with sigs := k.sigs ++ [{ g with vec := some v }] }).retire 1
    else (s.modMyCore fun k => { k with sigs := k.sigs ++ [g] }).retire 1)

/-- `stry` (R348): step 3 of its cycle (R344). -/
def execStry (o : OpS) (s : State) : Out :=
  let s := s.semCycle s.cur.1
  let m := s.myCore.semOf o.idx.toNat
  .next (
    if o.count.toNat ≤ m.count then
      let s := s.modMyCore (·.setSem o.idx.toNat { m with count := m.count - o.count.toNat })
      (if o.order.acquires then s.acquireSem s.cur.1 s.cur.2 m.vec o.scope else s).putG o.d 1
    else s.putG o.d 0)

/-- `smrd` (R348). -/
def execSmrd (o : OpS) (s : State) : Out :=
  let s := s.semCycle s.cur.1
  .next (s.putG o.d (BitVec.ofNat 64 (s.myCore.semOf o.idx.toNat).count))

/-- `smset` (R348): the vector is kept. -/
def execSmset (o : OpS) (s : State) : Out :=
  let s := s.semCycle s.cur.1
  .next ((s.modMyCore fun k => k.setSem o.idx.toNat
    { k.semOf o.idx.toNat with count := (s.readG o.a).toNat % 65536 }).retire 1)

/-! ## Barriers -/

/-- Name of a barrier: a block's, or a field's by partition, estate and virtual field (R350). -/
inductive BarId where
  | blk (b : BlockId) (i : Nat)
  | fld (pid e f i : Nat)
deriving DecidableEq, Repr

/-- A block barrier at reset (R350). -/
def blockBarrier : Barrier := { mask := 0xFFFF, per := 1 }
/-- A field barrier at reset (R350). -/
def fieldBarrier : Barrier := { mask := 0, per := 0 }

def State.barrier (s : State) : BarId → Barrier
  | .blk b i => (s.block b).bars.get blockBarrier i
  | .fld p e f i => (s.part p).fbars.get fieldBarrier (e, f, i)

def State.setBarrier (s : State) (k : BarId) (x : Barrier) : State :=
  match k with
  | .blk b i => s.modBlock b fun q => { q with bars := q.bars.set i x }
  | .fld p e f i => s.modPart p fun q => { q with fbars := q.fbars.set (e, f, i) x }

/-- The barrier a core's instruction names; none for a block barrier of a loose core (R345). -/
def barOf (c : CoreId) (fld : Bool) (i : Nat) : Option BarId :=
  if fld then some (.fld c.pid (numEstate c.num) (numField c.num) i) else c.block.map fun b => .blk b i

/-- A core's member number (R281, R350). -/
def memberOf (c : CoreId) (fld : Bool) : Nat := if fld then Party.idx { vcore := c.num } 3 else numCore c.num

/-- Is a core a member of the barrier's block or field? -/
def BarId.has (k : BarId) (c : CoreId) : Bool :=
  match k with
  | .blk b _ => c.block == some b
  | .fld p e f _ => c.isVirt && c.pid == p && numEstate c.num == e && numField c.num == f

def BarId.isFld : BarId → Bool
  | .blk .. => false
  | .fld .. => true

def BarId.idx : BarId → Nat
  | .blk _ i => i
  | .fld _ _ _ i => i

/-- Arrivals that complete a generation (R350). -/
def Barrier.need (b : Barrier) : Nat := (bitsOf b.mask).length * b.per

/-- An arrival's acquire at its passing; the mark goes (R253, R352). -/
def State.passBar (s : State) (join : Option HeldRef) : State :=
  let s := s.acquireRef s.cur.1 s.cur.2 join fun r => r.scope.level
  (s.modMe fun x => { x with arrived := none }).retire 1

/-- Contexts that hold the mark of a barrier's generation. -/
def State.marked (s : State) (k : BarId) (g : Nat) : List (CoreId × Nat) :=
  s.cores.flatMap fun p => if k.has p.1 then
      ((List.range 11).filter fun n => match (p.2.ctx n).arrived with
        | some m => m.fld == k.isFld && m.idx == k.idx && m.gen == g && m.done.isNone
        | none => false).map fun n => (p.1, n)
    else []

/-- Does the context wait at a `bar` of this barrier? -/
def State.atBar (s : State) (c : CoreId) (n : Nat) (k : BarId) : Bool :=
  match (s.ctx c n).run with
  | .waiting (.bar f o) => f == k.isFld && o.idx.toNat == k.idx
  | _ => false

/-- A generation completes: every arrival acquires its join, at once where it waits at the `bar` in the machine, else when it
issues the `bar` again (R253, R352). -/
def State.completeBar (s : State) (k : BarId) : State :=
  let b := s.barrier k
  let who := s.marked k b.gen
  let s := s.setBarrier k { b with gen := (b.gen + 1) % 65536, total := 0, arr := [], join := none, since := 0, reported := false }
  who.foldl (fun s p =>
    let s := s.modCtx p.1 p.2 fun x => { x with arrived := x.arrived.map fun m => { m with done := some b.join } }
    if s.atBar p.1 p.2 k then s.wake p.1 p.2 fun _ s => s.passBar b.join else s) s

/-- Complete the generation if its arrivals suffice. -/
def State.tryBar (s : State) (k : BarId) : State :=
  let b := s.barrier k
  if b.per ≠ 0 ∧ b.mask ≠ 0 ∧ b.total = b.need then s.completeBar k else s

/-- A fault record of R373 for barrier-excess. -/
def Barrier.excess (b : Barrier) (k : BarId) (m : Nat) : Info :=
  { r4 := BitVec.ofNat 64 (k.idx % 16 + (if k.isFld then 16 else 0) + m % 64 * 32 + b.gen * 65536) }

/-- `bar` (R352). -/
def execBar (fld : Bool) (o : OpS) (s : State) : Out :=
  let c := s.cur.1
  let n := s.cur.2
  .next (match barOf c fld o.idx.toNat with
  | none => s.raise 0x01
  | some k =>
    let b := s.barrier k
    let m := memberOf c fld
    match (match s.me.arrived with
      | some a => if a.fld = fld ∧ a.idx = k.idx then some a else none
      | none => none) with
    | some a => (match a.done with
      | some join => s.passBar join
      | none => s.wait (.bar fld o))
    | none =>
      if b.per = 0 ∨ !b.mask.getLsbD m ∨ b.arr.get 0 m = b.per then s.raise 0x15 (b.excess k m)
      else if !(s.before c n 0).isEmpty then s.stall
      else match s.oldestFailure with
        | some f => s.deliverFailure f
        | none =>
          let (v, s) := s.release c n (if fld then .fld else .blk)
          let (join, s) := s.contributeRef (s.dieOf c) b.join v
          let s := s.setBarrier k { b with arr := b.arr.set m (b.arr.get 0 m + 1), total := b.total + 1, join := join
                                           since := if b.total = 0 then s.cycle else b.since }
          let s := (s.modMe fun x => { x with arrived := some { fld := fld, idx := k.idx, gen := b.gen } }).wait (.bar fld o)
          s.tryBar k)

/-- Units of a field that have no core of the partition (R351). -/
def State.noSuchUnit (s : State) (p e f m : Nat) : Bool :=
  if m < 60 then !s.hasBlock { pid := p, estate := e, field := f, vblock := m }
  else !((s.part p).loose.any fun q => numEstate q.1 == e && numField q.1 == f && numBlock q.1 / 16 == m - 60)

/-- `barcfg` (R351). -/
def execBarcfg (fld : Bool) (o : OpS) (s : State) : Out :=
  let c := s.cur.1
  .next (match barOf c fld o.idx.toNat with
  | none => s.raise 0x01
  | some k =>
    let b := s.barrier k
    let m := s.readG o.a
    if b.total ≠ 0 then s.putG o.d 1
    else if m = 0 ∨ (!fld ∧ m.toNat / 65536 ≠ 0)
        ∨ (fld ∧ (bitsOf m).any fun u => s.noSuchUnit c.pid (numEstate c.num) (numField c.num) u) then s.putG o.d 2
    else (s.setBarrier k { b with mask := m, per := o.count.toNat }).putG o.d 0)

/-! ## Starvation (R354) -/

/-- A starvation record of the partition; the newest stays (R354, R378). -/
def State.starvation (s : State) (p : Nat) (e kind cause index fld vblock gen total : Nat) : State :=
  (s.modPart p fun x =>
    { x with sstarve0 := BitVec.ofNat 64 (kind + cause * 2 ^ 2 + index * 2 ^ 3 + fld * 2 ^ 7 + vblock * 2 ^ 10 + gen * 2 ^ 16
                          + total % 65536 * 2 ^ 32)
             sstarve1 := s.tbaseOf e }).notice p noticeStarve

/-- The record of one barrier's generation. -/
def State.starveBar (s : State) (k : BarId) (cause : Nat) : State :=
  let b := s.barrier k
  let s := s.setBarrier k { b with reported := true }
  match k with
  | .blk x i => s.starvation x.pid x.estate 1 cause i x.field x.vblock b.gen b.total
  | .fld p e f i => s.starvation p e 2 cause i f 0 b.gen b.total

/-- A generation with a waiting member that has not been reported. -/
def State.starving (s : State) (k : BarId) : Bool := decide (0 < (s.barrier k).total) && !(s.barrier k).reported

/-- Barriers of a partition that the state lists. -/
def State.barriersOf (s : State) (p : Nat) : List BarId :=
  (s.blocks.flatMap fun x => if x.1.pid = p then x.2.bars.map fun y => BarId.blk x.1 y.1 else [])
    ++ (s.part p).fbars.map fun x => .fld p x.1.1 x.1.2.1 x.1.2.2

/-- `barrier_watchdog` (R354): BARWD cycles with a waiting member. -/
def execBarrierWatchdog (pid : Nat) (blk : Option BlockId) (e f i : Nat) (s : State) : Out :=
  let k : BarId := match blk with
    | some b => .blk b i
    | none => .fld pid e f i
  let wd := (s.part pid).barwd.toNat
  .next (if wd ≠ 0 ∧ s.starving k ∧ (s.barrier k).since + wd ≤ s.cycle then s.starveBar k 1 else s)

end Sys2Proof.Machine
end

