-- ==== Sys2Proof/Machine/Engine.lean ====
section
/-! DEFINITION. What the copy engine and the matrix unit share: accesses made for a thread (R64, R204, R250, R331), status and
signals (R96, R98). -/

namespace Sys2Proof.Machine

/-- Where an engine's access goes, or why not (R331). -/
inductive EngAddr where
  /-- the walkers are taken (R222, R320), or a reconfiguration or a move holds the access (R75, R400) -/
  | wait
  | ok (ts : List Target)
  | park (page : Page) (va : Nat) (mig : Bool)
  | fail (code : Nat)
deriving DecidableEq, Repr

/-- Codes of R207 and R332. -/
def engDone := 1
def engPoison := 3
def engFault := 4
def engNoRoute := 5
def engFenced := 6
def engRace := 7
def engPoisoned := 9

/-- Locate bytes for an engine, walking as it needs to. -/
def State.engLocate (s : State) (w : Waiter) (kind : XKind) (a : Word) (n : Nat) : Nat → EngAddr × State
  | 0 => (.fail engFault, s)
  | fuel + 1 =>
    let c := w.core
    match s.locate c kind a n with
    | .own off => (.ok [s.scratchTarget c c off n], s)
    | .remote ts =>
      if ts.any fun t => s.cut c.estate t.estate 3 || s.cut t.estate c.estate 3 then (.fail engNoRoute, s)
      else if (ts.any fun t => s.fabricHolds c t.estate) ∨ s.holdsAt c.pid ts = true then (.wait, s)
      else (.ok ts, if c.isVirt ∧ a.toNat / 2 ^ 56 = 0 then
          (ts.foldl (fun s t => (s.countMiss c kind t.va false).touchTlb c kind t.va) s).leaveQueue w
        else s)
    | .fault code _ => (.fail (if code = 0x09 then engNoRoute else engFault), s)
    | .walk va =>
      if !s.walkerFree w then (.wait, s.joinQueue w)
      else
      let s := (s.countMiss c kind va true).leaveQueue w
      match s.walk c va kind with
      | .park p mig => (.park p va mig, s)
      | .fault .. => (.fail engFault, s)
      | .leaf e p loc =>
        let (e, s) := s.markPte e loc kind
        (s.fillTlb c kind { asid := s.asidOf c, page := p, leaf := e }).engLocate w kind a n fuel

/-- Four walks at most: an access meets two pages. -/
def engFuel := 5

/-- The thread's accesses before a command's issue come before the command's writes: one to the same place is still under way
(R250). -/
def State.behindThread (s : State) (c : CoreId) (n ord : Nat) (a : Word) (len : Nat) (ts : List Target) : Bool :=
  (s.accesses c n).any fun m => decide (m.1 < ord) &&
    (((s.spansOf m.2).any fun x => ts.any fun t => overlaps x.1 x.2 t.loc t.len)
      || (m.2.translating && (match m.2.body with
        | .access x _ => overlaps x.addr.toNat x.size a.toNat len
        | _ => false)))

/-- Where an engine writes, once nothing of its thread is in the way. -/
def State.engDest (s : State) (w : Waiter) (n ord : Nat) (a : Word) (len : Nat) : EngAddr × State :=
  match s.engLocate w .write a len engFuel with
  | (.ok ts, s) => (if s.behindThread w.core n ord a len ts then .wait else .ok ts, s)
  | r => r

/-- The check an engine's access is put to: made with its thread's identity and clocks (R250), under the
mode in force at the piece: DESIGN CHOICE (R300; log 139). -/
def State.engCheck (s : State) (c : CoreId) (n : Nat) (v : Snap) (pc : Word) (write : Bool) : Check :=
  { core := c, ctx := n, snap := v, read := !write, write := write, atomic := false, release := false, order := .plain
    scope := .thread, pc := pc, cmd := true, mode := s.modeOf c }

/-- A piece for another estate leaves as a packet on VC3, and is written there once it has come; none where it stays (R396). -/
def State.pieceOut (s : State) (c : CoreId) (id : Nat) (ts : List Target) (bs : List Byte) : Option State :=
  (ts.find? fun t => t.estate != c.estate).map fun t => s.packet c.estate t.estate 3 (.piece c id) bs

/-- What has been read at another estate leaves there as a packet on VC3. -/
def State.pieceBack (s : State) (c : CoreId) (id : Nat) (ts : List Target) (bs : List Byte) : Option State :=
  (ts.find? fun t => t.estate != c.estate).map fun t => s.packet t.estate c.estate 3 (.piece c id) bs

/-- Messages an engine's piece makes between cores (R382). -/
def State.engCount (s : State) (c : CoreId) (ts : List Target) : State :=
  match ts.find? Target.inCore with
  | some t => let d := t.coreOf c.pid
              if d = c then s else (s.countSent c).countRcvd d
  | none => s

/-- An engine's write: the code of its failure, if any (R204, R331). One turn performs it whole, aligned or not: DESIGN CHOICE
(R231; log 13). -/
def State.engWrite (s : State) (c : CoreId) (n : Nat) (v : Snap) (pc : Word) (ts : List Target) (bs : List Byte) :
    Option Nat × State :=
  if s.unitFenced (firstUnit ts) then (some engFenced, s)
  else if s.poisonStops .store ts then (some engPoisoned, s)
  else
    let (r, s) := s.check (s.engCheck c n v pc true) ts
    if r.commits then (none, (s.commitTargets ts bs).engCount c ts) else (some engRace, s)

/-- An engine's read: data, whether a line of it is poisoned, or the code of its failure (R331). In reporting mode a read that races
finds the bytes in memory, not an older candidate: DESIGN CHOICE (R234; log 13). -/
def State.engRead (s : State) (c : CoreId) (n : Nat) (v : Snap) (pc : Word) (ts : List Target) :
    Except Nat (List Byte × Bool) × State :=
  if s.unitFenced (firstUnit ts) then (.error engFenced, s)
  else
    let (r, s) := s.check (s.engCheck c n v pc false) ts
    let bs := peekTargets s ts
    if r.commits then (.ok (bs, ts.any fun t => s.poisonedAt t.loc t.len), s) else (.error engRace, s)

/-- The signal clause, with the release's clocks where R is set (R96, R98, R252). -/
def State.engSignal (s : State) (c : CoreId) (w : EW) (v : Snap) (port : Nat) (cmd : Option Nat := none) : State :=
  if w.sInc = 0 then s
  else s.modCore c fun k => { k with sigs := k.sigs ++
    [{ sm := w.sIdx.toNat, inc := w.sInc.toNat, port := port, vec := if w.fr then some { v with scope := w.scope } else none
       cmd := cmd }] }

/-- Clocks of a command at issue; the R flag's release increments its counters now (R250, R282). -/
def State.engIssue (s : State) (w : EW) : Snap × State :=
  if w.fr then s.release s.cur.1 s.cur.2 w.scope else (s.snapshot s.cur.1 s.cur.2 .thread, s)

/-- Stores of the context not yet acknowledged, for the O flag (R98). -/
def State.storesOut (s : State) (c : CoreId) (n : Nat) : List Nat :=
  ((s.msgsOf c n).filter fun m => m.2.isStore).map Prod.fst

/-- Have these messages gone? -/
def State.allGone (s : State) (ids : List Nat) : Bool := ids.all fun i => (Map.get? s.msgs i).isNone

/-- Own-scratchpad window with an aligned offset (R202, R310, R335). -/
def ownAligned (a : Word) (n : Nat) : Bool :=
  a.extractLsb' 56 8 == 0xFC && a.extractLsb' 19 37 == 0 && alignedTo a n

/-- An older access of the context to those bytes of its scratchpad is under way (R235). -/
def State.ownBusy (s : State) (a : Word) (n : Nat) : Bool :=
  !(s.overlapping s.cur.1 s.cur.2 [s.scratchTarget s.cur.1 s.cur.1 (a.extractLsb' 0 19).toNat n]).isEmpty

/-- A plain own-window access of the instruction at issue, beside what else it does: false where it has faulted, or waits for an
older access of the context to those bytes (R202, R235, R310, R311, R323). -/
def State.ownAct (s : State) (a : Word) (k : AKind) (data : List Byte) (n : Nat) : Bool × State :=
  let off := (a.extractLsb' 0 19).toNat
  if s.ownBusy a n then (false, s.stall)
  else match s.performOwn { acc := { kind := k, addr := a, size := n, data := data }, loc := .own off } off
    (s.snapshot s.cur.1 s.cur.2 .thread) false writeOf with
  | (some (code, info), s) => (false, s.raise code info)
  | (none, s) => (true, s)

/-- The bytes read, where there are any. -/
def State.ownRead (s : State) (a : Word) (n : Nat) : Bool × List Byte × State :=
  let (ok, s) := s.ownAct a .load [] n
  (ok, s.peekBytes (scratchLoc s.cur.1 (a.extractLsb' 0 19).toNat) n, s)

end Sys2Proof.Machine
end

