-- ==== Sys2Proof/Machine/Matrix.lean ====
section
/-! DEFINITION. The cluster matrix unit: class 0xA (R199 to R206), slots and claims (R186 to R189), the format context (R194 to
R197), the arithmetic of a step (R154) and the unit's own steps (R198, R203 to R207). -/

namespace Sys2Proof.Machine

/-! ## Claims -/

def Claim.holds (m : Nat) : Claim → Bool
  | .free => false
  | .excl n => n == m
  | .shared ms => ms.contains m

/-- The claim a core asks for, by the slot's state (R200). -/
def Claim.want (sh : Bool) (m : Nat) : Claim → Option Claim
  | .free => some (if sh then .shared [m] else .excl m)
  | .excl n => if n = m then some (if sh then .shared [m] else .excl m) else none
  | .shared ms =>
    if sh then some (.shared (if ms.contains m then ms else ms ++ [m])) else if ms = [m] then some (.excl m) else none

/-- One holder less (R201). -/
def Claim.drop (m : Nat) : Claim → Claim
  | .excl _ => .free
  | .shared ms => if ms.filter (· != m) = [] then .free else .shared (ms.filter (· != m))
  | .free => .free

def Block.claim (b : Block) (i : Nat) : Claim := b.claims.get .free i

/-- Range of slots in bits [11:0] of a command (R199). -/
def slotRange (cmd : BitVec 25) : List Nat :=
  (List.range ((cmd.extractLsb' 6 6).toNat + 1)).map ((cmd.extractLsb' 0 6).toNat + ·)

/-- Has the core a `cpy.slot` on its way that names one of these slots (R187, R201)? -/
def Core.filling (k : Core) (ns : List Nat) (handing : Bool) : Bool :=
  k.cmds.any fun x => match x.2.kind with
    | .slot n => ns.contains n && (handing || !x.2.handing)
    | _ => false

/-- Slots an `mmac` names. -/
def MOp.slots : MOp → List Nat
  | .mmac _ a b => [a, b]
  | _ => []

/-- Has the core an operation outstanding that reads one of these slots (R201)? -/
def Core.reading (k : Core) (ns : List Nat) : Bool :=
  (k.mreqs.any fun r => r.op.slots.any ns.contains)
    || k.cmds.any fun x => match x.2.link with
      | some r => r.op.slots.any ns.contains
      | none => false

/-- `mclaim` and its variants (R200): the range is granted whole or not at all. -/
def State.claimSlots (s : State) (o : OpE) (sh try_ : Bool) : State :=
  match s.cur.1.block with
  | none => s.raise 0x1D
  | some b =>
    let m := numCore s.cur.1.num
    let ns := slotRange o.cmd
    match ns.find? fun n => (((s.block b).claim n).want sh m).isNone with
    | some n => if try_ then s.putG o.d 0 2 else s.raise 0x1F { r4 := BitVec.ofNat 64 n }
    | none =>
      if sh ∧ s.myCore.filling (ns.filter fun n => (s.block b).claim n == .excl m) false then s.stall
      else
        let s := s.modBlock b fun k => { k with claims := ns.foldl (fun t n =>
          t.set n (((k.claim n).want sh m).getD (k.claim n))) k.claims }
        if try_ then s.putG o.d 1 2 else s.retire 2

/-- `mclaim` (R200). -/
def execMclaim (o : OpE) (s : State) : Out := .next (s.claimSlots o false false)
/-- `mclaim.sh` (R200). -/
def execMclaimSh (o : OpE) (s : State) : Out := .next (s.claimSlots o true false)
/-- `mclaim.try` (R200). -/
def execMclaimTry (o : OpE) (s : State) : Out := .next (s.claimSlots o false true)
/-- `mclaim.shtry` (R200). -/
def execMclaimShtry (o : OpE) (s : State) : Out := .next (s.claimSlots o true true)

/-- `mrel` (R201). -/
def execMrel (o : OpE) (s : State) : Out :=
  .next (match s.cur.1.block with
  | none => s.raise 0x1D
  | some b =>
    let m := numCore s.cur.1.num
    let ns := slotRange o.cmd
    if ns.any fun n => !((s.block b).claim n).holds m then s.raise 0x1A
    else if s.myCore.filling ns true ∨ s.myCore.reading ns then s.stall
    else (s.modBlock b fun k => { k with claims := ns.foldl (fun t n => t.set n ((k.claim n).drop m)) k.claims }).retire 2)

/-! ## The format context (R194 to R196) -/

/-- Bits [lo+n-1:lo] of a format context. -/
def fmtBits (f : Word) (lo n : Nat) : Nat := f.toNat / 2 ^ lo % 2 ^ n

def fmtA (f : Word) : ETy := .ofBits (BitVec.ofNat 4 (fmtBits f 0 4))
def fmtB (f : Word) : ETy := .ofBits (BitVec.ofNat 4 (fmtBits f 4 4))
/-- Accumulator type. -/
def fmtAcc (f : Word) : ETy := match fmtBits f 8 2 with | 0 => .i32 | 1 => .f32 | _ => .f64
def fmtSat (f : Word) : Bool := fmtBits f 10 1 == 1
def fmtMode (f : Word) : RMode := .ofCode (fmtBits f 11 3)
def fmtPlanes (f : Word) : Nat := fmtBits f 14 4
def fmtCtr (f : Word) : Bool := fmtBits f 18 1 == 1
def fmtPsgn (f : Word) : ETy := if fmtBits f 19 1 = 1 then .n8 else .i8
def fmtOnat (f : Word) : Bool := fmtBits f 20 1 == 1
/-- The type `mst` writes. -/
def fmtOut (f : Word) : ETy := if fmtOnat f then .ofBits (BitVec.ofNat 4 (fmtBits f 21 4)) else fmtAcc f
def fmtSA (f : Word) : Int := signedOf 8 (fmtBits f 32 8)
def fmtSB (f : Word) : Int := signedOf 8 (fmtBits f 40 8)
def fmtSO (f : Word) : Int := signedOf 8 (fmtBits f 48 8)
def fmtPair (f : Word) : Bool := fmtAcc f == .f64

/-- A combination of R195. -/
def fmtRow (f : Word) : Bool :=
  match fmtBits f 8 2 with
  | 0 => ([ETy.i8, .n8, .c4].contains (fmtA f) && [ETy.i8, .n8, .c4].contains (fmtB f))
          || (fmtA f == .p && [ETy.i8, .n8].contains (fmtB f))
  | 1 => (fmtA f == .f32 && fmtB f == .f32)
          || ([ETy.f16, .bf16].contains (fmtA f) && [ETy.f16, .bf16].contains (fmtB f))
          || ([ETy.f8, .f8w].contains (fmtA f) && [ETy.f8, .f8w].contains (fmtB f))
  | 2 => fmtA f == .f64 && fmtB f == .f64
  | _ => false

/-- An output type of R196. -/
def fmtOutOk (f : Word) : Bool :=
  if fmtOnat f then
    (match fmtBits f 8 2 with
      | 0 => [ETy.i32, .i16, .i8, .n8, .f32, .bf16]
      | 1 => [ETy.f32, .f16, .bf16, .f8, .f8w]
      | _ => [ETy.f64, .f32]).contains (fmtOut f)
  else fmtBits f 21 4 == 0

/-- A valid format context (R194 to R196). -/
def fmtOk (f : Word) : Bool :=
  fmtRow f && decide (fmtBits f 11 3 ≤ 4) && fmtBits f 25 7 == 0 && fmtBits f 56 8 == 0 && fmtOutOk f
    && (if fmtA f = .p then decide (2 ≤ fmtPlanes f) && decide (fmtPlanes f ≤ 8)
        else fmtPlanes f == 0 && !fmtCtr f && fmtBits f 19 1 == 0)

/-- K per tile (R195). -/
def fmtK (f : Word) : Nat :=
  match fmtA f with | .f64 => 16 | .f32 => 32 | .f16 | .bf16 => 64 | _ => 128

/-- Cycles one `mmac` holds the array (R195). -/
def fmtCycles (f : Word) : Nat :=
  match fmtA f with | .f64 => 256 | .f32 => 128 | .p => 8 * fmtPlanes f | _ => 64

/-- `mfmt` (R202). -/
def execMfmt (o : OpE) (s : State) : Out :=
  let a := s.readG o.d
  .next (
    if s.cur.1.block.isNone then s.raise 0x1D
    else if !ownAligned a 64 then s.raise 0x1B { addr := a }
    else if s.myCore.mreqs.any fun r => !r.started && !r.linked then s.stall
    else
      match s.ownRead a 64 with
      | (false, _, s) => s
      | (true, bs, s) =>
        let f : Word := BitVec.ofNat 64 (leNat (bs.take 8))
        if leNat (bs.drop 8) ≠ 0 ∨ !fmtOk f then s.raise 0x1C { addr := a }
        else (s.modMyCore fun k => { k with mfctx := f }).retire 2)

/-! ## Requests -/

/-- Slots of a request's accumulator (R190). -/
def MReq.accs (r : MReq) : List Nat := if r.pair then [r.acc, r.acc + 1] else [r.acc]

/-- Is a request still pending on its accumulator (R191)? -/
def MReq.pends (r : MReq) : Bool :=
  match r.op with
  | .st .. => !r.started
  | _ => true

/-- Pending accumulators of a core, with those of linked requests still to be handed over (R191, R336). -/
def Core.pendingAccs (k : Core) : List Nat :=
  (k.mreqs.filter MReq.pends).flatMap MReq.accs ++ k.cmds.flatMap fun x => match x.2.link with
    | some r => r.accs
    | none => []

def accOf (o : OpE) : Nat := (o.cmd.extractLsb' 0 3).toNat

/-- Does the accumulator number break R190 under the format in force? -/
def State.oddPair (s : State) (a : Nat) : Bool := fmtPair s.myCore.mfctx && a % 2 == 1

/-- A request joins the queue; without a wait clause it has passed (R191, R198). -/
def State.request (s : State) (o : OpE) (op : MOp) (pair : Bool) (words : List Word) : State :=
  let after := if o.w.fo then s.storesOut s.cur.1 s.cur.2 else []
  let (v, s) := s.engIssue o.w
  let r : MReq := { ord := s.nextId, ctx := s.cur.2, pc := s.me.pc, words := words, op := op, acc := accOf o, pair := pair, w := o.w
                    snap := v, after := after, passed := if o.w.wThr = 0 then some s.cycle else none }
  ({ s with nextId := s.nextId + 1 }.modMyCore fun k => { k with mreqs := k.mreqs ++ [r] }).retire 2

/-- Slots of an `mmac` (R199). -/
def aSlot (o : OpE) : Nat := (o.cmd.extractLsb' 3 6).toNat
def bSlot (o : OpE) : Nat := (o.cmd.extractLsb' 9 6).toNat

/-- Does the core hold both slots (R187)? -/
def State.holdsBoth (s : State) (b : BlockId) (o : OpE) : Bool :=
  let m := numCore s.cur.1.num
  ((s.block b).claim (aSlot o)).holds m && ((s.block b).claim (bSlot o)).holds m

/-- Issue of `mmac` and `mmac.set` (R203). -/
def State.issueMmac (s : State) (o : OpE) (set : Bool) : State :=
  match s.cur.1.block with
  | none => s.raise 0x1D
  | some b =>
    let pair := fmtPair s.myCore.mfctx
    if !s.holdsBoth b o then s.raise 0x1A
    else if s.oddPair (accOf o) then s.raise 0x1B
    else if s.myCore.pendingAccs.any fun a => a == accOf o || (pair && a == accOf o + 1) then s.stall
    else s.request o (.mmac set (aSlot o) (bSlot o)) pair s.words

/-- `mmac` (R203). -/
def execMmac (o : OpE) (s : State) : Out := .next (s.issueMmac o false)
/-- `mmac.set` (R203). -/
def execMmacSet (o : OpE) (s : State) : Out := .next (s.issueMmac o true)

/-- `mzero` (R205): of one slot, whatever the format. -/
def execMzero (o : OpE) (s : State) : Out :=
  .next (
    if s.cur.1.block.isNone then s.raise 0x1D
    else if s.myCore.pendingAccs.contains (accOf o) then s.stall
    else s.request o .zero false s.words)

/-- `mst` (R204). -/
def execMst (o : OpE) (s : State) : Out :=
  let f := s.myCore.mfctx
  let ow := (fmtOut f).width / 8
  let base := s.readG o.d
  let st : Word := if o.a = 0 then BitVec.ofNat 64 (64 * ow) else s.readG o.a
  .next (
    if s.cur.1.block.isNone then s.raise 0x1D
    else if s.oddPair (accOf o) then s.raise 0x1B
    else if !alignedTo base 64 ∨ !alignedTo st 64 ∨ st.toNat < 64 * ow ∨ 2 ^ 32 ≤ st.toNat then s.raise 0x1B { addr := base }
    else if s.myCore.pendingAccs.any fun a => a == accOf o || (fmtPair f && a == accOf o + 1) then s.stall
    else s.request o (.st base st) (fmtPair f) s.words)

/-- Steps a snapshot counts: of a granted `mmac` those completed, 0 of a pending one, else 8 (R206). -/
def Core.stepsSeen (k : Core) (a : Nat) : Nat :=
  match k.mreqs.find? fun r => r.accs.contains a && (match r.op with
    | .mmac .. => true
    | _ => false) with
  | some r => r.step
  | none => if k.cmds.any fun x => match x.2.link with
      | some r => r.accs.contains a
      | none => false
    then 0 else 8

/-- `macc` (R206). -/
def execMacc (o : OpE) (s : State) : Out :=
  let c := s.cur.1
  let a := accOf o
  let pair := fmtPair s.myCore.mfctx
  let q := (s.readG o.b).toNat
  let w := if pair then 64 else 32
  .next (
    if c.block.isNone then s.raise 0x1D
    else if s.oddPair a then s.raise 0x1B
    else if (if pair then 512 else 256) ≤ q then s.raise 0x1B
    else if s.myCore.mpoison.any fun p => p == a || (pair && p == a + 1) then s.raise 0x0C
    else
      let v := ofLanes w ((List.range (512 / w)).map fun t => s.peekNat (accLoc c a (64 * q + t * (w / 8))) (w / 8))
      ((s.writeV o.d v).writeG o.a (BitVec.ofNat 64 (s.myCore.stepsSeen a))).retire 2)

/-! ## The arithmetic of a step (R154, R193) -/

/-- Element k of row i of an operand of type t, as it lies in a slot: a code of four bits, the bits of the planes, or the type's
(R192, R193). Row i of B is its column i. -/
def State.rawElem (s : State) (b : BlockId) (n : Nat) (t : ETy) (planes i k : Nat) : Nat :=
  let e := 128 * i + k
  match t with
  | .c4 => s.peekNat (slotLoc b n (e / 2)) 1 / 2 ^ (4 * (e % 2)) % 16
  | .p => ((List.range planes).map fun j =>
      s.peekNat (slotLoc b n (1024 * j + e / 8)) 1 / 2 ^ (e % 8) % 2 * 2 ^ (7 - j)).sum
  | t => s.peekNat (slotLoc b n (128 * i + k * (t.width / 8))) (t.width / 8)

/-- The value of such an element, under the captured format and code table. -/
def elemVal (f : Word) (table : List Byte) (t : ETy) (x : Nat) : Val :=
  match t with
  | .c4 => valOfInt (signedOf 8 (table.getD x 0).toNat)
  | .p => valOfInt (readInt (fmtPsgn f) x + if fmtCtr f ∧ fmtPlanes f ≤ 7 then 2 ^ (7 - fmtPlanes f) else 0)
  | t => readVal t x

def Val.isInf : Val → Bool
  | .inf _ => true
  | _ => false

/-- Exponent of a finite value. -/
def Val.expo : Val → Int
  | .fin _ _ e => e
  | _ => 0

/-- A finite value as a multiple of 2^lo. -/
def Val.at_ (lo : Int) : Val → Int
  | .fin s m e => signed s (m * 2 ^ (e - lo).toNat)
  | _ => 0

/-- The exact sum of a step's terms (R154); `none` stands for a product 0 × ∞. Infinities of both signs beside a quiet NaN set no flag
(log 115). -/
def sumTerms (mode : RMode) (sn : Bool) (ts : List (Option Val)) : Exact × FF :=
  let vs := ts.filterMap id
  if vs.any Val.isNaN then (.defNaN, { nv := sn || ts.any Option.isNone })
  else if ts.any Option.isNone then (.defNaN, { nv := true })
  else if vs.any Val.isInf then
    if vs.any (fun v => v.isInf && v.sign) && vs.any (fun v => v.isInf && !v.sign) then (.defNaN, { nv := true })
    else (.inf (vs.any fun v => v.isInf && v.sign), {})
  else
    let lo := vs.foldl (fun m v => min m v.expo) 0
    let x := (vs.map (Val.at_ lo)).foldl (· + ·) 0
    (exactOf x lo (if vs.all Val.sign then true else if vs.all fun v => !v.sign then false else mode = .down), {})

def Val.scaled (k : Int) : Val → Val
  | .fin s m e => .fin s m (e + k)
  | v => v

/-- One element of a step: the new element, and its flags (R154, R203). -/
def stepElem (f : Word) (acc : Nat) (as bs : List Val) : Nat × FF :=
  let t := fmtAcc f
  if t.isFloat then
    let a := readVal t acc
    let ps := (as.zip bs).map fun p =>
      if p.1.isNaN then some p.1 else if p.2.isNaN then some p.2
      else (mulVal p.1 p.2).map (Val.scaled (fmtSA f + fmtSB f))
    dest t (sumTerms (fmtMode f) (anySNaN (a :: as ++ bs)) (some a :: ps)) 0 (fmtSat f) (fmtMode f)
  else
    let y := signedOf 32 acc + ((as.zip bs).map fun p => p.1.at_ 0 * p.2.at_ 0).foldl (· + ·) 0
    let beyond := fmtSat f && (decide (y < -2 ^ 31) || decide (2 ^ 31 - 1 < y))
    (finishInt .i32 (fmtSat f) y, { ov := beyond })

/-- What step `step` reads of an operand slot: for each row, the elements of its share of K (R203). -/
def State.stepReads (s : State) (b : BlockId) (f : Word) (t : ETy) (n step : Nat) : List (List Nat) :=
  let per := fmtK f / 8
  (List.range 64).map fun i => (List.range per).map fun k => s.rawElem b n t (fmtPlanes f) i (step * per + k)

/-- A step of an operation over what it has read: the accumulator's bytes, and the flags (R154). -/
def State.stepBytes (s : State) (c : CoreId) (r : MReq) (clear : Bool) : List Byte × FF :=
  let f := r.fmt
  let w := (fmtAcc f).width / 8
  let as := r.as.map fun xs => xs.map (elemVal f r.table (fmtA f))
  let bs := r.bs.map fun xs => xs.map (elemVal f r.table (fmtB f))
  let elems := (List.range 4096).map fun e =>
    stepElem f (if clear then 0 else s.peekNat (accLoc c r.acc (w * e)) w) (as.getD (e / 64) []) (bs.getD (e % 64) [])
  (elems.flatMap fun p => leBytes w p.1, orFlags (elems.map Prod.snd))

/-! ## The unit's own steps -/

def Core.setReq (k : Core) (ord : Nat) (f : MReq → MReq) : Core :=
  { k with mreqs := k.mreqs.map fun r => if r.ord = ord then f r else r }

def MReq.isMmac (r : MReq) : Bool :=
  match r.op with
  | .mmac .. => true
  | _ => false

/-- An `mmac` the arbiter may grant: its clause passed in an earlier cycle (R198). -/
def State.eligible (s : State) (r : MReq) : Bool :=
  r.isMmac && !r.started && (match r.passed with
    | some t => decide (t < s.cycle)
    | none => false)

/-- The code table of a core, entries in order (R151, R152). -/
def Core.codes (k : Core) : List Byte := (List.range 16).map k.codeAt

/-- A pre-empted block's `mmac` still runs in the cluster's array (R384). -/
def State.arrayHeld (s : State) (b : BlockId) : Bool :=
  s.blocks.any fun x => x.1 != b && x.2.array.isSome && (match x.2.spill, (s.block b).residence with
    | some k, .resident j => k == j
    | _, _ => false)

/-- Accumulator slots an operation updates under its captured format. -/
def MReq.fmtAccs (r : MReq) : List Nat := if fmtPair r.fmt then [r.acc, r.acc + 1] else [r.acc]

/-- The first cycle of a step: its columns and rows are read (R203); an operation that reads poison ends before the step (R209). -/
def State.beginStep (s : State) (b : BlockId) (c : CoreId) (ord : Nat) : State :=
  match (s.core c).mreqs.find? fun r => r.ord == ord with
  | none => s
  | some r => match r.op with
    | .mmac set an bn =>
      let badSlot := (s.block b).spoison.any fun n => n == an || n == bn
      let badAcc := !(set && r.step == 0) && (s.core c).mpoison.any fun n => r.fmtAccs.contains n
      if badSlot ∨ badAcc then
        (s.modCore c fun k =>
          { k.setReq ord fun r => { r with ended := true, code := engPoison } with
            mpoison := k.mpoison.filter (fun n => !r.fmtAccs.contains n) ++ r.fmtAccs }).modBlock b fun x => { x with array := none }
      else
        s.modCore c (·.setReq ord fun r =>
          { r with as := s.stepReads b r.fmt (fmtA r.fmt) an r.step, bs := s.stepReads b r.fmt (fmtB r.fmt) bn r.step })
    | _ => s

/-- `matrix_grant` (R198): the array is free, and the first member from the pointer is served; its first step begins. -/
def execMatrixGrant (b : BlockId) (s : State) : Out :=
  let x := s.block b
  .next (
    if x.array.isSome ∨ x.fenced ∨ (s.isResident (b.core 0)) = false ∨ x.swap ≠ .none ∨ s.arrayHeld b then s
    else
      match ((List.range 16).map fun i => (x.rotPtr + i) % 16).find? fun m => (s.core (b.core m)).mreqs.any s.eligible with
      | none => s
      | some m =>
        let c := b.core m
        match (s.core c).mreqs.find? s.eligible with
        | none => s
        | some r =>
          let f := (s.core c).mfctx
          let bad := fmtPair f && r.acc % 2 == 1
          let s := s.modCore c (·.setReq r.ord fun r =>
            { r with started := true, fmt := f, table := (s.core c).codes, ended := bad, code := if bad then 2 else 1 })
          let s := s.modBlock b fun k => { k with rotPtr := (m + 1) % 16, array := if bad then none else some (m, r.acc) }
          if bad then s else s.beginStep b c r.ord)

/-- Cycles of a core's operations, for its performance counter (R363). -/
def State.countMatrix (s : State) (c : CoreId) (n : Nat) : State :=
  match s.place c with
  | some p => s.modPhys p fun x => { x with perf := x.perf.set 11 (x.perf.get 0 11 + BitVec.ofNat 64 n) }
  | none => s

/-- `matrix_step_end` (R203, R209): one K step ends, as one action over what its first cycle read; the next begins. -/
def execMatrixStepEnd (b : BlockId) (s : State) : Out :=
  .next (match (s.block b).array with
  | none => s
  | some (m, a) =>
    let c := b.core m
    match (s.core c).mreqs.find? fun r => r.isMmac && r.started && !r.ended && r.acc == a with
    | none => s
    | some r => match r.op with
      | .mmac set _ _ =>
        let clear := set && r.step == 0
        let (bs, fl) := s.stepBytes c r clear
        let s := s.pokeBytes (accLoc c r.acc 0) bs
        let s := s.countMatrix c (fmtCycles r.fmt / 8)
        let last := r.step == 7
        let s := s.modCore c fun k =>
          { k.setReq r.ord fun r => { r with step := r.step + 1, ended := last, flags := (BitVec.ofNat 64 r.flags ||| fl.word).toNat
                                             as := [], bs := [] }
            with mpoison := if clear then k.mpoison.filter (fun n => !r.fmtAccs.contains n) else k.mpoison }
        if last then s.modBlock b fun x => { x with array := none } else s.beginStep b c r.ord
      | _ => s)

/-- A status word (R207): COUNT goes on from the one before. -/
def statusWord (old : Word) (code kind flags steps rows : Nat) : Word :=
  BitVec.ofNat 64 (code + kind * 2 ^ 4 + flags % 2 * 2 ^ 6 + flags / 4 % 2 * 2 ^ 8 + flags / 8 % 2 * 2 ^ 9 + flags / 16 % 2 * 2 ^ 10
    + steps * 2 ^ 11 + rows * 2 ^ 16 + (old.toNat / 2 ^ 32 + 1) % 2 ^ 32 * 2 ^ 32)

/-- A request finishes: status, then its signal (R98, R207). Of an f64 pair the even slot's status word alone is written: DESIGN
CHOICE (log 135). -/
def State.finishReq (s : State) (c : CoreId) (r : MReq) (code kind steps rows : Nat) : State :=
  let s := s.modCore c fun k =>
    { k with mreqs := k.mreqs.filter fun x => x.ord != r.ord
             mstat := k.mstat.set r.acc (statusWord (k.mstat.get 0 r.acc) code kind r.flags steps rows) }
  s.engSignal c r.w r.snap 0

/-- A `mzero` acts: every bit zero, poison gone (R205). -/
def State.zeroAcc (s : State) (c : CoreId) (r : MReq) : State :=
  let s := s.pokeBytes (accLoc c r.acc 0) (List.replicate 16384 0)
  (s.modCore c fun k => { k with mpoison := k.mpoison.filter (· != r.acc) }).finishReq c r engDone 2 0 0

/-- A `mzero` whose clause has passed. -/
def MReq.zeroes (r : MReq) : Bool := (r.op matches .zero) && r.passed.isSome

/-- `mmac_finish` (R207): the lowest member with an operation that has ended writes its status; with none, the lowest with a
`mzero` ready does that (R205; log 32). -/
def execMmacFinish (b : BlockId) (s : State) : Out :=
  .next (
    if (s.block b).fenced ∨ ((s.isResident (b.core 0)) = false ∧ (s.block b).spill = none) then s
    else
      let find (p : MReq → Bool) : Option (CoreId × MReq) :=
        b.cores.findSome? fun c => ((s.core c).mreqs.find? p).map fun r => (c, r)
      match find fun r => r.isMmac && r.ended with
      | some (c, r) => s.finishReq c r r.code 1 r.step 0
      | none => match (if (s.block b).swap = .none ∧ s.isResident (b.core 0) = true then find MReq.zeroes else none) with
        | some (c, r) => s.zeroAcc c r
        | none => s)

/-! ## `mst` (R204) -/

/-- `Dest` of an accumulator element (R145, R204): an integer result is clamped by SAT and sets OF when it is. -/
def convertOut (out t : ETy) (x : Nat) (sc : Int) (sat : Bool) (mode : RMode) : Nat × FF :=
  let v := readVal t x
  let r := convert out t v sc sat mode
  if out.isFloat then r
  else
    let y := (v.exact.scale sc).toInt mode
    (r.1, r.2.or { ov := sat && (decide (y < intMin out) || decide (intMax out < y)) })

/-- One row, converted (R89, R145, R204). -/
def MReq.row (r : MReq) (i : Nat) : List Byte × FF :=
  let f := r.fmt
  let t := fmtAcc f
  let w := t.width / 8
  let out := fmtOut f
  let sc := if t = .i32 then fmtSA f + fmtSB f + fmtSO f else fmtSO f
  let vs := (List.range 64).map fun j =>
    convertOut out t (leNat ((r.data.drop ((64 * i + j) * w)).take w)) sc (fmtSat f) (fmtMode f)
  (vs.flatMap fun v => leBytes (out.width / 8) v.1, orFlags (vs.map Prod.snd))

/-- A list of bytes in lines of 64. -/
def chunks64 (bs : List Byte) : Nat → List (List Byte)
  | 0 => []
  | n + 1 => bs.take 64 :: chunks64 (bs.drop 64) n

/-- A line of a row that has been located is written: the row goes on, or the `mst` ends at it. Flags are gathered once the whole
row is written: those of a row whose write fails are not (log 130). -/
def State.writeLine (s : State) (c : CoreId) (r : MReq) (ts : List Target) (l : List Byte) (lines : Nat) (fl : FF) : MReq × State :=
  match s.engWrite c r.ctx r.snap r.pc ts l with
  | (some code, s) => ({ r with ended := true, code := code, flight := none }, s)
  | (none, s) =>
    if r.line + 1 < lines then ({ r with line := r.line + 1, flight := none }, s)
    else ({ r with rows := r.rows + 1, line := 0, flight := none, ended := r.rows == 63
                   flags := (BitVec.ofNat 64 r.flags ||| fl.word).toNat }, s)

/-- The next 64 bytes of the next row (R204): to another estate they travel as a piece. The `mst` stops at a failure, or parks (R64);
no row after a failing one is written (log 110). -/
def State.rowPiece (s : State) (c : CoreId) (r : MReq) (base st : Word) : MReq × State :=
  let (bs, fl) := r.row r.rows
  let ls := chunks64 bs (bs.length / 64)
  let l := ls.getD r.line []
  match r.flight with
  | some g =>
    if g.lost then ({ r with ended := true, code := engNoRoute, flight := none }, s)
    else if s.flown (.piece c r.ord) then s.writeLine c r g.ts l ls.length fl else (r, s)
  | none =>
    match s.engDest (.mst c r.acc) r.ctx r.ord (base + BitVec.ofNat 64 r.rows * st + BitVec.ofNat 64 (64 * r.line)) 64 with
    | (.wait, s) => (r, s)
    | (.fail code, s) => ({ r with ended := true, code := code }, s)
    | (.park p va mig, s) => ({ r with park := some p }, (s.pageRequest c va 3 15 mig).countPark c)
    | (.ok ts, s) =>
      match s.pieceOut c r.ord ts l with
      | some s => ({ r with flight := some { ts := ts } }, s)
      | none => s.writeLine c r ts l ls.length fl

/-- Capture of the accumulator: pending ends (R204). -/
def State.captureMst (s : State) (c : CoreId) (r : MReq) : MReq :=
  let f := (s.core c).mfctx
  let n := if fmtPair f then 32768 else 16384
  let bad := (s.core c).mpoison.any fun a => a == r.acc || (fmtPair f && a == r.acc + 1)
  { r with started := true, fmt := f, ended := bad, code := if bad then engPoison else 1
           data := if bad then [] else s.peekBytes (accLoc c r.acc 0) n }

/-- A pre-emption holds the core's engines at their next boundary (R384). -/
def State.preempting (s : State) (c : CoreId) : Bool :=
  match c.block with
  | some b => (s.block b).swap == .stopping true
  | none => false

/-- `mst_capture` (R204): stages 1 to 3 passed, the contents are captured; then each turn writes 64 bytes of a row, and stops at a
row's boundary for a pre-emption (R384). A parked one goes on when its page is there. -/
def execMstCapture (c : CoreId) (a : Nat) (s : State) : Out :=
  .next (match (s.core c).mreqs.find? fun r => r.acc == a && (r.op matches .st ..) && !r.ended && r.park.isNone with
  | none => s
  | some r => match r.op with
    | .st base st =>
      if r.passed.isNone ∨ !s.allGone r.after ∨ s.isFenced c ∨ (s.isResident c) = false ∨ (s.swapping c = true ∧ r.started = false)
          ∨ (s.preempting c = true ∧ r.line = 0 ∧ r.flight = none) then s
      else
        let (r, s) := if r.started then s.rowPiece c r base st else (s.captureMst c r, s)
        s.modCore c (·.setReq r.ord fun _ => r)
    | _ => s)

/-- `mst_complete` (R204, R207): every row is acknowledged. -/
def execMstComplete (c : CoreId) (a : Nat) (s : State) : Out :=
  .next (match (s.core c).mreqs.find? fun r => r.acc == a && (r.op matches .st ..) && r.ended with
  | none => s
  | some r => if s.isFenced c ∨ (s.isResident c) = false then s else s.finishReq c r r.code 3 0 r.rows)

end Sys2Proof.Machine
end

