-- ==== Sys2Proof/Machine/Copy.lean ====
section
/-! DEFINITION. The copy engine: class 0x9 (R329 to R341), commands, pieces, status records and the linked group. -/

namespace Sys2Proof.Machine

/-! ## Checks at issue (R330) -/

/-- Bytes from `a` up do not lie within one region, scratchpad or allocation. -/
def State.rangeFault (s : State) (c : CoreId) (a : Word) (n : Nat) : Option Nat :=
  if n = 0 then none
  else
    let top := a.toNat / 2 ^ 56
    if (a.toNat + n - 1) / 2 ^ 56 ≠ top then some 0x06
    else match top with
      | 0x00 => none
      | 0xFC => if a.extractLsb' 19 37 = 0 ∧ a.toNat % 2 ^ 19 + n ≤ 2 ^ 19 then none else some 0x06
      | 0xFE => if a.extractLsb' 49 7 = 0 ∧ a.extractLsb' 19 10 = 0 ∧ a.toNat % 2 ^ 19 + n ≤ 2 ^ 19 then none else some 0x06
      | 0xFD =>
        let e := a.toNat / 2 ^ 42 % 64
        let f := a.toNat / 2 ^ 39 % 8
        if a.extractLsb' 48 8 ≠ 0 ∨ a.extractLsb' 31 8 ≠ 0 then some 0x06
        else if Record.fvalid (s.record c.pid e) f ∧ Record.fbytes (s.record c.pid e) f < a.toNat % 2 ^ 31 + n then some 0x08
        else none
      | _ => some 0x06

/-- Window coordinates that name no core or field, or an estate with no route. -/
def State.coordFault (s : State) (c : CoreId) (a : Word) (n : Nat) : Option Nat :=
  if n = 0 then none
  else match a.toNat / 2 ^ 56 with
    | 0xFE =>
      let t := CoreId.virt c.pid (a.toNat / 2 ^ 29 % 2 ^ 20)
      if !s.hasCore t ∨ !c.isVirt then some 0x07 else if !s.hasRoute c.estate t.estate then some 0x09 else none
    | 0xFD =>
      let e := a.toNat / 2 ^ 42 % 64
      if !Record.fvalid (s.record c.pid e) (a.toNat / 2 ^ 39 % 8) ∨ !c.isVirt then some 0x07
      else if !s.hasRoute c.estate e then some 0x09 else none
    | _ => none

/-- The two ranges of a command: addresses first, then coordinates (R330). -/
def State.rangesFault (s : State) (c : CoreId) (rs : List (Word × Nat)) : Option (Nat × Word) :=
  match rs.findSome? fun r => (s.rangeFault c r.1 r.2).map fun f => (f, r.1) with
  | some f => some f
  | none => rs.findSome? fun r => (s.coordFault c r.1 r.2).map fun f => (f, r.1)

/-! ## Walks -/

/-- Index of each dimension at step n of the walk, dimension 0 fastest (R335). -/
def odometer : List Nat → Nat → List Nat
  | [], _ => []
  | e :: es, n => n % e :: odometer es (n / e)

/-- Offset of step n from the base. -/
def Shape.offset (h : Shape) (n : Nat) : Int :=
  (((odometer h.ext n).zip h.stride).map fun p => (p.1 : Int) * p.2).foldl (· + ·) 0

def Shape.length (h : Shape) : Nat := h.ext.foldl (· * ·) 1

/-- Lowest and highest offset of the walk. -/
def Shape.reach (h : Shape) : Int × Int :=
  (h.ext.zip h.stride).foldl (fun r p =>
    let x := ((p.1 : Int) - 1) * p.2
    (r.1 + min 0 x, r.2 + max 0 x)) (0, 0)

/-- Shape record (R335). -/
def shapeOf (bs : List Byte) : Shape :=
  let ws := (List.range 8).map fun i => leNat ((bs.drop (8 * i)).take 8)
  { ext := ws.map (· % 2 ^ 24), stride := ws.map fun w => signedOf 40 (w / 2 ^ 24) }

def shapeOk (bs : List Byte) : Bool := (shapeOf bs).ext.all (1 ≤ ·) && leNat (bs.drop 64) == 0

/-- Range of addresses a walk reaches; none where it leaves the address space. -/
def Shape.range (h : Shape) (base : Word) : Option (Word × Nat) :=
  let lo := (base.toNat : Int) + h.reach.1
  let hi := (base.toNat : Int) + h.reach.2
  if 0 ≤ lo ∧ hi < 2 ^ 64 then some (BitVec.ofInt 64 lo, (hi - lo).toNat + 1) else none

/-! ## Issue -/

/-- A command enters the queue; with no wait clause it has passed (R329). -/
def State.enqueue (s : State) (w : EW) (x : Cmd) (words : Nat) : State :=
  let after := if w.fo then s.storesOut s.cur.1 s.cur.2 else []
  let (v, s) := s.engIssue w
  let y := { x with ctx := s.cur.2, pc := s.me.pc, words := s.words, w := w, snap := v, after := after, passed := w.wThr == 0 }
  ({ s with nextId := s.nextId + 1 }.modMyCore fun k => { k with cmds := k.cmds ++ [(s.nextId, y)] }).retire words

/-- Entries of the command queue in use (R320); a copy that only waits for its hand-over has left it. -/
def Core.queued (k : Core) : Nat := (k.cmds.filter fun x => !x.2.handing).length

/-- Depth of the copy command queue (R320). -/
def copyDepth := 96

/-- A fault of the checks at issue; while a reconfiguration runs, a route to another estate, bits [47:42] of a window's address, is
not looked up yet (R215, R216, R316, R400, R425). -/
def State.cmdFault (s : State) (f : Nat) (a : Word) : State :=
  if f = 0x09 ∧ s.fabricHolds s.cur.1 (a.toNat / 2 ^ 42 % 64) then s.stall else s.raise f { addr := a }

/-- The command is issued if its checks pass and the queue has an entry. -/
def State.issueCmd (s : State) (o : OpE) (bad : Bool) (rs : List (Word × Nat)) (x : Cmd) : State :=
  if bad then s.raise 0x1E
  else match s.rangesFault s.cur.1 rs with
    | some (f, a) => s.cmdFault f a
    | none => if copyDepth ≤ s.myCore.queued then s.stall else s.enqueue o.w x 2

/-- `cpy` (R334). -/
def execCpy (o : OpE) (s : State) : Out :=
  let d := s.readG o.d
  let a := s.readG o.a
  let n := (s.readG o.b).toNat
  .next (s.issueCmd o (decide (2 ^ 40 ≤ n)) [(a, n), (d, n)] { ctx := 0, kind := .cpy, dst := d, src := a, len := n })

/-- A walk past the address space reaches addresses of no region. -/
def walkRange (h : Shape) (base : Word) : Word × Nat := (h.range base).getD (base, 2 ^ 64)

/-- `cpyt` (R335). -/
def execCpyt (o : OpE) (s : State) : Out :=
  let d := s.readG o.d
  let a := s.readG o.a
  let go (src : Shape) (dst : Option Shape) (s : State) : State :=
    let n := src.length
    let dr := match dst with
      | some h => walkRange h d
      | none => (d, n)
    s.issueCmd o (decide (2 ^ 40 ≤ n) || (match dst with
        | some h => h.length != n
        | none => false)) [walkRange src a, dr]
      { ctx := 0, kind := .cpyt src dst, dst := d, src := a, len := n }
  .next (
    if !ownAligned (s.readG o.b) 128 ∨ (o.c ≠ 0 ∧ !ownAligned (s.readG o.c) 128) then s.raise 0x1E
    else if o.c ≠ 0 ∧ s.ownBusy (s.readG o.c) 128 then s.stall
    else match s.ownRead (s.readG o.b) 128 with
      | (false, _, s) => s
      | (true, bs, s) =>
        if !shapeOk bs then s.raise 0x1E
        else if o.c = 0 then go (shapeOf bs) none s
        else match s.ownRead (s.readG o.c) 128 with
          | (false, _, s) => s
          | (true, cs, s) => if !shapeOk cs then s.raise 0x1E else go (shapeOf bs) (some (shapeOf cs)) s)

/-- Slot, stride and source range of `cpy.slot` (R336). -/
def slotNo (o : OpE) : Nat := (o.cmd.extractLsb' 0 6).toNat
def State.slotStride (s : State) (o : OpE) : Word := if o.b = 0 then 128 else s.readG o.b

/-- The checks of `cpy.slot` in the order of R330: the fault, and its address. -/
def State.slotFault (s : State) (o : OpE) : Option (Nat × Word) :=
  let st := (s.slotStride o).toNat
  if 2 ^ 40 ≤ st then some (0x1E, 0)
  else match s.rangesFault s.cur.1 [(s.readG o.a, 63 * st + 128)] with
    | some f => some f
    | none => match s.cur.1.block with
      | none => some (0x1D, 0)
      | some b => if (s.block b).claim (slotNo o) = .excl (numCore s.cur.1.num) then none else some (0x1A, 0)

def State.slotCmd (s : State) (o : OpE) (link : Option MReq) : Cmd :=
  { ctx := 0, kind := .slot (slotNo o), src := s.readG o.a, par := s.slotStride o, len := 8192, link := link }

/-- `cpy.slot` (R336). -/
def execCpySlot (o : OpE) (s : State) : Out :=
  .next (match s.slotFault o with
  | some (f, a) => s.cmdFault f a
  | none => if copyDepth ≤ s.myCore.queued then s.stall else s.enqueue o.w (s.slotCmd o none) 2)

/-- `cpy.slot` with its linked `mmac` (R99, R336): one instruction of four words. -/
def execCpySlotLink (o m : OpE) (set : Bool) (s : State) : Out :=
  let pair := fmtPair s.myCore.mfctx
  .next (match s.slotFault o with
  | some (f, a) => s.cmdFault f a
  | none =>
    if (match s.cur.1.block with
      | some b => !s.holdsBoth b m
      | none => true) then s.raise 0x1A
    else if s.oddPair (accOf m) then s.raise 0x1B
    else if (s.myCore.pendingAccs.any fun a => a == accOf m || (pair && a == accOf m + 1)) ∨ copyDepth ≤ s.myCore.queued then
      s.stall
    else
      let (v, s) := s.engIssue m.w
      let r : MReq := { ord := 0, ctx := s.cur.2, pc := s.me.pc, words := s.words, op := .mmac set (aSlot m) (bSlot m)
                        acc := accOf m, pair := pair, w := m.w, snap := v, linked := true }
      s.enqueue o.w (s.slotCmd o (some r)) 4)

/-- Chunk size and members of a deal pattern (R337). -/
def dealChunk (p : Word) : Nat := 2 ^ ((p.extractLsb' 16 4).toNat + 6)
def dealMembers (p : Word) : List Nat := bitsOf (p &&& 0xFFFF)

/-- One past the highest offset a member receives. -/
def dealTop (p base : Word) (n : Nat) : Nat :=
  let ms := (dealMembers p).length
  let c := dealChunk p
  let full := n / c
  base.toNat % 2 ^ 19 + (if n = 0 ∨ ms = 0 then 0
    else if n % c = 0 then ((full - 1) / ms + 1) * c
    else if full % ms = 0 then full / ms * c + n % c else (full / ms + 1) * c)

/-- `cpy.deal` (R337). -/
def execCpyDeal (o : OpE) (s : State) : Out :=
  let d := s.readG o.d
  let a := s.readG o.a
  let n := (s.readG o.b).toNat
  let p := s.me.cdealpat
  let own := d.toNat / 2 ^ 56 == 0xFC && d.extractLsb' 19 37 == 0
  .next (
    if 2 ^ 40 ≤ n ∨ dealMembers p = [] ∨ 10 < (p.extractLsb' 16 4).toNat ∨ p.extractLsb' 20 44 ≠ 0 then s.raise 0x1E
    else if !own ∨ 2 ^ 19 < dealTop p d n then s.raise 0x06 { addr := d }
    else match s.rangesFault s.cur.1 [(a, n)] with
      | some (f, x) => s.cmdFault f x
      | none =>
        if s.cur.1.block.isNone then s.raise 0x1E
        else if copyDepth ≤ s.myCore.queued then s.stall
        else s.enqueue o.w { ctx := 0, kind := .deal p, dst := d, src := a, len := n } 2)

/-- `cpy.mc` (R338). -/
def execCpyMc (o : OpE) (s : State) : Out :=
  let d := s.readG o.d
  let a := s.readG o.a
  let n := (s.readG o.b).toNat
  let m := s.readG o.c
  let own := d.toNat / 2 ^ 56 == 0xFC && d.extractLsb' 19 37 == 0
  .next (
    if 2 ^ 19 < n ∨ m = 0 ∨ m.extractLsb' 16 48 ≠ 0 then s.raise 0x1E
    else if !own ∨ 2 ^ 19 < d.toNat % 2 ^ 19 + n then s.raise 0x06 { addr := d }
    else match s.rangesFault s.cur.1 [(a, n)] with
      | some (f, x) => s.cmdFault f x
      | none =>
        if s.cur.1.block.isNone then s.raise 0x1E
        else if copyDepth ≤ s.myCore.queued then s.stall
        else s.enqueue o.w { ctx := 0, kind := .mc m.toNat, dst := d, src := a, len := n } 2)

/-- `cpy.stamp` (R339): in place where the a field is 0. -/
def execCpyStamp (o : OpE) (s : State) : Out :=
  let d := s.readG o.d
  let a := if o.a = 0 then d else s.readG o.a
  let n := (s.readG o.b).toNat
  .next (s.issueCmd o (decide (2 ^ 24 < n) || !alignedTo d 64 || !alignedTo a 64) [(a, 64 * n), (d, 64 * n)]
    { ctx := 0, kind := .stamp, dst := d, src := a, len := 64 * n })

/-- `cpy.fill` (R340). -/
def execCpyFill (o : OpE) (s : State) : Out :=
  let d := s.readG o.d
  let n := (s.readG o.b).toNat
  .next (s.issueCmd o (decide (2 ^ 40 ≤ n)) [(d, n)]
    { ctx := 0, kind := .fill, dst := d, par := s.readG o.a, len := n })

/-- `cnop` (R341). -/
def execCnop (o : OpE) (s : State) : Out :=
  .next (if copyDepth ≤ s.myCore.queued then s.stall else s.enqueue o.w { ctx := 0, kind := .nop } 2)

/-! ## Running (R329, R331) -/

def Core.setCmd (k : Core) (id : Nat) (f : Cmd → Cmd) : Core :=
  { k with cmds := k.cmds.map fun x => if x.1 = id then (id, f x.2) else x }

def Core.cmd? (k : Core) (id : Nat) : Option Cmd := Map.get? k.cmds id

/-- Running and not parked (R329). -/
def Cmd.active (x : Cmd) : Bool := x.running && !x.ended && x.park.isNone && !x.resume

/-- Commands that run at once (R329). -/
def runLimit := 8

def Core.running (k : Core) : Nat := (k.cmds.filter fun x => x.2.active).length

/-- May the command start: its clause has passed, its stores are acknowledged and every earlier one of its context has started
(R98, R329)? -/
def State.mayStart (s : State) (k : Core) (x : Nat × Cmd) : Bool :=
  !x.2.running && x.2.passed && s.allGone x.2.after
    && !(k.cmds.any fun y => decide (y.1 < x.1) && y.2.ctx == x.2.ctx && !y.2.running)

/-- An agent of the core may act: it is in the machine and not fenced (R67, R70, R379). -/
def State.enginesRun (s : State) (c : CoreId) : Bool := s.isResident c && !s.isFenced c

/-- `copy_command_start` (R329): the oldest that may. -/
def execCopyCommandStart (c : CoreId) (id : Nat) (s : State) : Out :=
  let k := s.core c
  .next (
    if !s.enginesRun c ∨ s.swapping c ∨ runLimit ≤ k.running then s
    else match k.cmds.find? (s.mayStart k) with
      | some x => if x.1 = id then s.modCore c (·.setCmd id fun y => { y with running := true, ended := y.len == 0 }) else s
      | none => s)

/-- Virtual address of a byte of a core's scratchpad (R215). -/
def anyCore (c : CoreId) (off : Nat) : Word := BitVec.ofNat 64 (0xFE * 2 ^ 56 + c.num * 2 ^ 29 + off)

/-- Where byte n of a command is read. -/
def Cmd.srcAt (x : Cmd) (n : Nat) : Word :=
  match x.kind with
  | .cpyt h _ => x.src + BitVec.ofInt 64 (h.offset n)
  | .slot _ => x.src + BitVec.ofNat 64 (n / 128) * x.par + BitVec.ofNat 64 (n % 128)
  | _ => x.src + BitVec.ofNat 64 n

/-- Where byte n of a command is written: for a slot its byte there, for a multicast the own window. -/
def Cmd.dstAt (x : Cmd) (c : CoreId) (n : Nat) : Word :=
  match x.kind with
  | .cpyt _ (some h) => x.dst + BitVec.ofInt 64 (h.offset n)
  | .slot _ => BitVec.ofNat 64 n
  | .deal p =>
    let ms := dealMembers p
    let k := n / dealChunk p
    match c.block with
    | some b => anyCore (b.core (ms.getD (k % ms.length) 0)) (x.dst.toNat % 2 ^ 19 + k / ms.length * dealChunk p + n % dealChunk p)
    | none => x.dst
  | _ => x.dst + BitVec.ofNat 64 n

/-- Longest run of destination bytes from position n that lies within one line (R329). -/
def Cmd.runFrom (x : Cmd) (c : CoreId) (n : Nat) : Nat → Nat
  | 0 => 0
  | fuel + 1 =>
    if x.len ≤ n then 0
    else if (x.dstAt c n).toNat % 64 = 63 ∨ x.len = n + 1 ∨ x.dstAt c (n + 1) ≠ x.dstAt c n + 1 then 1
    else 1 + x.runFrom c (n + 1) fuel

/-- Bytes of the next piece. -/
def Cmd.piece (x : Cmd) (c : CoreId) : Nat := x.runFrom c x.pos 64

/-- Source runs of positions n, n + 1, …: address and length of each. -/
def Cmd.srcRuns (x : Cmd) (n : Nat) : Nat → List (Word × Nat)
  | 0 => []
  | k + 1 =>
    match x.srcRuns (n + 1) k with
    | (a, m) :: rs => if a = x.srcAt n + 1 then (x.srcAt n, m + 1) :: rs else (x.srcAt n, 1) :: (a, m) :: rs
    | [] => [(x.srcAt n, 1)]

/-- How a piece's reads or writes end. -/
inductive PieceEnd where
  | wait
  /-- a read of host memory is under way -/
  | host (ts : List Target)
  /-- a packet is under way, to be written there or with what was read -/
  | out (ts : List Target)
  /-- so many bytes more have landed -/
  | part (n : Nat)
  | ok (bs : List Byte) (poison : Option Word)
  | park (page : Page) (va : Nat) (mig : Bool)
  | fail (code : Nat) (addr : Word)
deriving DecidableEq, Repr

/-- Read the source of a piece, run by run; `host` runs of it in host memory have been read before, and the next one waits for the
host's completion (R409). Of a poisoned run and a later one that fails, the first is the one recorded (R332). -/
def State.readRuns (s : State) (c : CoreId) (id : Nat) (x : Cmd) : Nat → List (Word × Nat) → PieceEnd × State
  | _, [] => (.ok [] none, s)
  | host, (a, n) :: rs =>
    match s.engLocate (.cmd c id) .read a n engFuel with
    | (.wait, s) => (.wait, s)
    | (.fail code, s) => (.fail code a, s)
    | (.park p va mig, s) => (.park p va mig, s)
    | (.ok ts, s) =>
      if s.toHost ts ∧ x.answered ≤ host then (.host ts, s)
      else match s.engRead c x.ctx x.snap x.pc ts with
      | (.error code, s) => (.fail code a, s)
      | (.ok (bs, bad), s) =>
        match s.readRuns c id x (if s.toHost ts then host + 1 else host) rs with
        | (.ok cs p, s) => (.ok (bs ++ cs) (if bad then some a else p), (s.pieceBack c id ts bs).getD s)
        | (.fail code b, s) => (.fail code (if bad then a else b), s)
        | r => r

/-- Destinations of a piece of n bytes (R338: every member named). -/
def Cmd.dests (x : Cmd) (c : CoreId) : List Word :=
  match x.kind, c.block with
  | .mc m, some b => (bitsOf (BitVec.ofNat 64 m)).map fun i => anyCore (b.core i) (x.dst.toNat % 2 ^ 19 + x.pos)
  | _, _ => [x.dstAt c x.pos]

/-- Write a piece to each destination, counting those that have it; a poisoned source poisons its lines (R331). Where one lies in
another estate the piece goes out as a packet; `come` is where one that has come is written. -/
def State.writeDests (s : State) (c : CoreId) (id : Nat) (x : Cmd) (bs : List Byte) (bad : Bool) :
    Option (List Target) → List Word → PieceEnd × Nat × State
  | _, [] => (.ok [] none, 0, s)
  | come, a :: as =>
    let go (ts : List Target) (s : State) : PieceEnd × Nat × State :=
      match s.engWrite c x.ctx x.snap x.pc ts bs with
      | (some code, s) => (.fail code a, 0, s)
      | (none, s) =>
        let s := if bad then ts.foldl (fun s t => (linesOf t.loc t.len).foldl (fun s l => s.addPoison l) s) s else s
        let (r, n, s) := s.writeDests c id x bs bad none as
        (r, n + 1, s)
    match come with
    | some ts => go ts s
    | none =>
      match s.engDest (.cmd c id) x.ctx id a bs.length with
      | (.wait, s) => (.wait, 0, s)
      | (.fail code, s) => (.fail code a, 0, s)
      | (.park p va mig, s) => (.park p va mig, 0, s)
      | (.ok ts, s) => match s.pieceOut c id ts bs with
        | some s => (.out ts, 0, s)
        | none => go ts s

/-- Data of a piece of n bytes, before it is written. -/
def State.pieceData (s : State) (c : CoreId) (id : Nat) (x : Cmd) (n : Nat) : PieceEnd × State :=
  match x.kind with
  | .fill => (.ok ((List.range n).map fun i =>
      BitVec.ofNat 8 (x.par.toNat / 2 ^ (8 * ((x.dstAt c (x.pos + i)).toNat % 8)))) none, s)
  | .stamp =>
    match s.readRuns c id x 0 (x.srcRuns x.pos n) with
    | (.ok bs p, s) => (.ok (bs.take 12 ++ leBytes 4 ((s.tbaseOf c.estate).toNat % 2 ^ 32) ++ bs.drop 16) p, s)
    | r => r
  | _ => s.readRuns c id x 0 (x.srcRuns x.pos n)

/-- A piece lands in an operand slot byte by byte: this turn brings some more of it, or all that is left (R203, R231; log 13). -/
def State.slotStore (s : State) (b : BlockId) (i : Nat) (x : Cmd) (bs : List Byte) (bad : Bool) : PieceEnd × Nat × State :=
  let (k, s) := s.useFresh
  let left := bs.length - x.landed
  let n := if Config.tear k = 0 then left else min left (Config.tear k)
  let s := s.pokeBytes (slotLoc b i (x.pos + x.landed)) ((bs.drop x.landed).take n)
  if n < left then (.part n, 0, s)
  else (.ok [] none, 1, if bad then s.modBlock b fun k => { k with spoison := addTo i k.spoison } else s)

/-- Write the piece where its command writes: a slot, or memory at the destinations that have not got it. -/
def State.pieceStore (s : State) (c : CoreId) (id : Nat) (x : Cmd) (bs : List Byte) (bad : Bool) : PieceEnd × Nat × State :=
  match x.kind, c.block with
  | .slot i, some b => s.slotStore b i x bs bad
  | _, _ => s.writeDests c id x bs bad ((x.flight.map (·.ts)).filter (!·.isEmpty)) ((x.dests c).drop x.written)

def State.countBytes (s : State) (c : CoreId) (n : Nat) : State :=
  match s.place c with
  | some p => s.modPhys p fun q => { q with perf := q.perf.set 10 (q.perf.get 0 10 + BitVec.ofNat 64 n) }
  | none => s

/-- The command parks where it stands, with one request for its page (R64, R226, R331). -/
def State.parkCmd (s : State) (c : CoreId) (id : Nat) (p : Page) (va : Nat) (mig : Bool) : State :=
  ((s.modCore c (·.setCmd id fun y => { y with park := some p, parked := true })).pageRequest c va 3 15 mig).countPark c

/-- The command stops at this piece; FADDR stays that of a poisoned access before it (R331, R332). -/
def State.failCmd (s : State) (c : CoreId) (id code : Nat) (a : Word) : State :=
  s.modCore c (·.setCmd id fun y =>
    { y with ended := true, code := code, faddr := if y.code = engPoison then y.faddr else a, got := none, flight := none })

/-- The piece has been read; poison is noted once (R331, R332). -/
def Cmd.take (x : Cmd) (bs : List Byte) (poison : Option Word) : Cmd :=
  { x with got := some (bs, poison)
           code := if poison.isSome ∧ x.code = engDone then engPoison else x.code
           faddr := if x.code = engDone then poison.getD x.faddr else x.faddr }

/-- A piece that has been read goes to its destinations; where one parks, waits or is under way, the rest get it later. -/
def State.finishPiece (s : State) (c : CoreId) (id : Nat) (x : Cmd) (bs : List Byte) (poison : Option Word) : State :=
  let n := bs.length
  let (r, k, s) := s.pieceStore c id x bs poison.isSome
  let s := (s.modCore c (·.setCmd id fun _ =>
    { x with written := x.written + k, bytes := x.bytes + n * k, flight := none })).countBytes c (n * k)
  match r with
  | .fail code a => s.failCmd c id code a
  | .park p va mig => s.parkCmd c id p va mig
  | .out ts => s.modCore c (·.setCmd id fun y => { y with flight := some { ts := ts } })
  | .part n => s.modCore c (·.setCmd id fun y => { y with landed := y.landed + n })
  | .wait | .host _ => s
  | .ok .. => s.modCore c (·.setCmd id fun y =>
      { y with pos := y.pos + n, written := 0, landed := 0, answered := 0, got := none, ended := decide (y.len ≤ y.pos + n) })

/-- Read the next piece; one that has been read at another estate comes as a packet first (R396). An uncorrectable error is `bad`. -/
def State.readPiece (s : State) (c : CoreId) (id : Nat) (x : Cmd) (bad : Bool) : State :=
  let hold (s : State) : State := s.modCore c (·.setCmd id fun _ => x)
  match s.pieceData c id x (x.piece c) with
  | (.wait, _) => s
  | (.fail code a, s) => (hold s).failCmd c id code a
  | (.park p va mig, s) => (hold s).parkCmd c id p va mig
  | (.host ts, s) => s.modCore c (·.setCmd id fun _ => { x with flight := some { ts := ts, host := true } })
  | (.out _, s) | (.part _, s) => s
  | (.ok bs poison, s) =>
    let (poison, s) := if bad then (some (x.srcAt x.pos), match s.engLocate (.cmd c id) .read (x.srcAt x.pos) 1 engFuel with
        | (.ok ts, _) => ts.foldl (fun s t => s.readError t.loc) s
        | _ => s)
      else (poison, s)
    let y := x.take bs poison
    if s.onWire (.piece c id) then s.modCore c (·.setCmd id fun _ => { y with flight := some {} })
    else s.finishPiece c id y bs poison

/-- `copy_piece` (R329, R331, R384): one piece of a running command, read and then written; `bad` is an uncorrectable error read from
the source. A command whose page has come runs on once fewer than eight do; a packet that is lost ends it (R402). -/
def execCopyPiece (c : CoreId) (id : Nat) (bad : Bool) (s : State) : Out :=
  .next (match (s.core c).cmd? id with
  | none => s
  | some x0 =>
    let x := { x0 with resume := x0.resume && decide (runLimit ≤ (s.core c).running) }
    if !x.active ∨ !s.enginesRun c ∨ (s.preempting c = true ∧ x.got = none ∧ x.flight = none) then s
    else match x.flight, x.got with
      | some g, got =>
        if g.lost then s.failCmd c id engNoRoute (if got.isSome ∧ !g.ts.isEmpty then ((x.dests c).getD x.written x.dst) else x.srcAt x.pos)
        else if g.host ∨ s.onWire (.piece c id) = true then s
        else match got with
          | some (bs, poison) => s.finishPiece c id x bs poison
          | none => s.modCore c (·.setCmd id fun _ => { x with flight := none })
      | none, some (bs, poison) => s.finishPiece c id x bs poison
      | none, none => s.readPiece c id x bad)

/-- The host answers a command's read of its memory, with data or with Unsupported Request, which is no route (R409; log 125). -/
def State.answerPiece (s : State) (c : CoreId) (id : Nat) (unsupported : Bool) (data : List Byte) : State :=
  match (s.core c).cmd? id with
  | some x => (match x.flight with
    | some g =>
      if !g.host then s
      else if unsupported then s.modCore c (·.setCmd id fun y => { y with flight := some { g with lost := true, host := false } })
      else (s.commitTargets g.ts data).modCore c (·.setCmd id fun y => { y with flight := none, answered := y.answered + 1 })
    | none => s)
  | none => s

/-! ## Completion (R98, R332, R336) -/

/-- Major opcode's low four bits. -/
def CKind.code : CKind → Nat
  | .cpy => 0 | .cpyt .. => 1 | .slot _ => 2 | .deal _ => 3 | .mc _ => 4 | .stamp => 5 | .fill => 6 | .nop => 7

/-- The status record (R332). -/
def Cmd.record (x : Cmd) : Word :=
  BitVec.ofNat 64 (x.code + x.kind.code * 2 ^ 4 + (if x.parked then 2 ^ 8 else 0)
    + (if x.link.isSome ∧ x.code = engDone then 2 ^ 9 else 0) + x.bytes % 2 ^ 40 * 2 ^ 16)

/-- The record goes to the scratchpad where SE asks for it, and to the error registers where CODE is not 1 (R332). -/
def State.writeStatus (s : State) (c : CoreId) (x : Cmd) : State :=
  let s := if x.w.cmd.getLsbD 15 then
      s.commitBytes (scratchLoc c ((x.w.cmd.extractLsb' 0 15).toNat * 16)) (wordBytes [x.record, x.faddr])
    else s
  if x.code = engDone then s
  else s.modCore c fun k => { k with cerrlo := x.record, cerraddr := x.faddr, cerrcnt := satInc k.cerrcnt }

/-- Cores whose semaphores a `cpy.mc` signals: every named member's (R338). -/
def Cmd.members (x : Cmd) (c : CoreId) : List CoreId :=
  match x.kind, c.block with
  | .mc m, some b => (bitsOf (BitVec.ofNat 64 m)).map b.core
  | _, _ => []

/-- The signals of a `cpy.mc`. -/
def State.signalMembers (s : State) (c : CoreId) (id : Nat) (x : Cmd) : State :=
  (x.members c).foldl (fun s d => s.engSignal d x.w x.snap (if d = c then 0 else 1) (some id)) s

/-- A signal of the command is still to be added. -/
def State.signalDue (s : State) (c : CoreId) (id : Nat) (x : Cmd) : Bool :=
  (x.members c).any fun d => (s.core d).sigs.any fun g => g.cmd == some id

/-- A slot filled whole with no poison read is clean (R189). -/
def State.cleanSlot (s : State) (c : CoreId) (x : Cmd) : State :=
  match x.kind, c.block with
  | .slot i, some b => if x.code = engDone then s.modBlock b fun k => { k with spoison := k.spoison.filter (· != i) } else s
  | _, _ => s

/-- The command leaves the queue, or waits for its linked `mmac`'s hand-over; that is given up where it failed (R336). -/
def State.retireCmd (s : State) (c : CoreId) (id : Nat) (x : Cmd) : State :=
  let drop (s : State) : State := s.modCore c fun k => { k with cmds := Map.erase k.cmds id }
  match x.link with
  | some r =>
    if x.code = engDone then s.modCore c (·.setCmd id fun y => { y with handing := true })
    else (drop s).finishReq c r x.code 1 0 0
  | none => drop s

/-- `copy_command_complete` (R98, R332): status, then signal; the status of a `cpy.mc` follows its last signal (R338). -/
def execCopyCommandComplete (c : CoreId) (id : Nat) (s : State) : Out :=
  .next (match (s.core c).cmd? id with
  | none => s
  | some x =>
    if !x.running ∨ !x.ended ∨ x.handing ∨ !s.enginesRun c then s
    else if x.kind matches .mc _ then
      if !x.signalled then (s.signalMembers c id x).modCore c (·.setCmd id fun y => { y with signalled := true })
      else if s.signalDue c id x then s
      else (s.writeStatus c x).retireCmd c id x
    else (((s.cleanSlot c x).writeStatus c x).engSignal c x.w x.snap 0).retireCmd c id x)

/-- `linked_mmac_handover` (R336): every earlier `cpy.slot` of the context has completed. -/
def execLinkedMmacHandover (c : CoreId) (id : Nat) (s : State) : Out :=
  .next (match (s.core c).cmd? id with
  | none => s
  | some x =>
    let earlier := (s.core c).cmds.any fun y => decide (y.1 < id) && y.2.ctx == x.ctx && !y.2.handing && (y.2.kind matches .slot _)
    match x.link with
    | some r =>
      if x.handing ∧ !earlier ∧ s.enginesRun c then
        { s with nextId := s.nextId + 1 }.modCore c fun k =>
          { k with cmds := Map.erase k.cmds id, mreqs := k.mreqs ++ [{ r with ord := s.nextId, passed := some s.cycle }] }
      else s
    | none => s)

end Sys2Proof.Machine
end

