-- ==== Sys2Proof/Machine/Banks.lean ====
section
/-! DEFINITION. The Polder: class 0x8 (R310, R311, R322 to R328), a bank's cycle (R26 to R28, R35 to R37), insertions on their
way (R31, R32, R323), inlets (R44, R45, R406 to R408). -/

namespace Sys2Proof.Machine

def State.bank (s : State) (p i : Nat) : Bank := s.banks.get {} (p, i)
def State.modBank (s : State) (p i : Nat) (f : Bank → Bank) : State := { s with banks := s.banks.set (p, i) (f (s.bank p i)) }

/-- Entry i of the bank list: bank, virtual field, estate (R312). -/
def State.bankAt (s : State) (p i : Nat) : Option (Nat × Nat × Nat) := (s.part p).banks[i]?

/-- Home of a key in a partition's Polder (R20). -/
def State.homeOf (s : State) (p key0 : Nat) : Nat := homeIndex p key0 (s.part p).banks.length

def State.roundMode (s : State) (p : Nat) : Bool := Record.roundM (s.record p (s.homeEstate p))

/-- Does the bank's field move (R75)? -/
def State.bankMoves (s : State) (p i : Nat) : Bool :=
  match s.bankAt p i with
  | some (_, f, e) => (Map.get? (s.part p).moving (e, f)).isSome
  | none => false

/-- Tiles a region holds (R22). -/
def State.regionCap (s : State) (p e : Nat) : Nat := 1024 * Record.regcap (s.record p e)

/-- In-flight count of a partition (R356). -/
def State.inFlight (s : State) (p : Nat) (up : Bool) : State :=
  s.modPart p fun x => { x with insflight := (if up then x.insflight + 1 else x.insflight - 1) % 2 ^ 32 }

/-! ## Committing (R22, R26 step 1, R323) -/

/-- A full region refuses: the insertion is sent again after 64 cycles, or stays in the round hold (R22, R323, R364). -/
def State.refuseInsert (s : State) (id p i : Nat) : State :=
  let s := (s.modPart p fun x => { x with polfull := satInc x.polfull }).modBank p i fun k =>
    { k with refusing := some (k.refusing.getD s.cycle) }
  s.modInsert id fun x => match x.stage with
    | .held => x
    | _ => { x with stage := .refused (s.cycle + resendDelay) }

/-- The firing's own insertion, or one numbered among the bank's others (R37). -/
def Insert.seq (x : Insert) (round others : Nat) : Nat :=
  match x.rank with
  | .firing b f j => roundSeq round b f j
  | _ => roundSeq round 0xFFFF others 0

/-- Is the insertion one of a firing of the current round (R323)? -/
def Insert.ofFiring (x : Insert) : Bool :=
  match x.rank with
  | .firing .. => true
  | _ => false

/-- An insertion commits, or the region refuses it. A product of a round is not matchable before the round's close. -/
def State.commitInsert (s : State) (id p i : Nat) (x : Insert) : State :=
  match s.bankAt p i with
  | none => s
  | some (_, f, e) =>
    let k := s.bank p i
    if s.regionCap p e ≤ k.tiles.length then s.refuseInsert id p i
    else
      let round := s.roundMode p
      let img := if x.keep then x.img else tileStamped x.img ((s.tbaseOf e).toNat % 2 ^ 32)
      let (vec, s) := match x.snap with
        | some v => let (r, s) := s.storeVec (s.fieldDie p e f) v.held
                    (some r, s)
        | none => (none, s)
      let seq := if round then x.seq (s.part p).round.toNat k.others else k.ctr
      let t : Tile := { img := img, seq := seq, vec := vec, matchable := !(round && x.ofFiring) }
      let s := s.modBank p i fun k =>
        { k with tiles := insertTile t k.tiles
                 ctr := if round then k.ctr else k.ctr + 1
                 others := if round && !x.ofFiring then k.others + 1 else k.others
                 refusing := none, reported := false }
      let s := s.modInsert id fun x => { x with stage := .done }
      -- an inlet tile counts in flight until here (R356)
      let s := if x.rank = .inlet then s.inFlight p false else s
      match x.buf with
      | some q => s.modPhys q fun y => { y with perf := y.perf.set 4 (y.perf.get 0 4 + 1) }
      | none => s

/-- Depth of the round hold of a bank (R320). -/
def roundHold := 256

def State.heldInserts (s : State) (p i : Nat) : List (Nat × Insert) :=
  s.inserts.filter fun x => x.2.pid == p && x.2.home == some i && x.2.stage == .held

/-- The round hold takes an arriving insertion, or refuses it (R320, R364). -/
def State.holdInsert (s : State) (id p i : Nat) : State :=
  if (s.heldInserts p i).length < roundHold then
    { s with nextId := s.nextId + 1 }.modInsert id fun x => { x with stage := .held, arr := s.nextId }
  else s.modInsert id fun x => { x with stage := .refused (s.cycle + resendDelay) }

/-- An inlet tile that its bank has accepted leaves the inlet queue; refused, it stays at its head (R320). -/
def State.leaveInlet (s : State) (id : Nat) (x : Insert) : State :=
  if x.rank != .inlet then s
  else match Map.get? s.inserts id with
    | some y => (match y.stage with
      | .done | .held => s.modPart x.pid fun p => { p with inletq := p.inletq.drop 1 }
      | _ => s)
    | none => s

/-- Do two entries come from one source: one context's insertions, or one inlet's tiles (R31, R44)? -/
def Insert.sameSource (x y : Insert) : Bool :=
  x.core == y.core && x.ctx == y.ctx && x.buf.isSome == y.buf.isSome && x.pid == y.pid && x.home == y.home

/-- An older entry of its source for the same place has not been accepted there. -/
def State.behind (s : State) (id : Nat) (x : Insert) : Bool :=
  s.inserts.any fun y => decide (y.1 < id) && y.2.sameSource x && (match y.2.stage with
    | .waiting | .refused _ | .sent | .rehold => true
    | _ => false)

/-- An insertion arrives at its bank, behind the older ones of its source (R22, R31): held while the field moves, held to the
round's close, or committed. -/
def State.arriveInsert (s : State) (p i : Nat) (id : Nat) : State :=
  match Map.get? s.inserts id with
  | none => s
  | some x =>
    if x.pid ≠ p ∨ x.home ≠ some i ∨ x.stage ≠ .sent ∨ s.behind id x ∨ !s.flown (.insert id) then s
    else if s.bankMoves p i then
      { s with nextId := s.nextId + 1 }.modInsert id fun x => { x with stage := .rehold, arr := s.nextId }
    else if s.roundMode p ∧ !x.ofFiring then (s.holdInsert id p i).leaveInlet id x
    else (s.commitInsert id p i x).leaveInlet id x

/-- `bank_commit_insertions` (R26 step 1): in port order. -/
def execBankCommitInsertions (p i : Nat) (ids : List Nat) (s : State) : Out :=
  .next (ids.foldl (fun s id => s.arriveInsert p i id) s)

/-! ## The sluice (R26 step 2, R27, R36, R52) -/

/-- Firings in the output buffer, in formation order. -/
def State.outBuffer (s : State) (p i : Nat) : List (Nat × Firing) :=
  s.firings.filter fun f => f.2.pid == p && f.2.bank == i && f.2.place == .out

def outDepth := 8

/-- A group leaves its bank as a firing (R29). -/
def State.emit (p i : Nat) (round : Bool) (s : State) (g : Group) : State :=
  let k := s.bank p i
  let f : Firing := { pid := p, rule := g.rule, img := g.img, bank := i, tiles := g.tiles, roundM := round
                      fnum := if round then k.formed else 0, round := if round then (s.part p).round.toNat else 0 }
  { s with nextId := s.nextId + 1, firings := s.firings ++ [(s.nextId, f)] }.modBank p i fun k =>
    { k with tiles := k.tiles.filter fun t => !(g.tiles.any fun u => u.seq == t.seq)
             formed := if round then k.formed + 1 else k.formed }

/-- Rules in force at a sluice: the partition's table but for the changes that have not reached it (R25). -/
def State.rulesAt (s : State) (p i : Nat) : List (Nat × Line) :=
  validRules ((s.bank p i).lag.foldr (fun c m => m.set c.1 c.2) (s.part p).rules)

/-- At a decision boundary some of the changes under way reach the sluice, in order (R25; log 105). -/
def State.reachRules (s : State) (p i : Nat) : State :=
  if (s.bank p i).lag.isEmpty then s
  else
    let (n, s) := s.useFresh
    s.modBank p i fun k => { k with lag := k.lag.drop (k.lag.length - Config.ruleLag n) }

/-- One decision over at most `lim` groups. -/
def State.sluice (s : State) (p i lim : Nat) : State :=
  let s := s.reachRules p i
  if lim = 0 ∨ s.bankMoves p i then s
  else if s.roundMode p then
    if (s.part p).inRound then
      let gs := (s.bank p i).groups
      (gs.take lim).foldl (State.emit p i true) (s.modBank p i fun k => { k with groups := gs.drop lim })
    else s
  else
    let k := s.bank p i
    let d := decideGroups (s.rulesAt p i) lim (k.tiles.filter (·.matchable)) k.rot
    d.groups.foldl (State.emit p i false) (s.modBank p i fun k =>
      { k with rot := d.rot, tiles := k.tiles.map fun t => { t with age := t.age + 1 } })

/-- The decision of a bank-cycle (R27): a full output buffer makes none (R52). -/
def State.decision (s : State) (p i : Nat) : State := s.sluice p i (min 4 (outDepth - (s.outBuffer p i).length))

/-- `sluice_decision` (R27). -/
def execSluiceDecision (p i : Nat) (s : State) : Out := .next (s.decision p i)

/-! ## `probe` and `take` at the bank (R26 step 3, R34, R326 to R328) -/

def Msg.bankKey (m : Msg) : Option Nat :=
  match m.body with
  | .probe _ key .. => some (key.toNat % 2 ^ 32)
  | .take _ key _ => some (key.toNat % 2 ^ 32)
  | _ => none

/-- Tiles that fit pattern and key, oldest first. -/
def matching (pat key : Word) (ts : List Tile) : List Tile :=
  ts.filter fun t => t.matchable && tileKey0 t.img == key.toNat % 2 ^ 32
    && tileClass t.img &&& (pat.toNat / 65536 % 65536) == pat.toNat % 65536

/-- What an acquire of a tile joins (R33, R34); a lost vector saturates with partition scope. -/
def State.tileJoin (s : State) (t : Tile) : Join :=
  match t.vec with
  | none => .none
  | some r => match s.vec r with
    | some h => .held h
    | none => .saturate Scope.dom.level

/-- A context that a round held Waiting runs on from this cycle (R59, R328). -/
def State.served (s : State) (p : Nat) (m : Msg) : State :=
  if s.roundMode p then s.modCtx m.core m.ctx fun x => { x with since := max x.since s.cycle } else s

/-- The bank serves a request: the answer goes back. -/
def State.serveRequest (s : State) (p i id : Nat) : State :=
  s.withMsg id fun m s => let s := s.served p m
    match m.body with
    | .probe pat key _ _ =>
      let ts := matching pat key (s.bank p i).tiles
      let head := match ts with
        | [] => [0, 0]
        | t :: _ => [tileHead0 t.img, tileHead1 t.img]
      s.modMsg id fun m => { m with stage := .done 0, reply := wordBytes (BitVec.ofNat 64 ts.length :: head) }
    | .take pat key _ =>
      match matching pat key (s.bank p i).tiles with
      | [] => s.modMsg id fun m => { m with stage := .done 0, reply := List.replicate 64 0 }
      | t :: _ =>
        let j := s.tileJoin t
        let s := (s.modBank p i fun k => { k with tiles := k.tiles.filter fun u => u.seq != t.seq }).dropVec t.vec
        s.modMsg id fun m => { m with stage := .done 0, reply := lineBytes t.img, joins := [j] }
    | _ => s

/-- Is a request kept to the round's close (R36, R328)? -/
def State.roundHolds (s : State) (p : Nat) : Bool := s.roundMode p && (s.part p).inRound

/-- A request arrives at its bank. -/
def State.arriveRequest (s : State) (p i id : Nat) : State :=
  s.comeIn id fun m s =>
    if m.core.pid ≠ p ∨ m.bankKey.map (s.homeOf p) ≠ some i ∨ m.stage ≠ .sent then s
    else if s.bankMoves p i then
      { s with nextId := s.nextId + 1 }.modMsg id fun m => { m with stage := .rehold, ord := s.nextId }
    else if s.roundHolds p then
      { s with nextId := s.nextId + 1 }.modMsg id fun m => { m with stage := .held, seq := s.nextId }
    else s.serveRequest p i id

/-- `polder_request_serve` (R26 step 3): in port order, against the state that the cycle's decision has left, so that a tile the
sluice wants goes to the sluice. -/
def execPolderRequestServe (p i : Nat) (ids : List Nat) (s : State) : Out :=
  .next (ids.foldl (fun s id => s.arriveRequest p i id) (s.decision p i))

/-! ## Insertions on their way (R31, R32, R323, R325) -/

/-- Entries of a physical core's insert buffer (R320). -/
def State.bufferOf (s : State) (q : Nat × Nat × Nat) : List (Nat × Insert) :=
  s.inserts.filter fun x => x.2.buf == some q

def insertDepth := 32

/-- Where the entry goes: the estate of its bank, or of its consumer's inlet. -/
def State.insertEstate (s : State) (x : Insert) : Option Nat :=
  match x.home with
  | some i => (s.bankAt x.pid i).map fun b => b.2.2
  | none => some x.dest

/-- No older entry of the context for the same bank is still unsent or refused (R323). -/
def State.firstInLine (s : State) (id : Nat) (x : Insert) : Bool :=
  !(s.inserts.any fun y => decide (y.1 < id) && y.2.sameSource x && (match y.2.stage with
      | .waiting | .refused _ => true
      | _ => false))

/-- A failed store stops the insertion that waits for it, as it stops a release on stream 0: the tile is discarded and counted in
the record (R32, R248; log 60). -/
def State.stopInsert (s : State) (id : Nat) (x : Insert) (f : Failure) : State :=
  (({ s with inserts := Map.erase s.inserts id } : State).inFlight x.core.pid false).modCtx x.core x.ctx fun y => y.countLost f.stream

/-- `insertion_send` (R32, R323): the release's condition holds and the entry is the first in line. -/
def execInsertionSend (_c : CoreId) (id : Nat) (s : State) : Out :=
  .next (match Map.get? s.inserts id with
  | none => s
  | some x => match s.insertEstate x with
    | none => s
    | some e =>
      if x.stage = .waiting ∧ s.allGone x.after ∧ s.firstInLine id x ∧ !s.fabricHolds x.core e then
        (match (s.ctx x.core x.ctx).failureFor 0 with
        | some f => s.stopInsert id x f
        | none => s.modInsert id fun x => { x with stage := .sent })
      else s)

/-- `insertion_retry` (R323): 64 cycles after the refusal, in order. -/
def execInsertionRetry (_c : CoreId) (id : Nat) (s : State) : Out :=
  .next (match Map.get? s.inserts id with
  | none => s
  | some x => match x.stage with
    | .refused t => if t ≤ s.cycle ∧ s.firstInLine id x then s.modInsert id fun x => { x with stage := .sent } else s
    | _ => s)

/-- `insertion_ack` (R323): the entry is freed and the in-flight count falls; a grant's moved at the inlet (R325), and an inlet tile's
fell at its commit (R356). -/
def execInsertionAck (_c : CoreId) (id : Nat) (s : State) : Out :=
  .next (match Map.get? s.inserts id with
  | none => s
  | some x =>
    if x.stage = .done ∧ s.flown (.insert id) = true then
      let s : State := { s with inserts := Map.erase s.inserts id }
      if x.home.isSome ∧ x.rank ≠ .inlet then s.inFlight x.pid false else s
    else s)

/-- `polder_full_report` (R22, R378): once for each run of refusals. -/
def execPolderFullReport (p i : Nat) (s : State) : Out :=
  let k := s.bank p i
  .next (match k.refusing with
  | some t =>
    if t + 1000000 ≤ s.cycle ∧ !k.reported then (s.modBank p i fun k => { k with reported := true }).notice p noticePfull else s
  | none => s)

/-! ## `ins`, `ins.grant` (R322 to R325) -/

/-- Position of a block in a firing's fixed set, by ascending virtual block (R324). -/
def blockPlace (b : BlockId) (bs : List BlockId) : Nat := (bs.filter fun c => decide (c.vblock < b.vblock)).length

/-- The indices of R37 that the context may use: the first, and how many (R324). -/
def State.share (s : State) (f : Firing) : Nat × Nat :=
  match Rule.span f.img with
  | 1 => (0, 256)
  | 2 => (16 * s.me.member, 16)
  | _ => match s.cur.1.block, f.blocks with
    | some b, some bs => if s.me.member = 0 then (4 * blockPlace b bs, 4) else (0, 0)
    | _, _ => (0, 0)

/-- The firing of the current round that a context runs (R36, R323). -/
def State.roundFiring (s : State) : Option Firing :=
  if s.roundMode s.pid then
    (s.me.firing.bind fun id => Map.get? s.firings id).filter fun f => f.roundM && f.round == s.myPart.round.toNat
  else none

/-- Enter an entry in the insert buffer, with the snapshot that its release publishes, and count it (R323, R325). -/
def State.enterInsert (s : State) (x : Insert) : State :=
  let c := s.cur.1
  let n := s.cur.2
  let after := s.before c n 0
  let round := if s.roundMode s.pid then (s.part s.pid).round.toNat else 0
  let (v, s) := s.release c n .dom
  ({ s with nextId := s.nextId + 1
            inserts := s.inserts ++ [(s.nextId, { x with after := after, snap := some v, round := round })] }.inFlight
    c.pid true).retire 1

/-- A tile that is legal and would go to another estate, which a reconfiguration holds. -/
def State.leavesHeld (s : State) (dest : Line → Option Nat) (img : Line) : Bool :=
  tileClass img != 0 && (dest img).any (s.fabricHolds s.cur.1)

/-- The checks of `ins` and `ins.grant` and the image's read; `go` is what follows (R323, R325). A reconfiguration holds one that
goes to another estate, `dest`, before its route is looked up (R316, R400). A delivery-failure record that is held is delivered
first, as at a release on stream 0 (R32, R270; log 60). -/
def State.insImage (s : State) (o : OpM) (dest : Line → Option Nat) (go : Line → State → State) : State :=
  let a := s.ea o
  if a.extractLsb' 56 8 ≠ 0xFC ∨ a.extractLsb' 19 37 ≠ 0 then s.raise 0x06 { addr := a }
  else if !alignedTo a 64 then s.raise 0x0A { addr := a }
  else if (match s.place s.cur.1 with
      | some q => decide (insertDepth ≤ (s.bufferOf q).length)
      | none => false) then s.stall
  else if s.leavesHeld dest (lineOfBytes (s.peekBytes (scratchLoc s.cur.1 (a.extractLsb' 0 19).toNat) 64)) then s.stall
  else match s.me.failureFor 0 with
  | some f => s.deliverFailure f
  | none => match s.ownRead a 64 with
    | (false, _, s) => s
    | (true, bs, s) =>
      let img := lineOfBytes bs
      if tileClass img = 0 then s.raise 0x16 { addr := a, r4 := tileHead0 img } else go img s

/-- `.keep`: kind 1 (R322). -/
def insKeep (o : OpM) : Bool := o.ty == 1

/-- `ins` (R323, R324). -/
def execIns (o : OpM) (s : State) : Out :=
  .next (s.insImage o (fun img => (s.bankAt s.pid (s.homeOf s.pid (tileKey0 img))).map fun b => b.2.2) fun img s =>
    let p := s.pid
    let x : Insert := { core := s.cur.1, ctx := s.cur.2, buf := s.place s.cur.1, img := tileMarks img false false, pid := p
                        home := some (s.homeOf p (tileKey0 img)), keep := insKeep o }
    match s.roundFiring with
    | none => s.enterInsert x
    | some f =>
      let (base, size) := s.share f
      if size ≤ s.me.inserted then s.raise 0x17 { addr := s.ea o, r4 := tileHead0 img }
      else
        let j := s.me.inserted
        (s.modMe fun y => { y with inserted := y.inserted + 1 }).enterInsert { x with rank := .firing f.bank f.fnum (base + j) })

/-- The grant that an `ins.grant` uses, if it is valid and takes the tile's class (R325). -/
def State.grantFor (s : State) (n : Word) (img : Line) : Option Word :=
  let g := s.myPart.grants.get 0 n.toNat
  if 16 ≤ n.toNat ∨ !g.getLsbD 22 ∨ tileClass img &&& (g.toNat / 2 ^ 48) ≠ g.toNat / 2 ^ 32 % 65536 then none else some g

/-- Estate of a grant (R314). -/
def grantEstate (g : Word) : Nat := g.toNat / 65536 % 64

/-- `ins.grant` (R314, R325): a release at `.dom`, which the consumer's firing start or `take` acquires (R46). -/
def execInsGrant (o : OpM) (s : State) : Out :=
  let n := s.readG o.data
  .next (s.insImage o (fun img => (s.grantFor n img).map grantEstate) fun img s => match s.grantFor n img with
    | none => s.raise 0x18 { addr := s.ea o, r4 := n }
    | some g =>
      if !s.hasRoute s.cur.1.estate (grantEstate g) then s.raise 0x09 { addr := s.ea o }
      else s.enterInsert { core := s.cur.1, ctx := s.cur.2, buf := s.place s.cur.1, img := tileMarks img true true
                           pid := g.toNat % 65536, home := none, keep := insKeep o, dest := grantEstate g })

/-! ## `probe`, `take` (R326, R327) -/

/-- The checks that both make, and the wait for a tag (R257, R326). -/
def State.askBank (s : State) (key : Word) (go : State → State) : State :=
  let p := s.pid
  if s.roundFiring.isSome then s.raise 0x19
  else match s.bankAt p (s.homeOf p (key.toNat % 2 ^ 32)) with
    | none => s.raise 0x09
    | some (_, _, e) =>
      if s.fabricHolds s.cur.1 e then s.stall
      else if !s.hasRoute s.cur.1.estate e then s.raise 0x09
      else if 16 ≤ s.loadsOut s.cur.1 s.cur.2 ∨ (s.freeTags s.cur.1).isEmpty then s.stall
      else go s

/-- Send a request under a tag. -/
def State.sendRequest (s : State) (b : Body) : Nat × State :=
  let c := s.cur.1
  let tag := (s.freeTags c).head?
  let s := match tag with
    | some (t, g) => s.modCore c fun k => { k with tagGen := k.tagGen.set t g }
    | none => s
  s.send { core := c, ctx := s.cur.2, pc := s.me.pc, words := s.words, body := b, stage := .sent
           snap := s.snapshot c s.cur.2 .thread, tag := tag, issued := s.cycle, mode := s.modeOf c }

/-- Registers of a `probe` (R326). -/
def probeRefs (d c : Reg) : List RegRef := ((if c = 0 then [d] else [d, c, c + 1]).filter (· ≠ 0)).map .g

/-- `probe` (R326). -/
def execProbe (o : OpA) (s : State) : Out :=
  .next (s.askBank (s.readG o.b) fun s =>
    let (id, s) := s.sendRequest (.probe (s.readG o.a) (s.readG o.b) o.d o.c)
    (s.modMe fun x => { x with pend := x.pend ++ (probeRefs o.d o.c).map fun r => (r, id) }).retire 1)

/-- `take` (R327): an acquire, so nothing later issues before its answer (R260). -/
def execTake (o : OpA) (s : State) : Out :=
  let p := s.readG o.d
  .next (
    if p.extractLsb' 56 8 ≠ 0xFC ∨ p.extractLsb' 19 37 ≠ 0 then s.raise 0x06 { addr := p }
    else if !alignedTo p 64 then s.raise 0x0A { addr := p }
    else s.askBank (s.readG o.b) fun s => if s.ownBusy p 64 then s.stall else
      let (id, s) := s.sendRequest (.take (s.readG o.a) (s.readG o.b) p)
      (s.modMe fun x => { x with holdOn := x.holdOn ++ [id] }).retire 1)

/-! ## The rule table (R310, R311) -/

/-- The address check of `rset` and `rget` (R310). -/
def ruleAddrOk (p : Word) : Bool := ownAligned p 64

/-- An entry of the rule table is written: at once for every sluice while the partition is stable, whatever older change of it is still
under way, else each sluice keeps the old entry until a decision of its own (R25; log 105). -/
def State.setRule (s : State) (p q : Nat) (img : Line) : State :=
  let old := (s.part p).rules.get 0 q
  let lag (l : List (Nat × Line)) : List (Nat × Line) :=
    if (s.part p).stable then l.filter fun c => c.1 != q else l ++ [(q, old)]
  let s := (List.range (s.part p).banks.length).foldl (fun s i => s.modBank p i fun k => { k with lag := lag k.lag }) s
  s.modPart p fun x => { x with rules := x.rules.set q img }

/-- `rset` (R310). -/
def execRset (o : OpA) (s : State) : Out :=
  let q := s.readG o.a
  let p := s.readG o.b
  .next (
    if s.me.level = .app then s.raise 0x02
    else if !ruleAddrOk p then s.raise 0x06 { addr := p }
    else match s.ownRead p 64 with
      | (false, _, s) => s
      | (true, bs, s) =>
        let img := lineOfBytes bs
        if 256 ≤ q.toNat then s.putG o.d 2
        else if Rule.v img ∧ !Rule.ok img then s.putG o.d 1
        else (s.setRule s.pid q.toNat img).putG o.d 0)

/-- `rget` (R311). -/
def execRget (o : OpA) (s : State) : Out :=
  let q := s.readG o.a
  let p := s.readG o.b
  .next (
    if !ruleAddrOk p then s.raise 0x06 { addr := p }
    else if 256 ≤ q.toNat then s.putG o.d 2
    else
      let img := s.myPart.rules.get 0 q.toNat
      match s.ownAct p .store (lineBytes img) 64 with
      | (false, s) => s
      | (true, s) => s.putG o.d (if Rule.v img then 1 else 0))

/-! ## Inlets (R44, R45, R325, R406 to R408) -/

def inletDepth := 256

def satHalf (w : Word) (hi : Bool) : Word :=
  let lo := w.toNat % 2 ^ 32
  let up := w.toNat / 2 ^ 32
  if hi then BitVec.ofNat 64 (lo + min (2 ^ 32 - 1) (up + 1) * 2 ^ 32) else BitVec.ofNat 64 (min (2 ^ 32 - 1) (lo + 1) + up * 2 ^ 32)

/-- A discarded payload write, or tile write, is counted (R407, R408, R411). -/
def State.inletErr (s : State) (p : Nat) (tile : Bool) : State := s.modPart p fun x => { x with inleterr := satHalf x.inleterr tile }

/-- Enter the inlet queue: the tile counts in flight from here (R325, R356). -/
def State.enterInlet (s : State) (p : Nat) (t : InletTile) : State :=
  (s.modPart p fun x => { x with inletq := x.inletq ++ [t] }).inFlight p true

/-- Has the partition a slot of a host endpoint (R405, R406)? -/
def State.hasHost (s : State) (p : Nat) : Bool := (s.part p).slot.isSome && (s.estate (s.homeEstate p)).host

/-- `inlet_tile_write` (R320, R406, R408): a 64-byte write in the tile area; a full queue holds it back. Every payload write that
arrived before has committed, with the relaxed-ordering attribute or without. A tile of class 0 is discarded too (log 125). -/
def execInletTileWrite (p off bytes : Nat) (tile : Line) (_relaxed : Bool) (s : State) : Out :=
  .next (
    if !s.hasHost p then s
    else if 0x80000 ≤ off then s
    else if bytes ≠ 64 ∨ off % 64 ≠ 0 ∨ tileClass tile = 0 then s.inletErr p true
    else if inletDepth ≤ (s.part p).inletq.length then s
    else s.enterInlet p { img := tile, gate := tileGate tile })

/-- A byte of the aperture, translated through the partition's tables, whose A and D it sets; none on any fault or without W
where the host writes (R407). -/
def State.aperture (s : State) (p : Nat) (off : Nat) (write : Bool) : Option (Nat × Nat × State) :=
  let kind : XKind := if write then .write else .read
  let va := (s.part p).inletvb.toNat + off
  match s.walkFrom (s.homeEstate p) va kind [1, 2, 3, 4] (s.root p) with
  | .leaf w pg loc => some (pteEstate w, pteAddr w + (va - pg.va), (s.markPte w loc kind).2)
  | _ => none

/-- Write byte by byte where each page stands; none where a byte has none (log 124). -/
def State.apertureWrite (s : State) (p : Nat) : Nat → List Byte → Option State
  | _, [] => some s
  | off, b :: bs =>
    match s.aperture p off true with
    | some (e, pa, s) => (s.commitBytes (physLoc e pa) [b]).apertureWrite p (off + 1) bs
    | none => none

/-- Read `n` bytes. -/
def State.apertureRead (s : State) (p : Nat) : Nat → Nat → Option (List Byte × State)
  | _, 0 => some ([], s)
  | off, n + 1 =>
    match s.aperture p off false with
    | some (e, pa, s) =>
      if s.poisonedAt (physLoc e pa) 1 then none
      else match s.apertureRead p (off + 1) n with
        | some (bs, s) => some (s.peek (physLoc e pa) :: bs, s)
        | none => none
    | none => none

/-- Bytes of a slot's aperture (R406). -/
def apertureSize : Nat := 2 ^ 36

/-- `inlet_payload_write` (R407): stored unchecked and counted, or discarded. -/
def execInletPayloadWrite (p off : Nat) (data : List Byte) (s : State) : Out :=
  .next (
    if !s.hasHost p ∨ apertureSize < off + data.length then s
    else match s.apertureWrite p off data with
      | some s => s.modPart p fun x => { x with inletpc := x.inletpc + BitVec.ofNat 64 data.length }
      | none => s.inletErr p false)

/-- `inlet_aperture_read` (R407): 1 and the data, byte by byte, or 0 for Completer Abort. -/
def execInletApertureRead (p off len : Nat) (s : State) : Out :=
  .next (
    if !s.hasHost p ∨ apertureSize < off + len then s
    else match s.apertureRead p off len with
      | some (bs, s) => { s with reply := 1 :: bs.map (·.zeroExtend 64) }
      | none => { s with reply := [0] })

/-- Is the gate met (R408)? -/
def gateMet (pc : Word) (img : Line) : Bool := decide ((BitVec.ofNat 32 pc.toNat - BitVec.ofNat 32 (tileStamp img)).toNat < 2 ^ 31)

/-- The tile at the head of the inlet queue is on its way to its bank (R320). -/
def State.inletSends (s : State) (p : Nat) : Bool :=
  s.inserts.any fun x => x.2.pid == p && x.2.rank == .inlet && (match x.2.stage with
    | .done | .held => false
    | _ => true)

/-- `inlet_insert` (R44, R45, R320): the first tile of the queue is sent to its home bank, and stays in the queue until the bank
accepts it, so that tiles are inserted in inlet order. -/
def execInletInsert (p : Nat) (s : State) : Out :=
  .next (match (s.part p).inletq with
  | [] => s
  | t :: _ =>
    if (s.part p).banks = [] ∨ (t.gate ∧ !gateMet (s.part p).inletpc t.img) ∨ s.inletSends p then s
    else
      let x : Insert := { core := .virt p 0, ctx := 0, buf := none, img := inletMarks t.img t.xpart, pid := p
                          home := some (s.homeOf p (tileKey0 t.img)), keep := t.keep, rank := .inlet, stage := .sent, snap := t.snap
                          round := if s.roundMode p then max 1 (s.part p).round.toNat else 0 }
      { s with nextId := s.nextId + 1, inserts := s.inserts ++ [(s.nextId, x)] })

/-- `inlet_accept` (R31, R325): a grant insertion enters the consumer's inlet queue and moves to its count; a full queue refuses. -/
def execInletAccept (p : Nat) (_c : CoreId) (id : Nat) (s : State) : Out :=
  .next (match Map.get? s.inserts id with
  | none => s
  | some x =>
    if x.pid ≠ p ∨ x.home.isSome ∨ x.stage ≠ .sent ∨ s.behind id x ∨ !s.flown (.insert id) then s
    else if inletDepth ≤ (s.part p).inletq.length then
      s.modInsert id fun x => { x with stage := .refused (s.cycle + resendDelay) }
    else
      ((s.enterInlet p { img := x.img, keep := x.keep, xpart := true, snap := x.snap }).inFlight x.core.pid false).modInsert id fun x => { x with stage := .done })

end Sys2Proof.Machine
end

