-- ==== Sys2Proof/Machine/Sched.lean ====
section
/-! DEFINITION. Firings on their way to a helper: the choice of a queue (R52 to R54), reservations (R55, R57), starts (R30, R33,
R50, R56, R57, R61) and retirement (R51). -/

namespace Sys2Proof.Machine

/-! ## Members of a partition -/

/-- M of R53: the partition's virtual blocks, resident or absent, in ascending number. -/
def State.blocksOf (s : State) (p : Nat) : List BlockId :=
  sortBy (fun b => b.estate * 512 + b.field * 64 + b.vblock)
    ((s.blocks.filter fun x => x.1.pid == p && x.2.residence != .invalid).map Prod.fst)

/-- L of R53: the cores of every virtual block, then the loose cores. -/
def State.coreList (s : State) (p : Nat) : List CoreId :=
  (s.blocksOf p).flatMap BlockId.cores ++ (sortNats (Map.keys (s.part p).loose)).map (.virt p)

/-- Resident and not fenced. -/
def State.runs (s : State) (b : BlockId) : Bool :=
  (match (s.block b).residence with
    | .resident _ => true
    | _ => false) && !(s.block b).fenced

def State.clusterAt (s : State) (b : BlockId) : Option (Nat × Nat × Nat) :=
  match (s.block b).residence with
  | .resident k => some k
  | _ => none

/-- In the machine and not fenced: the physical core. -/
def State.liveAt (s : State) (c : CoreId) : Option (Nat × Nat × Nat) := if s.isFenced c then none else s.place c

/-! ## Queues (R53, R54) -/

def State.queue (s : State) (q : FPlace) : List (Nat × Firing) := s.firings.filter fun f => f.2.place == q

/-- Depths of R320. -/
def queueDepth : FPlace → Nat
  | .core _ => 16
  | .cluster _ => 8
  | .die _ => 4
  | .coreside => 64
  | _ => 0

def Firing.prio (f : Firing) : Nat := Rule.prio f.img

/-- Highest level first, then the oldest. -/
def headOf : List (Nat × Firing) → Option (Nat × Firing)
  | [] => none
  | f :: fs =>
    match headOf fs with
    | none => some f
    | some g => if g.2.prio < f.2.prio ∨ (g.2.prio = f.2.prio ∧ f.2.ord ≤ g.2.ord) then some f else some g

def State.qhead (s : State) (q : FPlace) : Option (Nat × Firing) := headOf (s.queue q)

/-- Least occupied of the queues with room; ties from the sluice's pointer on, cyclically. Each candidate has its place in the
list the pointer runs over. -/
def State.leastFull (s : State) (cands : List (Nat × FPlace)) (ptr : Nat) : Option (Nat × FPlace) :=
  let room := cands.filter fun c => decide ((s.queue c.2).length < queueDepth c.2)
  let low := room.foldl (fun m c => min m (s.queue c.2).length) 64
  let best := room.filter fun c => (s.queue c.2).length == low
  match best.find? fun c => decide (ptr ≤ c.1) with
  | some c => some c
  | none => best.head?

/-- Members with their places in a list. -/
def indexed {α : Type} (xs : List α) : List (Nat × α) := (List.range xs.length).zip xs

/-- The member a key sticks to (R53). -/
def stick {α : Type} (key0 : Nat) (xs : List α) : Option α := xs[(mix32 (BitVec.ofNat 32 key0)).toNat * xs.length / 2 ^ 32]?

/-- Where a firing goes when it leaves the output buffer: its queue, and the new tie-break pointer (R53). A block that the rule names
lies in the estate of the bank that formed the firing (log 113). -/
def State.target53 (s : State) (f : Firing) : Option (FPlace × Nat) :=
  match s.bankAt f.pid f.bank with
  | none => none
  | some (_, fld, e) =>
    let home := s.fieldDie f.pid e fld
    let n : BlockId := { pid := f.pid, estate := e, field := Rule.affField f.img, vblock := Rule.affBlock f.img }
    let aff := if Rule.aff f.img = 2 ∧ !s.hasBlock n then 0 else Rule.aff f.img
    let key0 := match f.tiles with
      | t :: _ => tileKey0 t.img
      | [] => 0
    let ptr := (s.bank f.pid f.bank).tie
    let M := s.blocksOf f.pid
    let named : Option BlockId := if aff = 2 then some n else stick key0 M
    let pick (len : Nat) (cands : List (Nat × FPlace)) : Option (FPlace × Nat) :=
      (s.leastFull cands ptr).map fun c => (c.2, if len = 0 then 0 else (c.1 + 1) % len)
    match Rule.span f.img with
    | 1 =>
      let L := s.coreList f.pid
      let live := (indexed L).filterMap fun c => (s.liveAt c.2).map fun q => (c.1, c.2, q)
      let places (xs : List (Nat × CoreId × Nat × Nat × Nat)) : List (Nat × FPlace) := xs.map fun c => (c.1, .core c.2.2)
      let atHome := live.filter fun c => (c.2.2.1, c.2.2.2.1) == home
      if aff = 3 then
        match stick key0 L with
        | some c => pick L.length (places (live.filter fun x => x.2.1 == c))
        | none => none
      else if aff = 2 then pick L.length (places (live.filter fun c => c.2.1.block == some n))
      else if aff = 1 ∨ (places atHome).any fun c => decide ((s.queue c.2).length < 16) then pick L.length (places atHome)
      else pick L.length (places (live.filter fun c => c.2.2.1 == e))
    | 2 =>
      let live := (indexed M).filterMap fun b => if s.runs b.2 then (s.clusterAt b.2).map fun k => (b.1, b.2, k) else none
      let places (xs : List (Nat × BlockId × Nat × Nat × Nat)) : List (Nat × FPlace) := xs.map fun c => (c.1, .cluster c.2.2)
      if 2 ≤ aff then pick M.length (places (live.filter fun b => some b.2.1 == named))
      else pick M.length (places (live.filter fun b => (b.2.2.1, b.2.2.2.1) == home))
    | _ =>
      if 2 ≤ aff then
        match named with
        | some b => if s.runs b then (s.leastFull [(ptr, .die (s.fieldDie f.pid b.estate b.field))] ptr).map fun c => (c.2, ptr)
                    else none
        | none => none
      else (s.leastFull [(ptr, .die home)] ptr).map fun c => (c.2, ptr)

def State.modFiring (s : State) (id : Nat) (f : Firing → Firing) : State :=
  match Map.get? s.firings id with
  | some x => { s with firings := s.firings.set id (f x) }
  | none => s

/-- `firing_dispatch` (R52, R53): the oldest firing of the output buffer. -/
def execFiringDispatch (p i : Nat) (s : State) : Out :=
  .next (match s.outBuffer p i with
  | [] => s
  | (id, f) :: _ => match s.target53 f with
    | none => s
    | some (q, ptr) =>
      (({ s with nextId := s.nextId + 1 }.modFiring id fun f => { f with place := q, ord := s.nextId })).modBank p i fun k =>
        { k with tie := ptr })

/-! ## Reservations (R55 to R57) -/

/-- The context of a core that the firing has reserved. -/
def Core.reservedFor (k : Core) (id : Nat) : Option Nat :=
  ((List.range 11).drop 1).find? fun n => (k.ctx n).reserved == some id

def State.unreserve (s : State) (c : CoreId) (id : Nat) : State :=
  match (s.core c).reservedFor id with
  | some n => s.modCtx c n fun x => { x with reserved := none }
  | none => s

/-- Every core in the machine that takes firings, with its physical core. -/
def State.liveCores (s : State) : List (CoreId × Nat × Nat × Nat) :=
  ((s.blocks.flatMap fun (x : BlockId × Block) => if s.runs x.1 then x.1.cores else [])
    ++ s.parts.flatMap fun (x : Nat × Part) => (Map.keys x.2.loose).map (CoreId.virt x.1)).filterMap fun c =>
      (s.liveAt c).map fun q => (c, q)

/-- The blocks of a field firing's set: fixed when it reaches the head; a block that goes absent is dropped (R57). -/
def State.fieldSet (s : State) (f : Firing) (d : Nat × Nat) : List BlockId :=
  match (f.blocks.getD []).filter s.runs with
  | [] => (s.blocksOf f.pid).filter fun b => s.runs b && s.fieldDie f.pid b.estate b.field == d
  | bs => bs

/-- Block-queue firings' reservations on a core pass to the field firing (R57). -/
def State.yieldTo (s : State) (id : Nat) (c : CoreId) : State :=
  (List.range 11).foldl (fun s n => match (s.ctx c n).reserved with
    | some r => match Map.get? s.firings r with
      | some g => match g.place with
        | .cluster _ => s.modCtx c n fun x =>
            { x with reserved := if ((s.core c).reservedFor id).isSome then none else some id }
        | _ => s
      | none => s
    | none => s) s

/-- A firing that reaches the head of its field queue fixes its set, and takes what block heads have reserved there; later on
absent blocks leave the set. -/
def State.fixField (s : State) (d : Nat × Nat) : State :=
  match s.qhead (.die d) with
  | none => if (s.die d).fieldHead.isNone then s else s.modDie d fun x => { x with fieldHead := none }
  | some (id, f) =>
    let bs := s.fieldSet f d
    let stood := (s.die d).fieldHead == some id
    if stood ∧ f.blocks = some bs then s
    else
      let s := (s.modFiring id fun f => { f with blocks := some bs }).modDie d fun x => { x with fieldHead := some id }
      if stood then s else (bs.flatMap BlockId.cores).foldl (fun s c => s.yieldTo id c) s

/-- A block firing that is no longer at the head, or a firing that has gone, gives up what it has reserved on a core (R55). -/
def State.dropStale (s : State) (c : CoreId) : State :=
  (List.range 11).foldl (fun s n => match (s.ctx c n).reserved with
    | some r =>
      let stale := match Map.get? s.firings r with
        | some f => (match f.place with
          | .cluster k => (s.qhead (.cluster k)).map Prod.fst != some r
          | .core _ | .die _ => false
          | _ => true)
        | none => true
      if stale then s.modCtx c n fun x => { x with reserved := none } else s
    | none => s) s

/-- The heads a core serves that want a helper of it: field, block, own (R55). -/
def State.wanting (s : State) (c : CoreId) (q : Nat × Nat × Nat) : List (Nat × Firing) :=
  let k := s.core c
  let need (f : Nat × Firing) : Bool := (k.reservedFor f.1).isNone
  let fld := match s.qhead (.die (q.1, q.2.1)) with
    | some f => if need f && (match c.block with
        | some b => (f.2.blocks.getD []).contains b
        | none => false) then [f] else []
    | none => []
  let blk := match c.block with
    | some _ => (match s.qhead (.cluster (q.1, q.2.1, clusterOf q.2.2)) with
      | some f => if need f ∧ Rule.coreside f.2.img = 0 then [f] else []
      | none => [])
    | none => []
  let own := match s.qhead (.core q) with
    | some f => if need f then [f] else []
    | none => []
  fld ++ blk ++ own

/-- The winner: the highest level, the first of equals. -/
def winner (fs : List (Nat × Firing)) : Option (Nat × Firing) :=
  fs.foldl (fun m f => match m with
    | none => some f
    | some g => if g.2.prio < f.2.prio then some f else some g) none

/-- Free helpers of a core are offered, lowest first (R55). -/
def State.offerCore (s : State) (c : CoreId) (q : Nat × Nat × Nat) : Nat → State
  | 0 => s
  | fuel + 1 =>
    match (s.core c).freeHelper, winner (s.wanting c q) with
    | some n, some f => (s.modCtx c n fun x => { x with reserved := some f.1 }).offerCore c q fuel
    | _, _ => s

/-- Firings in a queue that contexts serve. -/
def Firing.queued (f : Firing) : Bool :=
  match f.place with
  | .core _ | .cluster _ | .die _ => true
  | _ => false

/-- Every reservation of the moment (R55, R57). -/
def State.offer (s : State) : State :=
  let qs := s.firings.filter fun f => f.2.queued
  let heads := (s.dies.filter fun d => d.2.fieldHead.isSome).map Prod.fst
  if qs.isEmpty ∧ heads.isEmpty then s
  else
    let dies := (heads ++ qs.filterMap fun f => match f.2.place with
      | .die d => some d
      | _ => none).dedup
    let s := dies.foldl State.fixField s
    let cs := s.liveCores
    let s := cs.foldl (fun s c => s.dropStale c.1) s
    cs.foldl (fun s c => s.offerCore c.1 c.2 10) s

/-! ## Starts (R30, R33, R50, R137) -/

/-- `firinfo` of a firing (R137). -/
def Firing.info (f : Firing) : Word :=
  BitVec.ofNat 64 (f.rule % 256 + f.prio * 2 ^ 8 + Rule.span f.img * 2 ^ 10 + Rule.arity f.img * 2 ^ 12
    + (if f.roundM then 2 ^ 15 else 0) + f.bank % 65536 * 2 ^ 16 + f.fnum % 2 ^ 16 * 2 ^ 32)

/-- Offset of a helper's binding area (R30). -/
def bindOff (n : Nat) : Nat := 0x7F000 + (n - 1) * 0x100

/-- g register of a number. -/
def regNo (n : Nat) : Reg := BitVec.ofNat 5 n

/-- Registers bound to tile i (R30). -/
def bindTile (n : Nat) (x : Ctx) (t : Nat × Tile) : Ctx :=
  ((x.setG (regNo (20 + 2 * t.1)) (tileHead0 t.2.img)).setG (regNo (21 + 2 * t.1)) (tileHead1 t.2.img)).setG (regNo (28 + t.1))
    (BitVec.ofNat 64 (0xFC * 2 ^ 56 + bindOff n + t.1 * 0x40 + 16))

/-- The copy into the binding area: a write by the helper at the firing's start, which always commits (R30, R300). -/
def State.bindCopy (s : State) (c : CoreId) (n : Nat) (f : Firing) : State :=
  let bs := f.tiles.flatMap fun t => lineBytes t.img
  let ts := [s.scratchTarget c c (bindOff n) bs.length]
  let (v, s) := s.check { core := c, ctx := n, snap := s.snapshot c n .thread, read := false, write := true, atomic := false
                          release := false, order := .plain, scope := .thread, pc := Rule.entry f.img, mode := s.modeOf c
                          always := true } ts
  let s := s.commitTargets ts bs
  match v.race with
  | some ws => s.owe c n { code := 0x13, info := { addr := BitVec.ofNat 64 (0xFC * 2 ^ 56 + bindOff n), race := some ws } }
  | none => s

/-- A helper starts a firing (R30, R33, R50). -/
def State.startOn (s : State) (id : Nat) (f : Firing) (size member : Nat) (c : CoreId) (n : Nat) : State :=
  let s := s.modCtx c n fun x =>
    let y := { x.freshThread (Rule.entry f.img) (s.cycle + 1) with firing := some id, member := member, firinfo := f.info
                                                                   fieldsize := BitVec.ofNat 64 size }
    (indexed f.tiles).foldl (bindTile n) y
  let s := (s.applyJoins c n (f.tiles.map s.tileJoin)).bindCopy c n f
  match s.place c with
  | some q => s.modPhys q fun y => { y with perf := y.perf.set 3 (y.perf.get 0 3 + 1) }
  | none => s

/-- The firing runs: its tiles' snapshots have been joined. -/
def State.nowRunning (s : State) (id : Nat) (f : Firing) : State :=
  (f.tiles.foldl (fun s t => s.dropVec t.vec) s).modFiring id fun f => { f with place := .running }

/-- Start on the context each core has reserved; the member index is the core's position in its block (R56). -/
def State.startAll (s : State) (id : Nat) (f : Firing) (size : Nat) (cs : List CoreId) : State :=
  (cs.foldl (fun s c => match (s.core c).reservedFor id with
    | some n => s.startOn id f size (if Rule.span f.img = 1 then 0 else numCore c.num) c n
    | none => s) s).nowRunning id f

/-- `firing_start` (R50, R55): a thread-span firing that has reserved a helper of the core. -/
def execFiringStart (c : CoreId) (s : State) : Out :=
  let s := s.offer
  .next (match s.liveAt c with
  | none => s
  | some q => match (s.queue (.core q)).find? fun f => ((s.core c).reservedFor f.1).isSome with
    | some (id, f) => s.startAll id f 0 [c]
    | none => s)

/-- `block_firing_start` (R56): the head holds a helper on all sixteen cores; a coreside firing goes to the holding area while it
has room (R61, R320). -/
def execBlockFiringStart (b : BlockId) (s : State) : Out :=
  let s := s.offer
  .next (match (if s.runs b then s.clusterAt b else none) with
  | none => s
  | some k => match s.qhead (.cluster k) with
    | none => s
    | some (id, f) =>
      if Rule.coreside f.img ≠ 0 then
        if (s.firings.filter fun g => g.2.place == .coreside && g.2.pid == f.pid).length < queueDepth .coreside then
          { s with nextId := s.nextId + 1 }.modFiring id fun f => { f with place := .coreside, ord := s.nextId }
        else s
      else if b.cores.all fun c => ((s.core c).reservedFor id).isSome then s.startAll id f 0 b.cores
      else s)

/-- `field_firing_start` (R57): the head holds a helper on every core of its set. -/
def execFieldFiringStart (p e d : Nat) (s : State) : Out :=
  let s := s.offer
  .next (match s.qhead (.die (e, d)) with
  | none => s
  | some (id, f) =>
    let bs := f.blocks.getD []
    let cs := bs.flatMap BlockId.cores
    if f.pid = p ∧ bs ≠ [] ∧ cs.all fun c => ((s.core c).reservedFor id).isSome then s.startAll id f bs.length cs else s)

/-- Is a firing of the rule running on the block? -/
def State.runsRule (s : State) (b : BlockId) (rule : Nat) : Bool :=
  b.cores.any fun c => (List.range 11).any fun n => match (s.ctx c n).firing with
    | some id => (match Map.get? s.firings id with
      | some f => f.rule == rule
      | none => false)
    | none => false

/-- Firings of a rule in the holding area, oldest first. -/
def State.heldFor (s : State) (p rule : Nat) : List (Nat × Firing) :=
  sortBy (fun f => f.2.ord) (s.firings.filter fun f => f.2.pid == p && f.2.rule == rule && f.2.place == .coreside)

/-- One member of a co-resident set: its helpers are the lowest free ones. -/
def State.startMember (s : State) (set : Nat) (f : Nat × Firing) (b : BlockId) : State :=
  let s := b.cores.foldl (fun s c => match (s.core c).freeHelper with
    | some n => s.modCtx c n fun x => { x with reserved := some f.1 }
    | none => s) s
  (s.startAll f.1 f.2 0 b.cores).modFiring f.1 fun f => { f with set := some set }

/-- `coreside_set_start` (R61): c firings held, and c blocks free of firings of the rule with a free helper on every core; lowest
virtual block first, oldest firing first. -/
def execCoresideSetStart (p rule : Nat) (s : State) : Out :=
  let fs := s.heldFor p rule
  .next (match fs with
  | [] => s
  | f :: _ =>
    let c := Rule.coreside f.2.img
    let bs := (s.blocksOf p).filter fun b => s.runs b && !s.runsRule b rule && b.cores.all fun c => ((s.core c).freeHelper).isSome
    if c ≤ fs.length ∧ c ≤ bs.length then
      ((fs.take c).zip bs).foldl (fun t m => t.startMember s.nextId m.1 m.2) { s with nextId := s.nextId + 1 }
    else s)

/-! ## Retirement (R51) -/

/-- A firing none of whose helpers runs any more has retired. -/
def State.retireFirings (s : State) : State :=
  let live (id : Nat) : Bool := s.cores.any fun c => c.2.ctxs.any fun x => x.2.firing == some id && x.2.run != .free
  { s with firings := s.firings.filter fun f => !(f.2.place == .running && !live f.1) }

/-! ## Co-resident sets (R61) -/

/-- The firing runs on a context of the block. -/
def State.runsOn (s : State) (b : BlockId) (id : Nat) : Bool :=
  s.cores.any fun c => c.1.block == some b && c.2.ctxs.any fun x => x.2.firing == some id && x.2.run != .free

/-- The blocks of each set that runs. -/
def State.sets (s : State) (p : Nat) : List (List BlockId) :=
  let fs := s.firings.filter fun f => f.2.pid == p && f.2.set.isSome
  ((fs.map fun f => f.2.set).dedup).map fun n => (s.blocksOf p).filter fun b =>
    fs.any fun f => f.2.set == n && s.runsOn b f.1

/-- Add every set that shares a block with what is there. -/
def joinSets (sets : List (List BlockId)) : Nat → List BlockId → List BlockId
  | 0, bs => bs
  | n + 1, bs => joinSets sets n (sets.foldl (fun bs g => if g.any bs.contains then bs ++ g.filter (!bs.contains ·) else bs) bs)

/-- The blocks that swap with this one: those of its co-resident sets, and of theirs (R61, R66). -/
def State.comates (s : State) (b : BlockId) : List BlockId :=
  let sets := s.sets b.pid
  joinSets sets sets.length [b]

end Sys2Proof.Machine
end

