-- ==== Sys2Proof/Machine/Levee.lean ====
section
/-! DEFINITION. The Levee (R40 to R43, R356 to R358, R364, R365, R429): idle lanes, stability, rounds. -/

namespace Sys2Proof.Machine

/-! ## The idle lane (R40) -/

/-- A request that its bank keeps to the round's close (R328). -/
def Msg.keptToClose (m : Msg) : Bool := m.bankKey.isSome && m.stage == .held

/-- In round mode a context is Waiting from the issue of its `probe` or `take` until that is served (R328). -/
def State.keptRequest (s : State) (c : CoreId) (n : Nat) : Bool :=
  s.msgs.any fun m => m.2.core == c && m.2.ctx == n && m.2.bankKey.isSome && s.roundMode c.pid && (match m.2.stage with
    | .sent | .held | .rehold => true
    | _ => false)

/-- A context counts as idle: not live, waiting, or the exempt control context (R40, R328, R429). -/
def State.ctxIdle (s : State) (c : CoreId) (n : Nat) : Bool :=
  let x := s.ctx c n
  match x.run with
  | .free => true
  | .parked => false
  | .ready | .stalled => !s.isHalted c n && (x.exempt || s.keptRequest c n)
  | .waiting _ => !s.isHalted c n

/-- A core: its contexts, its engines, its signals, and the posts it holds (R40, R60, R125). -/
def State.coreIdle (s : State) (c : CoreId) : Bool :=
  let k := s.core c
  s.isFenced c || ((List.range 11).all fun n => s.ctxIdle c n) && k.cmds.isEmpty && k.mreqs.isEmpty && k.sigs.isEmpty
    && k.hold.isEmpty && !k.swaitDue

/-- Does a firing make the lane busy: waiting to leave or to start (R40, R61)? -/
def State.firingBusy (s : State) (f : Nat × Firing) : Bool :=
  match f.2.place with
  | .running => false
  | .coreside =>
    let c := Rule.coreside f.2.img
    decide (c ≤ (s.heldFor f.2.pid f.2.rule).length) && decide (c ≤ (s.blocksOf f.2.pid).length)
  | _ => true

/-- Is a group formable by the rules at the bank's sluice, or by the changes still on their way to it (R25, R429)? -/
def State.bankFormable (s : State) (p i : Nat) (ts : List Tile) : Bool :=
  formable (s.rulesAt p i) ts || formable (validRules (s.part p).rules) ts

/-- A bank's sluice: a group to form, in round mode of the current round's set (R40). -/
def State.bankBusy (s : State) (p i : Nat) : Bool :=
  let k := s.bank p i
  if s.roundMode p then
    if (s.part p).inRound then !k.groups.isEmpty
    else !(s.part p).rlimit && s.bankFormable p i k.tiles
  else s.bankFormable p i (k.tiles.filter (·.matchable))

/-- Bank-list indices of a partition. -/
def State.bankIdx (s : State) (p : Nat) : List Nat := List.range (s.part p).banks.length

/-- A message of the partition in a router or interface; those of the exempt context are not counted (R40, R429). -/
def State.msgBusy (s : State) (p : Nat) (m : Msg) : Bool :=
  m.core.pid == p && !m.keptToClose && !(s.ctx m.core m.ctx).exempt

/-- The partition's lane is idle (R40). -/
def State.laneIdle (s : State) (p : Nat) : Bool :=
  ((s.coresOf p).all fun c => s.coreIdle c)
  && (s.blocks.all fun b => b.1.pid != p || b.2.residence != .absent || b.2.fenced)
  && (s.firings.all fun f => f.2.pid != p || !s.firingBusy f)
  && ((s.bankIdx p).all fun i => !s.bankBusy p i)
  && (s.msgs.all fun m => !s.msgBusy p m.2)
  && (s.inserts.all fun x => !(x.2.stage == .sent && (x.2.core.pid == p || x.2.pid == p)))
  && (s.part p).moving.isEmpty

/-! ## `wstill` (R42, R358, R429) -/

/-- Virtual core of the designated control context (R48). -/
def State.dcc (s : State) (p : Nat) : CoreId := .virt p (Record.dcc (s.record p (s.homeEstate p)))

/-- The stability acquire: the clock entries for every party of the partition rise to their present counters (R233). -/
def State.stabilityAcquire (s : State) (c : CoreId) (n : Nat) : State :=
  let me := partyOf c n
  let parties := (s.coresOf c.pid).flatMap fun k => (List.range 11).map fun m => partyOf k m
  s.modCtx c n fun x => { x with clk := parties.foldl (fun m q =>
    if q = me then m
    else
      let k := sharedLevel me q
      let v := s.unitCounter c.pid q k
      if m.get 0 (k, q.idx k) < v then m.set (k, q.idx k) v else m) x.clk }

/-- The context at issue is released. -/
def State.passStill (s : State) (o : OpS) : State :=
  let v : Word := if s.myPart.rlimit then 3 else 1
  ((s.stabilityAcquire s.cur.1 s.cur.2).modMe fun x => { x with exempt := true }).putG o.d v

/-- `wstill` (R358); a release recorded in the block's image passes it too (R48). -/
def execWstill (o : OpS) (s : State) : Out :=
  .next (
    if s.cur.2 = 0 ∧ s.cur.1.isVirt ∧ s.cur.1 = s.dcc s.pid ∧ (s.myPart.pend ∨ s.me.released) then
      ((s.modPart s.pid fun x => { x with pend := false }).modMe fun x => { x with released := false }).passStill o
    else s.wait (.wstill o))

/-- Every bank fixes its set and the round's groups over it, by the rules that have reached it (R25, R36). -/
def State.fixGroups (s : State) (p : Nat) : State :=
  (s.bankIdx p).foldl (fun s i =>
    let s := s.reachRules p i
    s.modBank p i fun k => { k with groups := roundGroups (s.rulesAt p i) k.tiles, formed := 0 }) s

/-- Entering round mode: tiles are ranked, and round 1 begins (R36, R39). -/
def State.enterRound (s : State) (p : Nat) : State :=
  let s := (s.bankIdx p).foldl (fun s i => s.modBank p i fun k =>
    { k with tiles := (indexed k.tiles).map fun t => { t.2 with seq := roundSeq 0 0xFFFF t.1 0, matchable := true }, others := 0 }) s
  (s.modPart p fun x => { x with round := 1, inRound := true, sampled := none }).fixGroups p

/-- A partition in round mode whose round 1 has not begun: no control context of it has started yet (R365). -/
def State.unbegun (s : State) (p : Nat) : Bool := s.roundMode p && (s.part p).round == 0

/-- A control context of the partition has started. -/
def State.hasStarted (s : State) (p : Nat) : Bool := s.cores.any fun c => c.1.isVirt && c.1.pid == p && (c.2.ctx 0).run != .free

/-- The lane is busy: stability is disturbed, to be detected afresh, and a suspended round resumes (R42, R357, R365). In round mode
the settle interval runs from where the lane becomes idle (R364). -/
def State.disturb (s : State) (p : Nat) : State :=
  let resumes := s.roundMode p && !(s.part p).inRound && !s.unbegun p
  let s := s.modPart p fun x =>
    { x with stable := false, pend := false, disturbed := true, coreStarved := false, inRound := x.inRound || resumes
             sampled := if x.disturbed && !s.roundMode p then x.sampled else none }
  if resumes then s.fixGroups p else s

def State.watch (s : State) (p : Nat) : State := if s.laneIdle p then s else s.disturb p

/-- Partitions that exist (R312). -/
def State.activeParts (s : State) : List Nat :=
  (Map.keys s.parts).filter fun p => (List.range 64).any fun e => Record.active (s.record p e)

/-! ## Stability (R41, R42, R61, R354) -/

/-- The settle interval, with the fabric's transit bound where the partition spans packages (R41): those of its lowest estate
(log 111). -/
def State.settle (s : State) (p : Nat) : Nat :=
  let es := (List.range 64).filter fun e => Record.active (s.record p e)
  Record.settle (s.record p (s.homeEstate p)) + (if 1 < es.length then (s.estate (s.homeEstate p)).fabxb.toNat else 0)

/-- Insertions in flight that the tests count: those held to a round's close are left out (R364). -/
def State.countedInserts (s : State) (p : Nat) : Nat :=
  (s.part p).insflight - (s.inserts.filter fun x => x.2.pid == p && x.2.stage == .held).length

/-- Rules with a partial co-resident set, with the firings held (R61). -/
def State.partialSets (s : State) (p : Nat) : List (Nat × Nat) :=
  (((s.firings.filter fun f => f.2.pid == p && f.2.place == .coreside).map fun f => f.2.rule).dedup).map fun r =>
    (r, (s.heldFor p r).length)

/-- A waiting barrier or a partial set: reported, and no stability (R41, R61, R354). -/
def State.starves (s : State) (p : Nat) : Option State :=
  let bars := (s.barriersOf p).filter fun k => decide (0 < (s.barrier k).total)
  let sets := s.partialSets p
  if bars.isEmpty ∧ sets.isEmpty then none
  else
    let s := (bars.filter s.starving).foldl (fun s k => s.starveBar k 0) s
    some (if (s.part p).coreStarved then s
      else (sets.foldl (fun s r => s.starvation p (s.homeEstate p) 3 0 0 0 (r.1 % 64) 0 r.2) s).modPart p fun x =>
        { x with coreStarved := !sets.isEmpty })

/-- Stability is declared: the designated control context is released, or the release is owed, or recorded with it where its block
leaves the machine or has stopped for it, and it is exempt from there (R42, R48, R357, R429). -/
def State.declare (s : State) (p : Nat) (limit : Bool) : State :=
  let c := s.dcc p
  let s := s.modPart p fun x => { x with stable := true, disturbed := false, rlimit := limit, sampled := none }
  match (s.ctx c 0).run with
  | .waiting (.wstill _) =>
    if s.isResident c ∧ !s.swapping c ∧ !s.isHalted c 0 ∧ !s.isFenced c then s.wake c 0 fun i s => match i with
      | .wstill o => s.passStill o
      | _ => s
    else s.modCtx c 0 fun x => { x with released := true, exempt := true }
  | _ => s.modPart p fun x => { x with pend := true }

/-! ## Rounds (R36, R38, R43, R364, R365) -/

/-- What a bank has kept to the close: insertions and requests, by arrival. -/
structure Kept where
  arr : Nat
  insert : Bool
  id : Nat
deriving DecidableEq, Repr

/-- Insertions left from earlier closes, then insertions and requests of the round in arrival order, then inlet tiles. -/
def State.kept (s : State) (p i : Nat) : List Kept :=
  let r := (s.part p).round.toNat
  let held := (s.heldInserts p i).map fun x => (x.2, ({ arr := x.2.arr, insert := true, id := x.1 } : Kept))
  let reqs := (s.msgs.filter fun m => m.2.core.pid == p && m.2.keptToClose && m.2.bankKey.map (s.homeOf p) == some i).map
    fun m => ({ arr := m.2.seq, insert := false, id := m.1 } : Kept)
  let pick (f : Insert → Bool) : List Kept := (held.filter fun x => f x.1).map Prod.snd
  sortBy Kept.arr (pick fun x => decide (x.round < r))
    ++ sortBy Kept.arr (pick (fun x => decide (r ≤ x.round) && x.rank != .inlet) ++ reqs)
    ++ sortBy Kept.arr (pick fun x => decide (r ≤ x.round) && x.rank == .inlet)

/-- Behind an insertion that its full region refuses, every held one stays (R364). -/
def State.closeKept (p i : Nat) (b : Bool × State) (k : Kept) : Bool × State :=
  if k.insert then
    if b.1 then b
    else match Map.get? b.2.inserts k.id with
      | some x =>
        let s := b.2.commitInsert k.id p i x
        ((match Map.get? s.inserts k.id with
          | some y => y.stage == .held
          | none => false), s)
      | none => b
  else (b.1, b.2.serveRequest p i k.id)

/-- A bank's share of the close: products become matchable, what was held acts. -/
def State.closeBank (s : State) (p i : Nat) : State :=
  let s := s.modBank p i fun k => { k with tiles := k.tiles.map fun t => { t with matchable := true } }
  ((s.kept p i).foldl (State.closeKept p i) (false, s)).2.modBank p i fun k => { k with others := 0 }

/-- The round closes, and the next one's groups are fixed; with none to form, stability is declared at the close (R365), as it is
with the flag after round 0xFF_FFFF (R38). While a barrier member waits there is no stability, and the next round is in progress
(log 112). -/
def State.closeRound (s : State) (p : Nat) : State :=
  let last := decide ((s.part p).round.toNat % 2 ^ 24 = 2 ^ 24 - 1)
  let s := (s.bankIdx p).foldl (fun s i => s.closeBank p i) s
  let s := (s.modPart p fun x => { x with round := x.round + 1, sampled := none }).fixGroups p
  let more := (s.bankIdx p).any fun i => !(s.bank p i).groups.isEmpty
  if more ∧ !last then s
  else match s.starves p with
    | some s => s
    | none => (s.modPart p fun x => { x with inRound := false }).declare p more

/-- May the round close: its firings have retired, and no insertion but the held ones is in flight (R43, R75)? -/
def State.closable (s : State) (p : Nat) : Bool :=
  (s.firings.all fun f => f.2.pid != p) && ((s.bankIdx p).all fun i => (s.bank p i).groups.isEmpty)
    && s.countedInserts p == 0 && (s.part p).moving.isEmpty

/-- The second sample of an idle lane (R41, R43): a round that can close does; else, with no insertion in flight, what starves is
reported (R61, R354), and in free mode a lane on which nothing does is stable. -/
def State.secondSample (s : State) (p : Nat) : State :=
  let again (s : State) : State := s.modPart p fun x => { x with sampled := some s.cycle }
  let holds := s.roundHolds p
  if s.unbegun p then again s
  else if holds && s.closable p then s.closeRound p
  else if !holds && !(s.part p).disturbed then s
  else if s.countedInserts p ≠ 0 then again s
  else match s.starves p with
    | some s => again s
    | none => if holds then again s else s.declare p false

/-- Has the settle interval passed since the first sample? -/
def State.settled (s : State) (p : Nat) : Bool :=
  match (s.part p).sampled with
  | some t => decide (t + s.settle p ≤ s.cycle)
  | none => false

/-- Levee traffic on VC2: each other estate of the partition tells its home how its lane stands (R396). -/
def State.leveeReport (s : State) (p : Nat) : State :=
  if s.onWire .note then s
  else ((List.range 64).filter fun e => Record.active (s.record p e) && e != s.homeEstate p).foldl
    (fun s e => s.packet e (s.homeEstate p) 2 .note []) s

/-- `levee_sample` (R41): the first sample of an idle lane, or the second. -/
def execLeveeSample (p : Nat) (s : State) : Out :=
  .next (
    if !s.activeParts.contains p then s
    else if !s.laneIdle p then s.modPart p fun x => { x with sampled := none }
    else if (s.part p).sampled.isNone then (s.leveeReport p).modPart p fun x => { x with sampled := some s.cycle }
    else if s.settled p then (s.leveeReport p).secondSample p
    else s)

/-- `round_close` (R43). -/
def execRoundClose (p : Nat) (s : State) : Out :=
  .next (if s.roundHolds p ∧ s.laneIdle p ∧ s.settled p ∧ s.closable p then s.closeRound p else s)

end Sys2Proof.Machine
end

