-- ==== Sys2Proof/Machine/Renumber.lean ====
section
/-! DEFINITION. The loose cores of a die and their indices (R123, R415), and what a new index changes (R417; log 76). -/

namespace Sys2Proof.Machine

/-- Bits of a core-map entry (R317). -/
def cmapBlock : Nat := 16
def cmapSpare : Nat := 17
def cmapRetired : Nat := 18

/-- The loose cores of a die in row-major order: healthy cores of spare clusters (R415). -/
def State.looseOf (s : State) (e d : Nat) : List Nat :=
  (List.range 1024).filter fun m =>
    let w := (s.die (e, d)).cmap.get 0 (clusterOf m)
    w.getLsbD cmapSpare && !w.getLsbD cmapRetired && w.getLsbD (m / 32 % 4 * 4 + m % 4)

/-- Index of a loose core on its die. -/
def State.looseIdx (s : State) (q : Nat × Nat × Nat) : Option Nat :=
  let ms := s.looseOf q.1 q.2.1
  let i := (ms.filter fun m => decide (m < q.2.2)).length
  if ms.contains q.2.2 ∧ i < 64 then some i else none

/-- Virtual number of a loose core: its die's virtual field and its index (R123). -/
def State.looseNum (s : State) (p : Nat) (q : Nat × Nat × Nat) : Option Nat :=
  let r := s.record p q.1
  match (List.range 8).find? fun f => Record.fvalid r f && Record.fdie r f == q.2.1 with
  | some f => (s.looseIdx q).map fun i => 2 ^ 19 + q.1 * 2 ^ 13 + f * 2 ^ 10 + i * 2 ^ 4
  | none => none

/-- A loose core of a partition gets another number. -/
structure Renamed where
  pid : Nat
  old : Nat
  new : Nat
deriving DecidableEq, Repr

def Renamed.core (r : Renamed) (c : CoreId) : CoreId := if c = .virt r.pid r.old then .virt r.pid r.new else c

def Renamed.unit (r : Renamed) (u : DUnit) : DUnit := if u = .loose r.pid r.old then .loose r.pid r.new else u

def Renamed.snap (r : Renamed) (v : Snap) : Snap :=
  if v.pid = r.pid ∧ v.who.vcore = r.old then { v with who := { v.who with vcore := r.new } } else v

/-- Bytes of the core's scratchpad, at their new place and address. -/
def Renamed.target (r : Renamed) (t : Target) : Target :=
  if t.unit = .loose r.pid r.old then
    { t with unit := .loose r.pid r.new, va := t.va - r.old * 2 ^ 29 + r.new * 2 ^ 29
             loc := t.loc - scratchLoc (.virt r.pid r.old) 0 + scratchLoc (.virt r.pid r.new) 0 }
  else t

def Renamed.body (r : Renamed) : Body → Body
  | .access a ts => .access a (ts.map r.target)
  | .post t x v => .post (r.core t) x v
  | .close st u => .close st (r.unit u)
  | b => b

def Renamed.msg (r : Renamed) (m : Msg) : Msg :=
  { m with core := r.core m.core, body := r.body m.body, snap := r.snap m.snap, seqUnit := m.seqUnit.map r.unit }

def Renamed.req (r : Renamed) (q : MReq) : MReq := { q with snap := r.snap q.snap }

def Renamed.ctx (r : Renamed) (x : Ctx) : Ctx :=
  { x with slots := x.slots.map fun k => { k with unit := r.unit k.unit }
           holds := x.holds.map fun h => { h with unit := r.unit h.unit }
           failures := x.failures.map fun f => { f with units := f.units.map r.unit }
           progress := x.progress.map fun p => (p.1, p.2.1, p.2.2.1, r.snap p.2.2.2.1, p.2.2.2.2) }

def Renamed.inside (r : Renamed) (k : Core) : Core :=
  { k with ctxs := k.ctxs.map fun x => (x.1, r.ctx x.2)
           cmds := k.cmds.map fun x => (x.1, { x.2 with snap := r.snap x.2.snap, link := x.2.link.map r.req })
           mreqs := k.mreqs.map r.req
           sigs := k.sigs.map fun g => { g with vec := g.vec.map r.snap } }

def Renamed.weir (r : Renamed) (k : WeirKey) : WeirKey := { k with core := r.core k.core, unit := r.unit k.unit }

def Renamed.packet (r : Renamed) (p : Packet) : Packet :=
  match p.cargo with
  | .piece c id => { p with cargo := .piece (r.core c) id }
  | _ => p

def Renamed.link (r : Renamed) (l : Link) : Link :=
  { l with sendq := l.sendq.map r.packet, replay := l.replay.map fun x => { x with pkt := r.packet x.pkt } }

def Renamed.waiter (r : Renamed) : Waiter → Waiter
  | .fetch c n => .fetch (r.core c) n
  | .cmd c id => .cmd (r.core c) id
  | .mst c a => .mst (r.core c) a

def Renamed.part (r : Renamed) (q : Nat × Part) : Nat × Part :=
  if q.1 = r.pid then
    (q.1, { q.2 with loose := q.2.loose.map fun l => (if l.1 = r.old then r.new else l.1, l.2)
                     stopped := q.2.stopped.map fun c => (r.core c.1, c.2) })
  else q

/-- Everything that names the core names it by its new number: its state, its scratchpad and accumulators, and what is on its way
from and to it. -/
def State.renameCore (s : State) (r : Renamed) : State :=
  let a := CoreId.virt r.pid r.old
  let b := CoreId.virt r.pid r.new
  let s := (s.moveRange (scratchLoc a 0) (2 ^ 19) (scratchLoc b 0)).blankRange (scratchLoc a 0) (2 ^ 19)
  let s := (s.moveRange (accLoc a 0 0) (2 ^ 17) (accLoc b 0 0)).blankRange (accLoc a 0 0) (2 ^ 17)
  { s with cur := (r.core s.cur.1, s.cur.2)
           cores := s.cores.map fun k => (r.core k.1, r.inside k.2)
           parts := s.parts.map r.part
           msgs := s.msgs.map fun m => (m.1, r.msg m.2)
           weirs := s.weirs.map fun w => (r.weir w.1, w.2)
           inserts := s.inserts.map fun x => (x.1, { x.2 with core := r.core x.2.core, snap := x.2.snap.map r.snap })
           clusters := s.clusters.map fun k => (k.1, { k.2 with waiters := k.2.waiters.map fun w => (r.waiter w.1, w.2) })
           estates := s.estates.map fun e => (e.1, { e.2 with links := e.2.links.map fun l => (l.1, r.link l.2) }) }

/-- Loose cores of a die whose index has changed, lowest first: an index only falls, so that its new number is free (R417). -/
def State.renamedOn (s : State) (e d : Nat) : List Renamed :=
  s.parts.flatMap fun p =>
    (sortBy Prod.fst (p.2.loose.filter fun (l : Nat × (Nat × Nat × Nat)) => l.2.1 == e && l.2.2.1 == d)).filterMap fun l =>
      match s.looseIdx l.2 with
      | some i =>
        let n := l.1 - numBlock l.1 * 16 + i * 16
        if n = l.1 then none else some { pid := p.1, old := l.1, new := n }
      | none => none

/-- The loose indices of a die are counted anew; line records of the partitions concerned name cores by number, and are discarded
(R417; log 76). -/
def State.renumberLoose (s : State) (e d : Nat) : State :=
  (s.renamedOn e d).foldl (fun s r =>
    let s := s.dieKeys.foldl (fun t k => t.dropRecords (fun x => (s.asidsOf r.pid).contains x.1) k) s
    s.renameCore r) s

end Sys2Proof.Machine
end

