-- ==== Sys2Proof/Machine/Fencing.lean ====
section
/-! DEFINITION. The event recorder (R418), what a fence does to the rest of the machine (R211, R321, R353, R379), reviving and
thawing a block (R380, R386), uncorrectable errors (R209, R379), the test of a fenced block's cluster (R317, R380, R417). -/

namespace Sys2Proof.Machine

/-- `sswap`: status, block and slot of a swap that failed, with the SWAP notice (R386). -/
def State.swapRecord (s : State) (b : BlockId) (status slot : Nat) : State :=
  let w : Word := BitVec.ofNat 64 (status + b.vblock * 2 ^ 4 + b.field * 2 ^ 10 + slot % 2 ^ 32 * 2 ^ 32)
  ((s.modPart b.pid fun p => { p with sswap := w }).notice b.pid noticeSwap).logEvent (s.fieldDie b.pid b.estate b.field) 6 0 w.toNat

/-! ## Fencing (R379) -/

/-- The block a firing's affinity names: by number, or by its key (R53). -/
def State.namedBlock (s : State) (f : Firing) : Option BlockId :=
  let key0 := match f.tiles with
    | t :: _ => tileKey0 t.img
    | [] => 0
  if Rule.aff f.img = 3 then
    if Rule.span f.img = 1 then (stick key0 (s.coreList f.pid)).bind CoreId.block else stick key0 (s.blocksOf f.pid)
  else if Rule.aff f.img = 2 then
    match s.bankAt f.pid f.bank with
    | some (_, _, e) =>
      let b : BlockId := { pid := f.pid, estate := e, field := Rule.affField f.img, vblock := Rule.affBlock f.img }
      if s.hasBlock b then some b else none
    | none => none
  else none

/-- Is a firing queued on the block's cluster, saved for it, or held for it? -/
def State.waitsFor (s : State) (b : BlockId) (f : Firing) : Bool :=
  match f.place with
  | .core q => s.clusterAt b == some (q.1, q.2.1, clusterOf q.2.2)
  | .cluster k => s.clusterAt b == some k
  | .saved c _ => c == b
  | .out => s.namedBlock f == some b
  | _ => false

/-- Drop the firings a fence discards. -/
def State.dropFirings (s : State) (b : BlockId) : Nat × State :=
  let dead := s.firings.filter fun f => s.waitsFor b f.2
  let s1 := dead.foldl (fun s f => f.2.tiles.foldl (fun s t => s.dropVec t.vec) s) s
  (dead.length, { s1 with firings := s1.firings.filter fun f => !(dead.any fun g => g.1 == f.1) })

/-- Drop the insertions of its contexts that have not been sent (R321). -/
def State.dropInserts (s : State) (b : BlockId) : Nat × State :=
  let isDead (x : Insert) : Bool := x.core.block == some b && x.buf.isSome && x.stage == .waiting
  let n := (s.inserts.filter fun x => isDead x.2).length
  (n, ({ s with inserts := s.inserts.filter fun x => !isDead x.2 } : State).modPart b.pid fun p =>
        { p with insflight := p.insflight - n })

/-- The fenced block's bit leaves the mask of every field barrier of its field, and its arrivals the total (R353). -/
def State.leaveBarriers (s : State) (b : BlockId) : State :=
  (s.barriersOf b.pid).foldl (fun s k => match k with
    | .fld _ e f _ =>
      if e = b.estate ∧ f = b.field then
        let x := s.barrier k
        (s.setBarrier k { x with mask := x.mask &&& ~~~(BitVec.ofNat 64 (2 ^ b.vblock)), total := x.total - x.arr.get 0 b.vblock
                                 arr := x.arr.erase b.vblock }).tryBar k
      else s
    | .blk .. => s) s

/-- A fenced core: its threads are out of their firings, its commands and requests are abandoned, its accumulators are
poisoned (R211, R321). -/
def fencedCore (k : Core) : Core :=
  { k with ctxs := k.ctxs.map fun p => (p.1, { p.2 with firing := none, reserved := none })
           cmds := [], mreqs := [], mpoison := List.range 8 }

/-- Messages that had passed to a fenced block's interface and wait there are refused (R124, R379). -/
def State.refuseHeld (s : State) (b : BlockId) : State :=
  { s with msgs := s.msgs.map fun m =>
      if m.2.unit = some (.block b) then
        match m.2.stage, m.2.body with
        | .rehold, _ => (m.1, { m.2 with stage := .sent })
        | .held, .post .. => (m.1, { m.2 with stage := .done 4 })
        | _, _ => m
      else m }

/-- The fence record (R379). -/
def fenceWord (b : BlockId) (cause ins fir : Nat) : Word :=
  BitVec.ofNat 64 (cause % 16 + b.vblock * 2 ^ 4 + b.field * 2 ^ 10 + b.estate * 2 ^ 13 + min 65535 ins * 2 ^ 32
    + min 65535 fir * 2 ^ 48)

/-- A block on its way to a cluster that goes out of service is absent and ready again (R72, R380). -/
def State.turnBack (s : State) (k : Nat × Nat × Nat) : State :=
  (s.blocks.filter fun b => match b.2.swap with
    | .entering j _ => j == k
    | _ => false).foldl (fun s b => (s.modBlock b.1 fun x => { x with held := false, swap := .none }).releaseUnit (.block b.1)) s

/-- The fence of a block resident on a cluster. -/
def State.finishFence (s : State) (b : BlockId) (cause : Nat) : State :=
  let q := s.clusterAt b
  let s := match q with
    | some k => s.turnBack k
    | none => s
  let s := s.modBlock b fun x =>
    { x with fenced := true, fenceDue := none, held := false, swap := .none, bars := [], array := none
             spoison := List.range 64 }
  let s := b.cores.foldl (fun s c => s.modCore c fencedCore) s
  let (ins, s) := s.dropInserts b
  let (fir, s) := s.dropFirings b
  let s := (s.leaveBarriers b).refuseHeld b
  let w := fenceWord b cause ins fir
  let s := (s.modPart b.pid fun p => { p with sfence0 := w, sfence1 := s.tbaseOf b.estate }).notice b.pid noticeFence
  match q with
  | some (e, d, k) =>
    (s.modCluster (e, d, k) fun x => { x with testing := true }).logEvent (e, d) 1 (meshOf k 0)
      (w.toNat + (s.tbaseOf e).toNat * 2 ^ 64)
  | none => s

/-- Fence a block that is in the machine and not fenced yet: an image is not affected (R70). -/
def State.fenceBlock (s : State) (b : BlockId) (cause : Nat) : State :=
  if (s.clusterAt b).isSome ∧ !(s.block b).fenced then s.finishFence b cause else s

/-- Fences that an instruction of the turn has begun (R370). -/
def State.finishFences (s : State) : State :=
  (s.blocks.filter fun b => b.2.fenceDue.isSome).foldl (fun s b => s.finishFence b.1 (b.2.fenceDue.getD 3)) s

/-- `fence` (R379): a supervisor's request, a fatal fault of context 0, or an error. -/
def execFence (b : BlockId) (cause : Nat) (s : State) : Out :=
  .next (if 1 ≤ cause ∧ cause ≤ 5 then s.fenceBlock b cause else s)

/-- `fence_propagate` (R379): every interface reads one remap entry in this model, so the other interfaces know already
(log 33). -/
def execFencePropagate (_b : BlockId) (s : State) : Out := .next s

/-! ## Thawing and reviving (R380, R386) -/

/-- Accesses of the replay queue go to the walkers again, and their contexts run (R73); a waiting context issues its instruction
again (R127, R346, R352, R358). -/
def State.restart (s : State) (c : CoreId) : State :=
  (List.range 11).foldl (fun s n =>
    let x := s.ctx c n
    match x.run with
    | .parked => if x.waitPages.isEmpty then (s.replay c n).ready c n else s
    | .waiting _ => s.ready c n
    | _ => s) s

/-- CMD 1 of `blkcmd`. -/
def State.thaw (s : State) (b : BlockId) : State :=
  if (s.block b).swap = .frozen then b.cores.foldl State.restart (s.modBlock b fun x => { x with swap := .none }) else s

/-- CMD 2 of `blkcmd`: the fenced block is absent and ready with a blank image. -/
def State.revive (s : State) (b : BlockId) : State :=
  if !(s.block b).fenced then s
  else
    let s := s.blankBlock b
    { s with cores := s.cores.filter fun c => c.1.block != some b
             msgs := s.msgs.map fun m => if m.2.core.block = some b then (m.1, { m.2 with detached := true }) else m
             blocks := s.blocks.set b { residence := .absent, readyAt := s.cycle } }

/-- `blkcmd_thaw` (R386). -/
def execBlkcmdThaw (b : BlockId) (s : State) : Out := .next (s.thaw b)

/-- `blkcmd_revive` (R380). -/
def execBlkcmdRevive (b : BlockId) (s : State) : Out := .next (s.revive b)

/-! ## Uncorrectable errors (R209, R379) -/

/-- Fence the block of a core, or stop a core that has none (log 20). -/
def State.fenceCore (s : State) (c : CoreId) (cause : Nat) : State :=
  match c.block with
  | some b => s.fenceBlock b cause
  | none => s.modCore c fun k => { k with fenced := true }

/-! ## Fatal faults (R370) -/

/-- An outstanding request that a fatal fault detaches: one whose reply would write g or v registers, or a `probe`. -/
def Msg.detaches (m : Msg) : Bool :=
  m.answers && (match m.body with
    | .take .. => false
    | _ => true)

/-- Helper `n` of core `c` is ended by firmware: its requests are detached, its replay entries discarded, its register marks
cleared; what it has sent besides goes on. -/
def State.endHelper (s : State) (c : CoreId) (n : Nat) : State :=
  let mine (m : Msg) : Bool := m.core == c && m.ctx == n && !m.detached
  let dead := s.msgs.filter fun m => mine m.2 && m.2.stage == .parked
  let s1 := dead.foldl (fun s m => match m.2.dst with
    | .x r => s.modCore c fun k => k.setMail r { k.mail r with await := false }
    | _ => s) s
  let s2 : State := { s1 with
    msgs := (s1.msgs.filter fun m => !(mine m.2 && m.2.stage == .parked)).map fun m =>
      if (mine m.2 && m.2.detaches) = true then (m.1, { m.2 with detached := true }) else m }
  (s2.modCtx c n fun x => { x with pend := [], errs := [], owed := none, holdOn := [], waitPages := [] }).freeCtx c n

/-- The fault that firmware took of a context is fatal: a helper ends, context 0 fences its block. It comes once no access of
the context is being translated, as every instruction of firmware does (log 103). -/
def State.fatal (s : State) (c : CoreId) (n : Nat) : State :=
  let x := s.ctx c n
  if x.run == .free || x.level != .fw || !x.busyF || s.isFenced c || !s.isResident c
      || (s.msgsOf c n).any fun m => m.2.stage == .walk then s
  else if n = 0 then s.fenceCore c 4
  else s.endHelper c n

/-- A scratchpad line holds an error: it is poisoned, and what was read of it and is still on its way completes with code 3 (R379). -/
def State.lineError (s : State) (c : CoreId) (n : Nat) : State :=
  let loc := scratchLoc c (64 * n % 2 ^ 19)
  let held (m : Msg) : Bool := m.answers && m.stage == .done 0 && m.targets.any fun t => overlaps t.loc t.len loc 64
  ({ s with msgs := s.msgs.map fun m => if held m.2 then (m.1, { m.2 with stage := .done 3 }) else m } : State).addPoison (loc / 64)

/-- `uncorrectable_error` (R209, R379): 0 line n of the scratchpad, 1 register files, clock file or core state, 2 operand slot n,
3 accumulator n, 4 line n of HBM or CXL of the core's estate (R381), 5 a fill read of line n of the image of the core's block
(R386). -/
def execUncorrectableError (c : CoreId) (what n : Nat) (s : State) : Out :=
  let s1 := match s.place c with
    | some (e, d, m) => s.logEvent (e, d) 5 m 0
    | none => s
  .next (match what with
  | 0 => (s1.lineError c n).fenceCore c 1
  | 1 => s1.fenceCore c 2
  | 2 => (match c.block with
    | some b => s1.modBlock b fun x => { x with spoison := addTo (n % 64) x.spoison }
    | none => s)
  | 3 => s1.modCore c fun k => { k with mpoison := addTo (n % 8) k.mpoison }
  | 4 => (s1.addPoison (physLoc c.estate (64 * n % 2 ^ 52) / 64)).portPoison c.estate (64 * n % 2 ^ 52)
  | 5 => (match c.block with
    | some b => if (s.clusterAt b).isSome ∧ 0 < (s.block b).fill then
          (s1.poisonFill b (n % imageLines)).swapRecord b 3 ((s.block b).slot.getD 0)
        else s
    | none => s)
  | _ => s)

/-! ## The cluster of a fenced block (R380, R417) -/

/-- The cluster is enabled as a block: whole, and not withdrawn (R2, R317). -/
def State.isBlock (s : State) (k : Nat × Nat × Nat) : Bool :=
  let w := (s.die (k.1, k.2.1)).cmap.get 0 k.2.2
  decide (k.1 < 64) && decide (k.2.1 < 8) && decide (k.2.2 < 64) && w.getLsbD cmapBlock && !w.getLsbD cmapRetired
    && w.toNat % 65536 == 65535

/-- A core of the cluster belongs to a partition as a loose core. -/
def State.looseIn (s : State) (k : Nat × Nat × Nat) : Bool :=
  s.parts.any fun p => p.2.loose.any fun q => (q.2.1, q.2.2.1, clusterOf q.2.2.2) == k

/-- The lowest whole spare cluster of a die that no partition has, whole or in part (R11, R417). -/
def State.spareOf (s : State) (e d : Nat) : Option Nat :=
  (List.range 64).find? fun k =>
    let w := (s.die (e, d)).cmap.get 0 k
    w.toNat % 65536 == 65535 && w.getLsbD cmapSpare && !w.getLsbD cmapRetired && !s.looseIn (e, d, k)
      && (s.cluster (e, d, k)).owner.isNone

/-- Boot mode ends for the cores of a cluster that joins a partition (R412). -/
def State.joinCores (s : State) (k : Nat × Nat × Nat) (joins : Bool) : State :=
  if joins then (List.range 16).foldl (fun s m => s.modPhys (k.1, k.2.1, meshOf k.2.2 m) fun x => { x with joined := true }) s else s

/-- A cluster that failed its test is retired, and a whole spare takes its place in the core map and its partition; the die's loose
cores are numbered anew (R417). -/
def State.retireCluster (s : State) (e d k : Nat) : State :=
  let owner := (s.cluster (e, d, k)).owner
  let s := s.modDie (e, d) fun x =>
    { x with cmap := x.cmap.set k ((x.cmap.get 0 k &&& ~~~(BitVec.ofNat 64 (2 ^ cmapBlock))) ||| BitVec.ofNat 64 (2 ^ cmapRetired)) }
  let s := s.modCluster (e, d, k) fun x => { x with owner := none, testing := false, leaving := false }
  match s.spareOf e d with
  | some j =>
    ((((s.modDie (e, d) fun x =>
      { x with cmap := x.cmap.set j ((x.cmap.get 0 j &&& ~~~(BitVec.ofNat 64 (2 ^ cmapSpare))) ||| BitVec.ofNat 64 (2 ^ cmapBlock)) }).emptyTlbs
      (e, d, j)).modCluster (e, d, j) fun x => { x with owner := owner, freed := s.cycle }).joinCores (e, d, j) owner.isSome).renumberLoose e d
  | none => s

/-- `cluster_service_test` (R380). -/
def execClusterServiceTest (e d k : Nat) (pass : Bool) (s : State) : Out :=
  let occupied := s.blocks.any fun b => s.clusterAt b.1 == some (e, d, k)
  .next (
    if !(s.cluster (e, d, k)).testing ∨ occupied then s
    else if pass then s.modCluster (e, d, k) fun x => { x with testing := false, freed := s.cycle }
    else s.retireCluster e d k)

end Sys2Proof.Machine
end

