-- ==== Sys2Proof/Machine/Swap.lean ====
section
/-! DEFINITION. The block scheduler: swapping out and in (R66 to R73), pre-emption (R384), images (R385, R386), which block and
which cluster (R68, R71, R388), resizing (R74), moving a field (R75). -/

namespace Sys2Proof.Machine

/-! ## When (R66) -/

/-- A context, command or `mst` of the block is parked. -/
def State.parks (s : State) (b : BlockId) : Bool :=
  s.cores.any fun c => c.1.block == some b
    && ((c.2.ctxs.any fun x => x.2.run == .parked) || (c.2.cmds.any fun x => x.2.park.isSome) || c.2.mreqs.any fun r => r.park.isSome)

/-- Each block's park time begins with its first parked member and ends with its last (R66). -/
def State.timeParks (s : State) : State :=
  { s with blocks := s.blocks.map fun b =>
      (b.1, { b.2 with parkedSince := (if s.parks b.1 then some (b.2.parkedSince.getD s.cycle) else none) }) }

/-- A context of the block is Ready or Halted. -/
def State.anyRuns (s : State) (b : BlockId) : Bool :=
  b.cores.any fun c => (List.range 11).any fun n =>
    ((s.ctx c n).run == .ready && !s.keptRequest c n) || ((s.ctx c n).run != .free && s.isHalted c n)

/-! ## Slots of the Orangery (R385, R386) -/

def State.oraBase (s : State) (p e : Nat) : Nat := Record.orabase (s.record p e) % 2 ^ 52

/-- The lowest free slot. -/
def State.freeSlot (s : State) (p e : Nat) : Option Nat :=
  let used := (s.part p).oraUsed
  (List.range (min (Record.orasize (s.record p e) * 65536 / imageSlot) (used.length + 1))).find? fun i => !used.contains (e, i)

/-- The valid word of the block's image is written, where memory backs it. -/
def State.validWord (s : State) (b : BlockId) (v : Nat) : State :=
  let a := (s.block b).image
  if s.physBacked b.estate a then s.physWrite b.estate a (leBytes 8 v) else s

/-- The slot is free again, its valid word 0; what found no slot is tried again (R386). -/
def State.freeImage (s : State) (b : BlockId) : State :=
  match (s.block b).slot with
  | some i =>
    let s := ((s.validWord b 0).modPart b.pid fun p => { p with oraUsed := p.oraUsed.filter (· != (b.estate, i)) }).modBlock b
      fun x => { x with slot := none, valid := false }
    { s with blocks := s.blocks.map fun x =>
        if x.1.pid = b.pid ∧ x.1.estate = b.estate then (x.1, { x.2 with slotless := false }) else x }
  | none => s

/-! ## Beginning a swap-out (R67 step 1, R386) -/

/-- The block is in the machine, wholly filled, and not swapping. -/
def State.mayBegin (s : State) (b : BlockId) : Bool :=
  let x := s.block b
  (s.clusterAt b).isSome && !x.fenced && x.swap == .none && x.fill == 0

/-- A slot for each block, at an address that stays its own (R315); none where one finds no slot. -/
def State.takeSlots (s : State) (pre : Bool) : List BlockId → Option State
  | [] => some s
  | b :: bs =>
    match s.freeSlot b.pid b.estate with
    | none => none
    | some i =>
      let a := s.oraBase b.pid b.estate + i * imageSlot
      (((s.modPart b.pid fun p => { p with oraUsed := (b.estate, i) :: p.oraUsed }).modBlock b fun x =>
        { x with slot := some i, image := a, valid := false, preempt := false, swap := .stopping pre }).validWord b 0).takeSlots pre bs

/-- The swap of a block, with its set, begins; without a slot it is reported and not started, until a slot frees. -/
def State.beginSwap (s : State) (b : BlockId) (pre : Bool) : State :=
  let ms := s.comates b
  if ms.all s.mayBegin ∧ !(s.block b).slotless then
    match s.takeSlots pre ms with
    | some s => s
    | none => (s.swapRecord b 1 0).modBlock b fun x => { x with slotless := true }
  else s

/-- `swap_threshold_expiry` (R66): the block has had a parked member for longer than SWAPTHR. -/
def execSwapThresholdExpiry (b : BlockId) (s : State) : Out :=
  let thr := Record.swapthr (s.record b.pid b.estate)
  .next (match (s.block b).parkedSince with
  | some t => if thr ≠ 0 ∧ t + thr < s.cycle then s.beginSwap b false else s
  | none => s)

/-! ## Which block comes in, and where (R68, R71, R388) -/

/-- A context or command of the block awaits an unresolved page (R71). -/
def State.awaits (s : State) (b : BlockId) : Bool :=
  b.cores.any fun c =>
    let k := s.core c
    (k.ctxs.any fun x => !x.2.waitPages.isEmpty) || (k.cmds.any fun x => x.2.park.isSome) || k.mreqs.any fun r => r.park.isSome

/-- The valid word of its image says that it is complete (R386). -/
def State.imageComplete (s : State) (b : BlockId) : Bool :=
  (s.block b).slot.isSome && s.imageBacked b && s.peekNat (s.imageLoc b) 8 == 3

/-- Absent and ready, with a complete or blank image; its field does not move. -/
def State.isReadyBlock (s : State) (b : BlockId) : Bool :=
  let x := s.block b
  Record.active (s.record b.pid b.estate) && x.residence == .absent && !x.fenced && x.swap == .none && x.spill.isNone
    && (x.blank || (x.valid && s.imageComplete b)) && !s.awaits b
    && (Map.get? (s.part b.pid).moving (b.estate, b.field)).isNone

/-- Ready blocks of the partition whose field is mapped to the die, oldest ready first. -/
def State.readyBlocks (s : State) (p : Nat) (d : Nat × Nat) : List BlockId :=
  sortBy (fun b => (s.block b).readyAt)
    ((s.blocksOf p).filter fun b => s.isReadyBlock b && s.fieldDie p b.estate b.field == d)

/-- A block stands on the cluster, or is on its way to it. -/
def State.occupied (s : State) (k : Nat × Nat × Nat) : Bool :=
  s.blocks.any fun b => (match b.2.residence with
    | .resident j => j == k
    | _ => false) || (match b.2.swap with
    | .entering j _ => j == k
    | _ => false)

/-- Free clusters of the partition on a die, longest free first, the lowest of equals (R388). -/
def State.freeClusters (s : State) (p : Nat) (d : Nat × Nat) : List (Nat × Nat × Nat) :=
  let ks := (List.range 64).filter fun k =>
    let x := s.cluster (d.1, d.2, k)
    s.isBlock (d.1, d.2, k) && x.owner == some p && !x.testing && !x.leaving && !s.occupied (d.1, d.2, k)
  (sortBy (fun k => (s.cluster (d.1, d.2, k)).freed) ks).map fun k => (d.1, d.2, k)

/-! ## The switch (R67 to R69, R384) -/

/-- Engines of a stopping block have come to rest (R67 step 2); for a pre-emption their next piece or row boundary is enough
(R384). -/
def State.drained (s : State) (b : BlockId) (pre : Bool) : Bool :=
  if pre then b.cores.all fun c =>
    ((s.core c).cmds.all fun x => x.2.park.isSome || (x.2.flight.isNone && x.2.got.isNone))
      && (s.core c).mreqs.all fun r => r.park.isSome || (r.flight.isNone && r.line == 0)
  else (s.block b).array.isNone && b.cores.all fun c =>
    let k := s.core c
    (k.cmds.all fun x => !(x.2.running && x.2.park.isNone && !x.2.handing))
      && k.mreqs.all fun r => !(r.started && r.park.isNone) && !r.ended

def Swap.stops : Swap → Option Bool
  | .stopping pre => some pre
  | _ => Option.none

/-- The switch of one block begins: 64 cycles, with the incoming block of R68. -/
def State.leave (s : State) (b : BlockId) : State :=
  match s.clusterAt b with
  | none => s
  | some k =>
    let t := s.cycle + 64
    let inc := if (s.cluster k).leaving then none else
      (s.readyBlocks b.pid (k.1, k.2.1)).find? fun c => s.comates c == [c]
    let s := s.modBlock b fun x => { x with swap := .leaving t inc }
    match inc with
    | some c => s.modBlock c fun x => { x with held := true, swap := .entering k t }
    | none => s

/-- The block stands on a cluster that its partition gives up (R74). -/
def State.mustLeave (s : State) (b : BlockId) : Bool :=
  match s.clusterAt b with
  | some k => (s.cluster k).leaving
  | none => false

/-- `swap_out` (R66, R67, R74, R384): a block with a parked member and nothing Ready stops, as does one on a cluster that goes, or one
to pre-empt; a stopped one that has drained switches. -/
def execSwapOut (b : BlockId) (s : State) : Out :=
  let ms := s.comates b
  .next (match (s.block b).swap with
  | .none =>
    if ms.any fun m => (s.block m).preempt then s.beginSwap b true
    else if s.mustLeave b ∨ (s.parks b ∧ !s.anyRuns b) then s.beginSwap b false else s
  | .stopping _ =>
    if ms.all fun m => match (s.block m).swap.stops with
        | some pre => s.drained m pre
        | none => false
    then ms.foldl State.leave s else s
  | _ => s)

/-- Coordinates written to `preempt` and `blkcmd`, of the writer's partition (R387; log 122). -/
def coordsOf (p : Nat) (w : Word) : BlockId :=
  { pid := p, vblock := w.toNat / 4 % 64, field := w.toNat / 256 % 8, estate := w.toNat / 2048 % 64 }

/-- A block that stops for a pre-emption, or begins to; one that still fills, or finds no slot, is pre-empted later (R386). -/
def State.preempt (s : State) (b : BlockId) : State :=
  match (s.block b).swap with
  | .none => if (s.clusterAt b).isSome then (s.modBlock b fun x => { x with preempt := true }).beginSwap b true else s
  | .stopping _ => s.modBlock b fun x => { x with swap := .stopping true }
  | _ => s

/-- `sset preempt` (R384). -/
def execPreempt (a : Reg) (s : State) : Out :=
  let w := s.readG a
  .next (
    if s.me.level ≠ .fw then s.raise 0x02
    else (if w.getLsbD 0 then s.preempt (coordsOf s.pid w) else s).retire 1)

/-- Firings whose affinity names the block are saved in its image (R69). -/
def State.saveFirings (s : State) (b : BlockId) (k : Nat × Nat × Nat) : State :=
  { s with firings := s.firings.map fun f =>
      if Rule.aff f.2.img = 2 ∧ s.namedBlock f.2 = some b then
        match f.2.place with
        | .core q => if (q.1, q.2.1, clusterOf q.2.2) = k then
            (f.1, { f.2 with place := .saved b (q.2.2 / 32 % 4 * 4 + q.2.2 % 4) }) else f
        | .cluster j => if j = k then (f.1, { f.2 with place := .saved b 16 }) else f
        | _ => f
      else f }

/-- Saved firings return to the queues of the new cluster; their order is older than any new arrival's (R69). -/
def State.requeueFirings (s : State) (b : BlockId) (k : Nat × Nat × Nat) : State :=
  { s with firings := s.firings.map fun f => match f.2.place with
      | .saved c m => if c = b then
          (f.1, { f.2 with place := if m = 16 then .cluster k else .core (k.1, k.2.1, meshOf k.2.2 m) }) else f
      | _ => f }

/-- The block has left its cluster: absent, its image still to be spilled. -/
def State.depart (s : State) (b : BlockId) : State :=
  match s.clusterAt b with
  | none => s
  | some k =>
    let s := s.saveFirings b k
    let s := b.cores.foldl (fun s c =>
      let s := (List.range 11).foldl (fun s n => if (s.ctx c n).reserved.isSome then
        s.modCtx c n fun x => { x with reserved := none } else s) s
      match s.place c with
      | some q => s.modPhys q fun x => { x with perf := x.perf.set 6 (x.perf.get 0 6 + 1) }
      | none => s) s
    (s.modBlock b fun x => { x with residence := .absent, swap := .none, spill := some k, was := some k, left := s.cycle, readyAt := s.cycle }).modCluster k fun x =>
      { x with freed := s.cycle }

/-- The control context of a core starts as the core joins a partition (R48), and with the first of them round 1 (R365); what has
come to its mailbox and semaphores before stays (R70, R124; log 119). -/
def State.startControl (s : State) (c : CoreId) : State :=
  let s := s.modCore c fun k =>
    { k with ctxs := [(0, { run := .ready, pc := BitVec.ofNat 64 (Record.runEntry (s.recordOf c)), since := s.cycle })] }
  if s.unbegun c.pid then s.enterRound c.pid else s

/-- The TLBs of a cluster lose what a block left there (R222). -/
def State.forgetTlb (s : State) (k : Nat × Nat × Nat) (asid : Nat) : State :=
  let keep (ts : List TlbEntry) : List TlbEntry := ts.filter fun t => t.asid != asid
  ({ s with phys := s.phys.map fun q =>
      if (q.1.1, q.1.2.1, clusterOf q.1.2.2) = k then (q.1, { q.2 with itlb := keep q.2.itlb, dtlb := keep q.2.dtlb }) else q } :
    State).modCluster k fun x => { x with tlb := keep x.tlb }

/-- The block stands on its new cluster, filled from its image; what was held for it comes in, in order; its cores restart (R72,
R73). -/
def State.arrive (s : State) (b : BlockId) (k : Nat × Nat × Nat) : State :=
  let blank := (s.block b).blank
  let s := if s.badImage b then s.swapRecord b 3 ((s.block b).slot.getD 0) else s
  let s := (s.readImage b).modBlock b fun x =>
    { x with residence := .resident k, swap := .none, held := false, blank := false, fill := imageLines }
  let s := if blank then b.cores.foldl State.startControl s else s
  -- re-admission to another cluster finds no entries of the block's accesses there (R222)
  let s := match (s.block b).was with
    | some j => if j = k then s else s.forgetTlb k (s.asidOf (b.core 0))
    | none => s
  let s := (s.requeueFirings b k).releaseUnit (.block b)
  if blank then s else b.cores.foldl State.restart s

/-- The cluster a block enters is free to be switched to: nothing stands on it, it is in service, and the time has come. -/
def State.enters (s : State) (b : BlockId) : Bool :=
  match (s.block b).swap with
  | .entering k t => decide (t ≤ s.cycle) && !(s.cluster k).testing && !(s.blocks.any fun x => s.clusterAt x.1 == some k)
  | _ => false

def State.enterAt (s : State) (b : BlockId) : State :=
  match (s.block b).swap with
  | .entering k _ => s.arrive b k
  | _ => s

def State.leaves (s : State) (b : BlockId) : Bool :=
  match (s.block b).swap with
  | .leaving t _ => decide (t ≤ s.cycle)
  | _ => false

/-- One block of a set departs, and the block that was chosen for its cluster restarts there. -/
def State.switch (s : State) (b : BlockId) : State :=
  match (s.block b).swap with
  | .leaving _ inc =>
    let s := s.depart b
    (match inc with
      | some c => if s.enters c then s.enterAt c else s
      | none => s)
  | _ => s

/-- `shadow_switch_complete` (R67, R72): a whole co-resident set at once. -/
def execShadowSwitchComplete (b : BlockId) (s : State) : Out :=
  let ms := s.comates b
  .next (
    if ms.all s.leaves then ms.foldl State.switch s
    else if ms.all s.enters then ms.foldl State.enterAt s
    else s)

/-- `readmission` (R71, R72, R388): the oldest ready block, with its set, is admitted to the clusters that have been free the
longest. -/
def execReadmission (b : BlockId) (s : State) : Out :=
  let d := s.fieldDie b.pid b.estate b.field
  let ms := s.comates b
  let may (c : BlockId) : Bool := s.isReadyBlock c && (s.block c).residence == .absent
  let first := (s.readyBlocks b.pid d).find? fun c => ((s.comates c).all may)
  .next (
    if first ≠ some b then s
    else
      match ms.foldl (fun (r : Option State) c => r.bind fun s =>
          (s.freeClusters c.pid (s.fieldDie c.pid c.estate c.field)).head?.map fun k =>
            s.modBlock c fun x => { x with held := true, swap := .entering k (s.cycle + 64) }) (some s) with
      | some s => s
      | none => s)

/-! ## Spill and fill (R67, R385, R386) -/

/-- A block spills out of the cluster. -/
def State.spilling (s : State) (k : Nat × Nat × Nat) : Bool := s.blocks.any fun x => x.2.spill == some k

/-- A cluster that its partition gives up goes, once nothing stands on it or spills from it (R74). -/
def State.releaseCluster (s : State) (k : Nat × Nat × Nat) : State :=
  if (s.cluster k).leaving ∧ !s.occupied k ∧ !s.spilling k then
    s.modCluster k fun x => { x with owner := none, leaving := false }
  else s

/-- A slot for a block that has none: the lowest free one that memory backs. -/
def State.backedSlot (s : State) (b : BlockId) : State :=
  let used := (s.part b.pid).oraUsed
  let base := s.oraBase b.pid b.estate
  match (List.range (min (Record.orasize (s.record b.pid b.estate) * 65536 / imageSlot) (used.length + 2))).find? fun i =>
      !used.contains (b.estate, i) && s.physBacked b.estate (base + (i + 1) * imageSlot - 1) with
  | some i => (s.modPart b.pid fun p => { p with oraUsed := (b.estate, i) :: p.oraUsed }).modBlock b fun x =>
      { x with slot := some i, image := base + i * imageSlot }
  | none => s

/-- The incoming block goes back to its slot, or to a free one where it has none (R386); one whose slot takes no write is fenced
(log 34). -/
def State.sendBack (s : State) (c : BlockId) (k : Nat × Nat × Nat) (fails : Bool := false) : State :=
  let s := if (s.block c).slot.isNone then s.backedSlot c else s
  let s := if !fails && (s.block c).slot.isSome && s.imageBacked c then s.writeImage c else s.fenceBlock c 1
  (s.saveFirings c k).modBlock c fun x =>
    { x with residence := .absent, swap := .none, valid := true, fill := 0, was := some k, readyAt := s.cycle }

/-- The spill stops: the outgoing block returns to its cluster, frozen (R386). -/
def State.stopSpill (s : State) (b : BlockId) (k : Nat × Nat × Nat) : State :=
  let s := (s.swapRecord b 2 ((s.block b).slot.getD 0)).freeImage b
  (s.modBlock b fun z => { z with residence := .resident k, spill := none, swap := .frozen }).requeueFirings b k

/-- The block that spills out of a cluster. -/
def State.spillerOf (s : State) (k : Nat × Nat × Nat) : Option BlockId :=
  (s.blocks.find? fun x => x.2.spill == some k).map Prod.fst

/-- `spill_failure` (R386): a write error in the slot of the block that spills, or in that of the block that comes in behind it. -/
def execSpillFailure (b : BlockId) (s : State) : Out :=
  .next (match (s.block b).spill with
  | none => (match s.clusterAt b with
    | some k => match s.spillerOf k with
      | some o => if (s.block b).fenced ∨ (s.block b).fill = 0 then s else (s.sendBack b k true).stopSpill o k
      | none => s
    | none => s)
  | some k =>
    match s.blocks.find? fun y => s.clusterAt y.1 == some k with
    | some (c, y) => if y.fenced ∨ y.fill = 0 then s else (s.sendBack c k).stopSpill b k
    | none => s.stopSpill b k)

/-- `image_valid` (R386): the spill is done, or has met an address that no memory backs; a cluster that leaves its partition
leaves now (R74). -/
def execImageValid (b : BlockId) (s : State) : Out :=
  let x := s.block b
  match x.spill, x.slot with
  | some k, some _ =>
    if x.array.isSome then .next s
    else if s.imageBacked b then
      .next (((s.writeImage b).modBlock b fun y => { y with spill := none, valid := true }).releaseCluster k)
    else execSpillFailure b s
  | _, _ => .next s

/-- `image_line_exchange` (R67, R386): one line; after the last fill the slot is free. -/
def execImageLineExchange (b : BlockId) (s : State) : Out :=
  .next (match s.clusterAt b, (s.block b).fill with
  | some k, n + 1 =>
    if n = 0 then
      if s.spilling k then s else (s.modBlock b fun x => { x with fill := 0 }).freeImage b
    else s.modBlock b fun x => { x with fill := n }
  | _, _ => s)

/-! ## Resizing (R74) -/

/-- A loose core joins the partition, if no partition has it or its cluster (R11, R317). -/
def State.addLoose (s : State) (p : Nat) (q : Nat × Nat × Nat) : State :=
  let taken := s.parts.any fun x => x.2.loose.any fun y => y.2 == q
  match s.looseNum p q with
  | some n =>
    if taken ∨ (s.cluster (q.1, q.2.1, clusterOf q.2.2)).owner.isSome then s
    else (((s.modPart p fun x => { x with loose := x.loose.set n q }).modPhys q fun x => { x with joined := true }).setCore
      (.virt p n) {}).startControl (.virt p n)
  | none => s

/-- An enabled cluster joins, if no partition has it or a core of it (R2, R11); its TLBs lose every entry (R222). -/
def State.addCluster (s : State) (p : Nat) (k : Nat × Nat × Nat) : State :=
  if s.isBlock k ∧ (s.cluster k).owner.isNone ∧ !s.looseIn k then
    ((s.emptyTlbs k).modCluster k fun x => { x with owner := some p, freed := s.cycle }).joinCores k true
  else s

/-- A cluster is to leave: its block is swapped out with no incoming block; an empty one leaves at once. -/
def State.delCluster (s : State) (p : Nat) (k : Nat × Nat × Nat) : State :=
  if (s.cluster k).owner ≠ some p then s
  else
    let s := s.modCluster k fun x => { x with leaving := true }
    let stands := s.blocks.find? fun b => s.clusterAt b.1 == some k
    let s := match stands with
      | some b => s.beginSwap b.1 false
      | none => s
    s.releaseCluster k

/-- A slot whose image is complete and names the block, in no block's use: one restored from a checkpoint (R404). -/
def State.restored (s : State) (b : BlockId) : Option Nat :=
  let used := (s.part b.pid).oraUsed
  let base := s.oraBase b.pid b.estate
  (List.range (min (Record.orasize (s.record b.pid b.estate) * 65536 / imageSlot) (used.length + 512))).find? fun i =>
    let a := base + i * imageSlot
    !used.contains (b.estate, i) && s.physBacked b.estate (a + imageSlot - 1) && s.peekNat (physLoc b.estate a) 8 == 3
      && s.peekNat (physLoc b.estate (a + 8)) 8 == headerOf b

/-- A virtual block joins: absent and ready, with an image restored for it (R404), or never run (R68). -/
def State.addBlock (s : State) (p : Nat) (b : Nat × Nat × Nat) : State :=
  let b : BlockId := { pid := p, estate := b.1, field := b.2.1, vblock := b.2.2 }
  if s.hasBlock b ∨ 64 ≤ b.vblock ∨ 8 ≤ b.field ∨ 64 ≤ b.estate then s
  else
    let t : State := { s.blankBlock b with cores := s.cores.filter fun c => c.1.block != some b }
    match s.restored b with
    | some i => (t.modPart p fun x => { x with oraUsed := (b.estate, i) :: x.oraUsed }).modBlock b fun _ =>
        { residence := .absent, readyAt := s.cycle, blank := false, slot := some i, valid := true
          image := s.oraBase b.pid b.estate + i * imageSlot }
    | none => t.modBlock b fun _ => { residence := .absent, readyAt := s.cycle }

/-- The partition map would give virtual blocks 60 to 63 to a field that has loose cores (R281, R317). -/
def State.mapClash (s : State) (p : Nat) (r : Resize) : Bool :=
  let high : List (Nat × Nat × Nat) :=
    (((s.blocksOf p).map fun b => (b.estate, b.field, b.vblock)) ++ r.addBlocks).filter fun (b : Nat × Nat × Nat) => decide (60 ≤ b.2.2)
  let loose := Map.keys (s.part p).loose ++ r.addLoose.filterMap fun q => s.looseNum p q
  high.any fun (b : Nat × Nat × Nat) => loose.any fun n => numEstate n == b.1 && numField n == b.2.1

/-- `resize` (R74); a map that R317 refuses changes nothing. -/
def execResize (p : Nat) (r : Resize) (s : State) : Out :=
  if s.mapClash p r then .next s
  else
    let s := r.addClusters.foldl (fun s k => s.addCluster p k) s
    let s := r.addBlocks.foldl (fun s b => s.addBlock p b) s
    let s := r.addLoose.foldl (fun s q => s.addLoose p q) s
    .next (r.delClusters.foldl (fun s k => s.delCluster p k) s)

end Sys2Proof.Machine
end

