-- ==== Sys2Proof/Machine/Commit.lean ====
section
/-! DEFINITION. Partition-table commits (R312, R313, R319), what a change of the bank list or of the mode does (R21, R39), moving a
field (R75), inlet grants and slots (R314, R406). -/

namespace Sys2Proof.Machine

/-! ## The image (R312) -/

def Record.pid (r : Record) : Nat := Record.bits r 0 16

/-- Bits marked zero. -/
def Record.zeroOk (r : Record) : Bool :=
  Record.bits r 148 4 == 0 && Record.bits r 170 22 == 0 && Record.bits r 320 16 == 0 && Record.bits r 928 96 == 0
    && ((List.range 8).all fun f => Record.bits r (416 + 64 * f + 38) 26 == 0)

/-- The bank list in HBM: 32-bit entries (R312). -/
def State.bankList (s : State) (e : Nat) (r : Record) : List (Nat × Nat × Nat) :=
  (List.range (Record.banks r)).map fun i =>
    let w := s.peekNat (physLoc e (Record.blptr r % 2 ^ 52 + 4 * i)) 4
    (w % 256, w / 256 % 8, w / 2048 % 64)

/-- The first line of a Polder region (R312). -/
def Record.regionFrom (r : Record) : Nat := bankLines - Record.regcap r * 1024

/-- Physical bank of an entry of a bank list, where the partition's record for the estate is `r` in estate `e`. -/
def State.physBank (s : State) (p e : Nat) (r : Record) (b : Nat × Nat × Nat) : Nat × Nat × Nat :=
  (b.2.2, Record.fdie (if b.2.2 = e then r else s.record p b.2.2) b.2.1, b.1)

/-- Other partitions that exist. -/
def State.otherParts (s : State) (p : Nat) : List Nat := s.activeParts.filter (· != p)

/-- Physical banks of a partition's regions. -/
def State.regionsOf (s : State) (p : Nat) : List (Nat × Nat × Nat) :=
  (s.part p).banks.map (s.physBank p (s.homeEstate p) (s.record p (s.homeEstate p)))

/-- Allocations of a record: die, first line, lines; those of its fields with FVALID = 1 alone (R313; log 134). -/
def Record.allocs (r : Record) : List (Nat × Nat × Nat) :=
  ((List.range 8).filter (Record.fvalid r)).map fun f => (Record.fdie r f, Record.fbase r f, Record.flen r f)

/-- A region of one of the banks `ks`, on estate e and die d, reaches below the lines from `base` on; its size is REGCAP of the
record `q` that its partition has there. -/
def inRegion (q : Record) (ks : List (Nat × Nat × Nat)) (e d base len : Nat) : Bool :=
  decide (0 < len) && decide (Record.regionFrom q < base + len) && ks.any fun k => k.1 == e && k.2.1 == d

/-- An allocation on estate e overlaps a region, or another partition's allocation (R216, R313). -/
def State.allocClash (s : State) (p e : Nat) (r : Record) (banks : List (Nat × Nat × Nat)) (a : Nat × Nat × Nat) : Bool :=
  let (d, base, len) := a
  inRegion r (banks.map (s.physBank p e r)) e d base len
    || ((s.otherParts p).any fun q => inRegion (s.record q e) (s.regionsOf q) e d base len
        || (Record.active (s.record q e) && (Record.allocs (s.record q e)).any fun b => b.1 == d && overlaps base len b.2.1 b.2.2))

/-- A region of the bank list overlaps an allocation of another partition, or one of the partition's own on another estate
(R216). -/
def State.regionClash (s : State) (p e : Nat) (r : Record) (banks : List (Nat × Nat × Nat)) : Bool :=
  let ks := banks.map (s.physBank p e r)
  s.activeParts.any fun q => ks.any fun k => (q != p || k.1 != e) && Record.active (s.record q k.1)
    && (Record.allocs (s.record q k.1)).any fun a =>
      inRegion (if k.1 = e then r else s.record p k.1) [k] k.1 a.1 a.2.1 a.2.2

/-- A cluster of the partition on a die. -/
def State.hasCluster (s : State) (p e d : Nat) : Bool := s.clusters.any fun k => k.1.1 == e && k.1.2.1 == d && k.2.owner == some p

/-- The partition exists on some estate. -/
def State.exists_ (s : State) (p : Nat) : Bool := s.activeParts.contains p

/-- The Polder of the partition holds a tile. -/
def State.holdsTile (s : State) (p : Nat) : Bool := s.banks.any fun b => b.1.1 == p && !b.2.tiles.isEmpty

/-- Two records differ in what names the Polder regions. -/
def Record.newBanks (old r : Record) : Bool :=
  !Record.active old || Record.banks old != Record.banks r || Record.blptr old != Record.blptr r || Record.regcap old != Record.regcap r

/-- The state with the image in the table. -/
def State.withRecord (s : State) (e : Nat) (r : Record) : State :=
  s.modPart (Record.pid r) fun x => { x with record := x.record.set e r }

/-- The record whose bank list and mode are in force: that of the partition's lowest estate (log 25). -/
def State.homeRecord (s : State) (p : Nat) : Record := s.record p (s.homeEstate p)

/-- The image changes the bank list or a region's size: its own record does, or another record comes into force (R21, R313). -/
def State.changesBanks (s : State) (e : Nat) (r : Record) : Bool :=
  let p := Record.pid r
  let t := s.withRecord e r
  let old := s.record p e
  s.exists_ p && ((Record.active old && Record.newBanks old r)
    || (t.exists_ p && (t.homeEstate p != s.homeEstate p || Record.newBanks (s.homeRecord p) (t.homeRecord p))))

/-- The image changes the mode (R39, R313). -/
def State.changesMode (s : State) (e : Nat) (r : Record) : Bool :=
  let p := Record.pid r
  let t := s.withRecord e r
  let old := s.record p e
  s.exists_ p && ((Record.active old && Record.roundM old != Record.roundM r)
    || (t.exists_ p && Record.roundM (s.homeRecord p) != Record.roundM (t.homeRecord p)))

/-- The bank list that would be in force. -/
def State.banksAfter (s : State) (e : Nat) (r : Record) : List (Nat × Nat × Nat) :=
  let p := Record.pid r
  let t := s.withRecord e r
  if t.exists_ p ∧ (!s.exists_ p ∨ s.changesBanks e r) then s.bankList (t.homeEstate p) (t.homeRecord p) else (s.part p).banks

/-- Partitions a package may have (R4, R40). -/
def maxParts := 64

/-- The image would give the package one partition too many (R4; log 106). -/
def State.tooMany (s : State) (e : Nat) (r : Record) : Bool :=
  Record.active r && !Record.active (s.record (Record.pid r) e)
    && decide (maxParts ≤ ((s.otherParts (Record.pid r)).filter fun q => Record.active (s.record q e)).length)

/-- `ptstat`: 1 where the image may be committed, else 2 to 7 for the first reason of R313 that holds, and 8 for a partition that
would be the package's 65th (log 106). No reason names an allocation that reaches past its bank's end: it is committed, and what
lies past the end is beyond the field's range (log 131). -/
def State.commitStatus (s : State) (e : Nat) (r : Record) : Nat :=
  let p := Record.pid r
  let stable := (s.part p).stable
  let banks := s.banksAfter e r
  if s.changesBanks e r ∧ (s.holdsTile p ∨ !stable) then 2
  else if s.changesMode e r ∧ !stable then 3
  else if (s.otherParts p).any fun q => (s.regionsOf q).any fun k => (banks.map (s.physBank p e r)).contains k then 4
  else if (Record.allocs r).any (s.allocClash p e r banks) ∨ s.regionClash p e r banks then 5
  else if (Record.allocs r).any fun a => !s.hasCluster p e a.1 then 6
  else if !Record.zeroOk r then 7
  else if s.tooMany e r then 8
  else 1

/-! ## What a commit does (R21, R36, R39, R319, R365) -/

/-- The Belvedere forgets an address space: no report names accesses of two partitions (R298). -/
def State.forgetAsid (s : State) (asid : Nat) : State :=
  s.dieKeys.foldl (fun s d => s.dropRecords (fun k => k.1 == asid) d) s

/-- A new partition: every register at its reset value, the rule table clear, its clusters freed, and its never-run blocks
ready, in one cycle (R319, R388). -/
def State.createPart (s : State) (p : Nat) : State :=
  let x : Part := { record := (s.part p).record, loose := (s.part p).loose, grants := (s.part p).grants, slot := (s.part p).slot }
  { s with parts := s.parts.set p x
           clusters := s.clusters.map fun k => if k.2.owner = some p then (k.1, { k.2 with freed := s.cycle }) else k
           blocks := s.blocks.map fun b =>
             if b.1.pid = p ∧ b.2.blank = true then (b.1, { b.2 with readyAt := s.cycle }) else b }

/-- The bank list is written: every region empty, every arrival counter 0 (R35). -/
def State.writeBanks (s : State) (p : Nat) (banks : List (Nat × Nat × Nat)) : State :=
  ({ s with banks := s.banks.filter fun b => b.1.1 != p } : State).modPart p fun x => { x with banks := banks }

/-- Leaving it: the arrival counters go on above every tile (R39). -/
def State.leaveRound (s : State) (p : Nat) : State :=
  let m := (s.part p).round.toNat
  let s := (s.bankIdx p).foldl (fun s i => s.modBank p i fun k => { k with ctr := m * 2 ^ 40 % 2 ^ 64, groups := [] }) s
  s.modPart p fun x => { x with round := 0, inRound := false }

/-- A partition that goes takes the grants to it along (R319). -/
def State.clearGrants (s : State) (p : Nat) : State :=
  { s with parts := s.parts.map fun q => (q.1, { q.2 with grants := q.2.grants.map fun g =>
      if g.2.toNat % 65536 = p then (g.1, g.2 &&& ~~~(BitVec.ofNat 64 (2 ^ 22))) else g }) }

/-- A partition is deleted: its last record has become inactive (R298, R319). -/
def State.deletePart (s : State) (p asid : Nat) : State := (s.clearGrants p).forgetAsid asid

/-- Apply an image. -/
def State.applyRecord (s : State) (e : Nat) (r : Record) : State :=
  let p := Record.pid r
  let lived := s.exists_ p
  let banks := s.banksAfter e r
  let newBanks := s.changesBanks e r
  let newMode := s.changesMode e r
  let asid := Record.asid (s.record p e)
  let s := if Record.active r ∧ !lived then (s.createPart p).forgetAsid (Record.asid r) else s
  let s := s.withRecord e r
  if !s.exists_ p then (if lived then s.deletePart p asid else s)
  else
    let s := if !lived ∨ newBanks then s.writeBanks p banks else s
    let round := Record.roundM (s.homeRecord p)
    -- round 1 of a new partition begins when its control contexts start (R365)
    if !lived then (if round && s.hasStarted p then s.enterRound p else s)
    else if !newMode then s
    else if round then (if (s.part p).round = 0 then s.enterRound p else s)
    else if (s.part p).round = 0 then s else s.leaveRound p

/-- Commit the 128 bytes at a physical address of estate e, or refuse them (R313). -/
def State.commitAt (s : State) (e addr : Nat) : State :=
  let r : Record := BitVec.ofNat 1024 (s.peekNat (physLoc e (addr % 2 ^ 52)) 128)
  let st := s.commitStatus e r
  let s := s.modEstate e fun x => { x with ptstat := BitVec.ofNat 64 st }
  if st = 1 then (s.applyRecord e r).modEstate e fun x => { x with committed := x.committed ++ [r] } else s

/-- `sset ptcommit` (R313). -/
def execPtcommit (a : Reg) (s : State) : Out :=
  .next (if s.me.level ≠ .fw then s.raise 0x02 else (s.commitAt s.cur.1.estate (s.readG a).toNat).retire 1)

/-! ## Moving a field (R75) -/

/-- `field_move`: every block of the field is absent, and its lines and regions find room on the new die. -/
def execFieldMove (p e f d : Nat) (s : State) : Out :=
  let r := s.record p e
  let r' : Record := r &&& ~~~(BitVec.ofNat 1024 (7 * 2 ^ (416 + 64 * f + 34))) ||| BitVec.ofNat 1024 (d * 2 ^ (416 + 64 * f + 34))
  let bs := (s.blocksOf p).filter fun b => b.estate == e && b.field == f
  let mine := ((s.part p).banks.filter fun b => b.2.1 == f && b.2.2 == e).map (s.physBank p e r')
  let clash := ((s.otherParts p).any fun q => ((s.regionsOf q).any fun k => mine.contains k)
      || (Record.active (s.record q e) && (Record.allocs (s.record q e)).any fun a => a.1 == d && !mine.isEmpty
          && decide (Record.regionFrom r < a.2.1 + a.2.2) && decide (0 < a.2.2)))
    || s.allocClash p e r' (s.part p).banks (d, Record.fbase r f, Record.flen r f)
  .next (
    if f < 8 ∧ d < 8 ∧ Record.active r ∧ Record.fvalid r f ∧ d ≠ Record.fdie r f ∧ (Map.get? (s.part p).moving (e, f)).isNone
        ∧ (bs.all fun b => (s.block b).residence == .absent && (s.block b).swap == .none) ∧ clash = false then
      s.modPart p fun x => { x with moving := x.moving.set (e, f) d }
    else s)

/-- Locations of the field's allocation shift to the new die. -/
def shiftTarget (u : DUnit) (src dst n : Nat) (t : Target) : Target :=
  if src ≤ t.loc ∧ t.loc < src + n then { t with loc := t.loc - src + dst, unit := u } else t

/-- A message to the field goes to the new die; its number stays one of the sequence it was given in (log 118). -/
def Msg.shift (p : Nat) (f : Nat × Nat) (u : DUnit) (src dst n : Nat) (m : Msg) : Msg :=
  match m.body with
  | .access a ts =>
    if m.core.pid = p ∧ fieldOf ts = some f then
      { m with body := .access a (ts.map (shiftTarget u src dst n)), seqUnit := m.unit }
    else m
  | _ => m

/-- Lines and poison go to the new die, and what is addressed to them. -/
def State.moveField (s : State) (p e f d : Nat) (src dst n : Nat) : State :=
  let s := (s.blankRange dst n).copyRange src n dst
  let ls := s.poison.filter fun l => decide (src ≤ 64 * l) && decide (64 * l < src + n)
  let s := ls.foldl (fun s l => s.addPoison ((64 * l - src + dst) / 64)) s
  { s with msgs := s.msgs.map fun m => (m.1, m.2.shift p (e, f) (.field e d) src dst n) }

/-- The banks of a virtual field. -/
def State.banksOf (s : State) (p e f : Nat) : List Nat :=
  (s.bankIdx p).filter fun i => match s.bankAt p i with
    | some (_, g, h) => g == f && h == e
    | none => false

/-- The tiles' snapshots of the field's banks are lost. -/
def State.moveBanks (s : State) (p e f : Nat) : State :=
  (s.banksOf p e f).foldl (fun s i => (s.bank p i).tiles.foldl (fun s t => s.dropVec t.vec) s) s

/-- What was held for a bank, requests and insertions, by arrival (R75). -/
def State.heldForBank (s : State) (p i : Nat) : List Kept :=
  let reqs := (s.msgs.filter fun m => m.2.stage == .rehold && m.2.core.pid == p && m.2.bankKey.map (s.homeOf p) == some i).map
    fun m => ({ arr := m.2.ord, insert := false, id := m.1 } : Kept)
  let ins := (s.inserts.filter fun x => x.2.pid == p && x.2.home == some i && x.2.stage == .rehold).map
    fun x => ({ arr := x.2.arr, insert := true, id := x.1 } : Kept)
  sortBy Kept.arr (reqs ++ ins)

/-- It comes to the bank in that order, and no sluice decides between: DESIGN CHOICE (log 132). -/
def State.releaseBank (s : State) (p i : Nat) : State :=
  (s.heldForBank p i).foldl (fun s k =>
    if k.insert then (s.modInsert k.id fun x => { x with stage := .sent }).arriveInsert p i k.id
    else (s.setStage k.id .sent).arriveRequest p i k.id) s

/-- Belvedere records of a field's lines (R75, R294): those of the field window, and of its cores' scratchpads. -/
def fieldLine (e f : Nat) (line : Nat) : Bool :=
  (line / 2 ^ 50 == 0xFD && line / 2 ^ 36 % 64 == e && line / 2 ^ 33 % 8 == f)
    || (line / 2 ^ 50 == 0xFE && numEstate (line / 2 ^ 23) == e && numField (line / 2 ^ 23) == f)

/-- `field_move_copy_done` (R75). -/
def execFieldMoveCopyDone (p e f : Nat) (s : State) : Out :=
  .next (match Map.get? (s.part p).moving (e, f) with
  | none => s
  | some d =>
    let r := s.record p e
    let old := Record.fdie r f
    let src := fieldLoc e old (Record.fbase r f) 0
    let dst := fieldLoc e d (Record.fbase r f) 0
    let asids := s.asidsOf p
    let s := s.dropRecords (fun k => asids.contains k.1 && fieldLine e f k.2) (e, old)
    let s := (s.moveField p e f d src dst (Record.fbytes r f)).moveBanks p e f
    let s := s.modPart p fun x => { x with
      moving := x.moving.erase (e, f)
      record := x.record.set e ((r &&& ~~~(BitVec.ofNat 1024 (7 * 2 ^ (416 + 64 * f + 34)))) ||| BitVec.ofNat 1024 (d * 2 ^ (416 + 64 * f + 34))) }
    (s.banksOf p e f).foldl (fun s i => s.releaseBank p i) (s.releaseHeld fun m => m.core.pid == p && fieldOf m.targets == some (e, f)))

/-! ## Grants and slots (R314, R406) -/

/-- `inlet_grant_change` (R314): the entry's bits marked zero stay zero. -/
def execInletGrantChange (p i : Nat) (entry : Word) (s : State) : Out :=
  .next (if i < 16 then
    s.modPart p fun x => { x with grants := x.grants.set i (entry &&& ~~~(BitVec.ofNat 64 (511 * 2 ^ 23))) }
  else s)

/-- `inlet_slot_assign` (R406, R411): the payload counter starts at 0. -/
def execInletSlotAssign (p slot : Nat) (s : State) : Out :=
  .next (if slot < 64 then
    ({ s with parts := s.parts.map fun q => if q.2.slot = some slot ∧ s.homeEstate q.1 = s.homeEstate p then
        (q.1, { q.2 with slot := none }) else q } : State).modPart p fun x => { x with slot := some slot, inletpc := 0 }
  else s)

end Sys2Proof.Machine
end

