-- ==== Sys2Proof/Machine/Fabric.lean ====
section
/-! DEFINITION. What goes between estates onto the links (R396), lanes (R393, R395), circuit reconfiguration (R399 to R403), links and
packages that fail (R402, R404). -/

namespace Sys2Proof.Machine

def LaneState.code : LaneState → Nat
  | .out => 0 | .retraining => 1 | .inService => 2

def LinkState.code : LinkState → Nat
  | .down => 0 | .training => 1 | .up => 2 | .dark => 3

/-! ## Status words (R403) -/

def linkCount : Nat := 128

def Estate.linksUp (e : Estate) : Nat :=
  ((List.range linkCount).filter fun n => (e.links.get {} n).st == .up).length

/-- `fabstat`. -/
def Estate.fabstat (e : Estate) : Word :=
  BitVec.ofNat 64 (e.phase % 8 + (if e.trainErr then 8 else 0) + e.linksUp * 16 + (if e.imgErr then 2 ^ 12 else 0)
    + e.reconfs % 2 ^ 32 * 2 ^ 32)

/-- `lnkstat` of a link in the selected direction. -/
def Link.stat (k : Link) (rx : Bool) : Word :=
  let ls := k.inService rx
  BitVec.ofNat 64 ((ls.map (2 ^ ·)).sum + ls.length * 2 ^ 8 + k.st.code * 2 ^ 12 + k.resent % 2 ^ 28 * 2 ^ 14)

/-- `lanestat`. -/
def Lane.stat (x : Lane) : Word :=
  BitVec.ofNat 64 (min 16383 x.corrected + x.st.code * 2 ^ 14 + x.uncorrectable % 2 ^ 32 * 2 ^ 16 + x.retrains % 2 ^ 16 * 2 ^ 48)

/-- An event of the package's fabric, in the recorder of die 0 (R418; log 36). -/
def State.logFabric (s : State) (e kind unit : Nat) : State := s.logEvent (e, 0) kind unit (s.estate e).fabstat.toNat

/-! ## What a cut link does (R402) -/

/-- Estate a message goes to. -/
def State.msgEstate (s : State) (m : Msg) : Nat :=
  match m.body with
  | .access _ ts => (ts.head?.map (·.estate)).getD m.core.estate
  | .post t .. => t.estate
  | .close _ u => (match u with
    | .block b => b.estate
    | .loose _ n => numEstate n
    | .field e _ => e
    | .estate e => e)
  | .probe .. | .take .. => match m.bankKey.bind fun k => s.bankAt m.core.pid (s.homeOf m.core.pid k) with
    | some (_, _, e) => e
    | none => m.core.estate

/-- What goes from estate e to estate t on VC0 is abandoned: there is no link for it to enter (R402), or the package it goes to has
failed (R404). -/
def State.strands (s : State) (e t wire : Nat) : Bool := s.cut e t 0 && (wire == 0 || (s.estate e).failed.contains t)

/-- A message that is abandoned: on its way, or held or answered at a package that has failed. -/
def State.strandsMsg (s : State) (x : Nat × Msg) : Bool :=
  let e := x.2.core.estate
  let t := s.msgEstate x.2
  match x.2.stage with
  | .sent => s.strands e t x.2.wire
  | .held | .rehold => (s.estate e).failed.contains t
  | .done _ => x.2.wire != 2 && (s.estate e).failed.contains t
  | _ => false

/-- An insertion on its way that is abandoned. -/
def State.strandsInsert (s : State) (x : Nat × Insert) : Bool :=
  x.2.stage == .sent && x.2.buf.isSome && (match s.insertEstate x.2 with
    | some t => s.strands x.2.core.estate t x.2.wire
    | none => false)

/-- Cargo of a link's channels that has not been accepted whole at the far end. -/
def Link.cargos (k : Link) (rxSeq : Nat) (vc : Nat → Bool) : List Cargo :=
  ((k.sendq.filter fun p => vc p.vc).map (·.cargo) ++ ((k.unaccepted rxSeq).filter fun x => vc x.pkt.vc).map (·.pkt.cargo)).dedup

/-- What is on a channel that its far end has stopped is abandoned, requests and answers (R397). -/
def State.abandonStopped (s : State) : State :=
  s.estates.foldl (fun s e => e.2.links.foldl (fun s k =>
    let vcs := match k.2.far with
      | some p => (s.linkOf { estate := p.1, link := p.2 }).stopped
      | none => []
    if vcs.isEmpty then s
    else ((k.2.cargos (s.expects k.2) vcs.contains).foldl State.loseCargo s).modLink { estate := e.1, link := k.1 } fun j =>
      { j with sendq := j.sendq.filter fun p => !vcs.contains p.vc }) s) s

/-- The messages of the moment that are cut are abandoned; an insertion stays in its buffer and is sent again (log 35). -/
def State.abandonCut (s : State) : State :=
  if s.msgs.any s.strandsMsg ∨ s.inserts.any s.strandsInsert then
    { s with
      msgs := s.msgs.map fun m => if s.strandsMsg m then (m.1, m.2.lost) else m
      inserts := s.inserts.map fun x =>
        if s.strandsInsert x then (x.1, { x.2 with stage := .refused (s.cycle + resendDelay) }) else x }
  else s

def State.abandon (s : State) : State :=
  if s.estates.any fun e => e.2.links.any fun k => !k.2.stopped.isEmpty then s.abandonStopped.abandonCut else s.abandonCut

/-- Data bytes of a message, and of its answer (R396). -/
def Msg.requestData (m : Msg) : List Byte :=
  match m.body with
  | .access a _ => if a.kind matches .store then a.data else []
  | .post _ _ v => leBytes 8 v.toNat
  | _ => []

def Msg.answerData (m : Msg) : List Byte := if m.answers ∨ m.dst ≠ .none then m.reply else []

/-- A message between estates enters a link on VC0 when it is sent, and its answer one on VC1 (R396). -/
def State.wireMsg (s : State) (x : Nat × Msg) : State :=
  let (id, m) := x
  let e := m.core.estate
  let t := s.msgEstate m
  if e = t then s
  else match m.stage with
    | .sent => if m.wire = 0 then (s.packet e t 0 (.msg id) m.requestData).modMsg id fun m => { m with wire := 1 } else s
    | .done _ =>
      if m.wire = 2 then s
      else if s.cut t e 1 then s.modMsg id Msg.lost
      else (s.packet t e 1 (.msg id) m.answerData).modMsg id fun m => { m with wire := 2 }
    | .refused _ => s.modMsg id fun m => { m with wire := 0 }
    | _ => s

/-- The same for an insertion from a core's buffer: two flits, and an acknowledgement. -/
def State.wireInsert (s : State) (y : Nat × Insert) : State :=
  let (id, x) := y
  let e := x.core.estate
  match s.insertEstate x with
  | none => s
  | some t =>
    if e = t ∨ x.buf.isNone then s
    else match x.stage with
      | .sent => if x.wire = 0 then (s.packet e t 0 (.insert id) (lineBytes x.img)).modInsert id fun x => { x with wire := 1 } else s
      | .done => if x.wire = 2 then s else (s.packet t e 1 (.insert id) []).modInsert id fun x => { x with wire := 2 }
      | .refused _ => s.modInsert id fun x => { x with wire := 0 }
      | _ => s

/-- What has been sent between estates in this turn goes onto the links. -/
def State.wire (s : State) : State := (s.inserts.foldl State.wireInsert (s.msgs.foldl State.wireMsg s)).pumpLinks

/-- Estates that no link of the package reaches any more, since this cycle (R404). -/
def Estate.noteLost (e : Estate) (t cycle : Nat) : Estate :=
  if (List.range linkCount).any fun n => (e.links.get {} n).st == .up && (e.links.get {} n).far.map Prod.fst == some t then e
  else if (Map.get? e.lost t).isSome then e else { e with lost := e.lost.set t cycle }

/-- One end of a link goes down: what it carries is abandoned, and the event is recorded (R395, R402, R418). -/
def State.dropLink (s : State) (l : LinkId) : State :=
  let k := s.linkOf l
  if k.st ≠ .up then s
  else
    let dead := k.cargos (s.expects k) fun _ => true
    let s := s.modLink l fun k => { k with st := .down, sendq := [], replay := [], asked := false, ask := false, leaving := [] }
    let s := dead.foldl State.loseCargo s
    let s := match k.far with
      | some (t, _) => s.modEstate l.estate (·.noteLost t s.cycle)
      | none => s
    s.logFabric l.estate 3 l.link

/-- A link goes down, at both its ends. -/
def State.downLink (s : State) (l : LinkId) : State :=
  match s.farOf l with
  | some f => if s.farOf f = some l then (s.dropLink l).dropLink f else s.dropLink l
  | none => s.dropLink l

/-- `link_down` (R402). -/
def execLinkDown (l : LinkId) (s : State) : Out := .next (s.downLink l)

/-! ## Lanes (R393, R395) -/

/-- A lane leaving service is recorded, and a link with fewer than two lanes in service goes down (R395, R418). -/
def State.laneEvent (s : State) (l : LinkId) (rx : Bool) (n : Nat) : State :=
  let s := s.logEvent (l.estate, 0) 2 (l.link * 16 + (if rx then 8 else 0) + n) ((s.linkOf l).lane rx n).stat.toNat
  if ((s.linkOf l).inService rx).length < 2 then s.downLink l else s

/-- A lane leaves service at once, for retraining (log 123); flits with a beat on it fail, and the far end learns of it by a control
flit (R392, R395). -/
def State.laneOut (s : State) (l : LinkId) (rx : Bool) (n : Nat) : State :=
  let x := (s.linkOf l).lane rx n
  if x.st ≠ .inService then s
  else if rx then
    (s.modLink l fun k => { k with lanes := k.lanes.set (true, n) { x with st := .retraining, retrains := x.retrains + 1 }
                                   leaving := k.leaving.filter fun y => y.1 != n }).laneEvent l rx n
  else (s.dropTx l n).laneEvent l rx n

/-- A lane leaves service with no loss: a receiving one once both ends can change at one LSEQ (R393, R395). -/
def State.laneLeave (s : State) (l : LinkId) (rx : Bool) (n : Nat) : State :=
  let k := s.linkOf l
  if rx ∧ (s.farOf l).isSome = true ∧ (k.lane true n).st = .inService then
    if k.leaving.any fun y => y.1 == n then s else s.modLink l fun k => { k with leaving := k.leaving ++ [(n, none)] }
  else s.laneOut l rx n

/-- `fec_window_end` (R395): the window's count, and a lane above the threshold goes to retraining at the next flit boundary. -/
def execFecWindowEnd (l : LinkId) (rx : Bool) (lane count : Nat) (s : State) : Out :=
  .next (
    if 8 ≤ lane then s
    else
      let s := s.modLink l fun k => { k with lanes := k.lanes.set (rx, lane) { k.lane rx lane with corrected := count } }
      if (s.estate l.estate).fecthr.toNat < count then s.laneLeave l rx lane else s)

/-- `lane_loss` (R395): an uncorrectable codeword is counted; the lane is out at once. -/
def execLaneLoss (l : LinkId) (rx : Bool) (lane : Nat) (codeword : Bool) (s : State) : Out :=
  .next (
    if 8 ≤ lane then s
    else
      let s := if codeword then s.modLink l fun k =>
          { k with lanes := k.lanes.set (rx, lane) { k.lane rx lane with uncorrectable := (k.lane rx lane).uncorrectable + 1 } } else s
      s.laneOut l rx lane)

/-- One end of a retrained lane is back in service; a sender's beat counter starts at 0. -/
def State.laneBack (s : State) (l : LinkId) (rx : Bool) (n : Nat) : State :=
  if ((s.linkOf l).lane rx n).st = .retraining then
    s.modLink l fun k => { k with lanes := k.lanes.set (rx, n) { k.lane rx n with st := .inService }, beat := if rx then k.beat else 0 }
  else s

/-- `lane_rejoin` (R393, R395): at a flit boundary that both ends agree on: flits sent from here on use the lane. -/
def execLaneRejoin (l : LinkId) (rx : Bool) (lane : Nat) (s : State) : Out :=
  .next (if lane < 8 then
    match s.farOf l with
    | some f => (s.laneBack l rx lane).laneBack f (!rx) lane
    | none => s.laneBack l rx lane
  else s)

/-! ## Reconfiguration (R400, R401) -/

/-- Each of the package's links comes to this state (R400). -/
def Estate.allLinks (x : Estate) (st : LinkState) : Map Nat Link :=
  (List.range linkCount).map fun n => (n, { x.links.get {} n with st := st })

def State.setPhase (s : State) (e p : Nat) : State := (s.modEstate e fun x => { x with phase := p }).logFabric e 4 p

/-- CMD 1 of `fabcmd`. -/
def State.fabOpen (s : State) (e : Nat) : State := if (s.estate e).phase = 0 then s.setPhase e 1 else s

/-- CMD 2 of `fabcmd`: the image's address is checked at once (R217). -/
def State.fabClose (s : State) (e addr : Nat) : State :=
  if (s.estate e).phase ≠ 3 then s
  else if s.physBacked e addr then s.modEstate e fun x => { x with imgAddr := some addr }
  else s.modEstate e fun x => { x with imgErr := true, imgAddr := none }

/-- `fabcmd_open`. -/
def execFabcmdOpen (e : Nat) (s : State) : Out := .next (s.fabOpen e)

/-- `fabcmd_close`: the address as `fabcmd` holds it (R403). -/
def execFabcmdClose (e addr : Nat) (s : State) : Out := .next (s.fabClose e (addr % 2 ^ 52 / 4096 * 4096))

/-- `route_image_read`: 64 two-byte entries, or an uncorrectable error. -/
def execRouteImageRead (e : Nat) (bad : Bool) (s : State) : Out :=
  .next (match (s.estate e).phase, (s.estate e).imgAddr with
  | 3, some a =>
    if bad ∨ s.poisonedAt (physLoc e a) 128 then
      (if bad then s.readError (physLoc e a) else s).modEstate e fun x => { x with imgErr := true, imgAddr := none }
    else
      let img : List (BitVec 16) := (List.range 64).map fun i => BitVec.ofNat 16 (s.peekNat (physLoc e (a + 2 * i)) 2)
      (s.modEstate e fun x =>
        { x with imgErr := false, imgAddr := none, image := img, trainErr := false
                 links := x.allLinks .training }).setPhase e 4
  | _, _ => s)

/-- Pieces of a core's engines that are out, to or from this estate. -/
def Core.piecesOut (k : Core) (e : Nat) (own : Bool) : Bool :=
  let crosses (x : Option Flight) : Bool := match x with
    | some f => !f.host && (own || f.ts.isEmpty || f.ts.any fun t => t.estate == e)
    | none => false
  (k.cmds.any fun x => crosses x.2.flight) || k.mreqs.any fun r => crosses r.flight

/-- Requests, insertions, posts and pieces between this estate and another that have issued and are not resolved; one that has timed
out is (R400). -/
def State.crossing (s : State) (e : Nat) : Bool :=
  (s.cores.any fun c => c.2.piecesOut e (c.1.estate == e)) || (s.msgs.any fun m =>
    let t := s.msgEstate m.2
    !m.2.detached && (m.2.core.estate == e) != (t == e)) || s.inserts.any fun x => x.2.stage != .waiting && (match s.insertEstate x.2 with
    | some t => (x.2.core.estate == e) != (t == e)
    | none => false)

/-- `reconfig_quiesce_end`: drain markers leave on every channel of every link. -/
def execReconfigQuiesceEnd (e : Nat) (s : State) : Out :=
  .next (if (s.estate e).phase = 1 ∧ !s.crossing e then s.setPhase e 2 else s)

/-- `drain_marker`: it takes no allowance (R398). -/
def execDrainMarker (l : LinkId) (vc : BitVec 2) (s : State) : Out :=
  .next (if (s.linkOf l).st = .up then s.modLink l fun k => { k with markers := addTo vc.toNat k.markers } else s)

/-- A link is drained; one that is down has nothing to drain. -/
def Link.isDrained (k : Link) : Bool :=
  k.st != .up || ([0, 1, 2, 3].all k.markers.contains && k.replay.isEmpty && k.sendq.isEmpty)

/-- `reconfig_dark`: allowances stay as they are. -/
def execReconfigDark (e : Nat) (s : State) : Out :=
  .next (if (s.estate e).phase = 2 ∧ (s.estate e).links.all fun k => k.2.isDrained then
    (s.modEstate e fun x => { x with links := x.allLinks .dark }).setPhase e 3
  else s)

/-- A trained link: lanes of the mask in service in both directions, their counters as they were; a far end as before keeps the
allowances; the data flits counted so far agree at both ends (R397, R400, R403; log 35). -/
def Link.trained (k : Link) (far : LinkId) (mask : Nat) (sent : Map Nat Nat) : Link :=
  let lane (rx : Bool) (n : Nat) : (Bool × Nat) × Lane :=
    ((rx, n), { k.lane rx n with st := if mask / 2 ^ n % 2 = 1 then .inService else .out })
  { k with st := .up, far := some (far.estate, far.link), beat := 0
           lanes := (List.range 8).map (lane false) ++ (List.range 8).map (lane true)
           allow := if k.far = some (far.estate, far.link) then k.allow else [0, 1, 2, 3].map fun v => (v, 256)
           rxSeq := 0, txSeq := 0, sendq := [], replay := [], asked := false, ask := false, taken := [], leaving := []
           rcounts := sent }

/-- The close of a reconfiguration at a link, up or down: keys and modes loaded since take effect (R397). -/
def Link.closed (k : Link) : Link :=
  { k with liveT := k.modeT, liveR := k.modeR, keys := k.newKeys.foldl (fun ks x => ks.set x.1 x.2) k.keys
           newKeys := [], tagFails := [], stopped := [], markers := [] }

/-- Does the link train: it finds light, a far end that trains in phase 4, and at least two lanes (R395, R400)? -/
def State.trains (s : State) (r : TrainResult) : Bool :=
  r.light && (s.estate r.farEstate).phase == 4 && (s.linkOf { estate := r.farEstate, link := r.farLink }).st == .training && decide (2 ≤ ((List.range 8).filter fun n => r.lanes / 2 ^ n % 2 == 1).length)

/-- One link's result: it trains together with its far end, or stays down. -/
def State.trainLink (e : Nat) (s : State) (r : TrainResult) : State :=
  let l : LinkId := { estate := e, link := r.link }
  let far : LinkId := { estate := r.farEstate, link := r.farLink }
  if (s.linkOf l).st = .up then s
  else if s.trains r then
    (s.modLink far (·.trained l r.lanes (s.linkOf l).counts)).modLink l (·.trained far r.lanes (s.linkOf far).counts)
  else if r.light then (s.modEstate e fun x => { x with trainErr := true }).logFabric e 7 r.link
  else s

/-- The route map of the image: an entry naming a down link is not valid. -/
def Estate.routesFrom (x : Estate) : Map Nat Nat :=
  ((indexed x.image).filter fun r => r.2.getLsbD 0 && (x.links.get {} (r.2.toNat / 2 % 128)).st == .up).map fun r =>
    (r.1, r.2.toNat / 2 % 128)

/-- `link_train_complete` (R400 phases 4 to 6): a link with no result has found no light; one that its far end has trained is up. -/
def execLinkTrainComplete (e : Nat) (rs : List TrainResult) (s : State) : Out :=
  .next (
    if (s.estate e).phase ≠ 4 then s
    else
      let s := (rs.filter fun r => decide (r.link < linkCount)).foldl (State.trainLink e) s
      let s := (s.modEstate e fun x =>
        let links := x.links.map fun k => (k.1, (if k.2.st = .up then k.2 else { k.2 with st := .down }).closed)
        let y := { x with links := links }
        { y with routes := y.routesFrom.filter fun r => r.1 != e
                 -- the own entry's first hop is not used (R425)
                 ownRoute := (x.image.getD e 0).getLsbD 0
                 image := [], lost := [], failed := [] }).setPhase e 5
      ((s.setPhase e 6).setPhase e 0).modEstate e fun x => { x with reconfs := x.reconfs + 1 })

/-- `link_key_load` (R397). -/
def execLinkKeyLoad (l : LinkId) (vc : BitVec 2) (key : LinkKey) (s : State) : Out :=
  .next (s.modLink l fun k => { k with newKeys := k.newKeys.set (key.rx, vc.toNat) key.bits })

/-! ## Package failure (R404) -/

/-- Every link of estate u to the package has been down for u's fault interval. -/
def State.lostFor (s : State) (u e : Nat) : Bool :=
  match Map.get? (s.estate u).lost e with
  | some t => decide (t + (s.estate u).fabfail.toNat ≤ s.cycle)
      && !((List.range linkCount).any fun n => ((s.estate u).links.get {} n).st == .up
        && ((s.estate u).links.get {} n).far.map Prod.fst == some e)
  | none => false

/-- Estates with a link to the package, up or lost. -/
def State.linkedTo (s : State) (e : Nat) : List Nat :=
  (Map.keys s.estates).filter fun u => u != e && ((Map.get? (s.estate u).lost e).isSome
    || ((s.estate u).links.any fun k => k.2.far.map Prod.fst == some e))

/-- `package_failure` (R404): reported by its firmware, or found by the others. -/
def execPackageFailure (e : Nat) (reported : Bool) (s : State) : Out :=
  let us := s.linkedTo e
  .next (
    if reported ∨ (us ≠ [] ∧ us.all fun u => s.lostFor u e) then
      (((List.range 64).filter (· != e)).foldl (fun s u => s.modEstate u fun x => { x with failed := addTo e x.failed }) s).abandon
    else s)

end Sys2Proof.Machine
end

