-- ==== Sys2Proof/Machine/Bringup.lean ====
section
/-! DEFINITION. Reset and boot mode (R412 to R416), the Causeway (R414), ports and the host (R217, R405, R409), power and the
management interface (R420, R421). -/

namespace Sys2Proof.Machine

/-! ## Neighbours (R413, R428) -/

/-- Mesh position one step north, east, south or west. -/
def meshStep (m dir : Nat) : Option Nat :=
  let y := m / 32
  let x := m % 32
  match dir with
  | 0 => if y = 0 then none else some (m - 32)
  | 1 => if x = 31 then none else some (m + 1)
  | 2 => if y = 31 then none else some (m + 32)
  | _ => if x = 0 then none else some (m - 1)

/-- The live neighbour of a boot-mode core: healthy, and still in boot mode. -/
def State.neighbour (s : State) (q : Nat × Nat × Nat) (dir : Nat) : Option CoreId :=
  match meshStep q.2.2 dir with
  | some m =>
    let c := CoreId.phys q.1 q.2.1 m
    if (s.physCore (q.1, q.2.1, m)).healthy ∧ (s.place c).isSome = true then some c else none
  | none => none

/-- Direction from which a neighbour sees what was sent towards `dir`. -/
def backDir (dir : Nat) : Nat := (dir + 2) % 4

/-- [3:0] of `nblink`. -/
def State.liveLinks (s : State) (q : Nat × Nat × Nat) : Nat :=
  (([0, 1, 2, 3].filter fun d => (s.neighbour q d).isSome).map (2 ^ ·)).sum

/-- A post discarded towards no neighbour: [47:16] of `nblink` counts. -/
def State.countLink (s : State) (q : Nat × Nat × Nat) : State :=
  s.modPhys q fun x => { x with nblink := BitVec.ofNat 64 ((x.nblink.toNat / 65536 + 1) % 2 ^ 32 * 65536) }

/-- Physical core of a core in boot mode. -/
def bootAt : CoreId → Option (Nat × Nat × Nat)
  | .phys e d m => some (e, d, m)
  | .virt .. => none

/-- `sset nbpost` (R413): a post to x28 to x31 of the neighbour. -/
def execNbpost (dir : BitVec 2) (a : Reg) (s : State) : Out :=
  let c := s.cur.1
  .next (
    if s.me.level ≠ .fw then s.raise 0x02
    else match bootAt c with
      | none => s.retire 1
      | some q => match s.neighbour q dir.toNat with
        | none => (s.countLink q).retire 1
        | some t =>
          if 256 ≤ s.unacked c s.cur.2 0 ∨ 1024 ≤ s.unackedAll c s.cur.2 then s.stall
          else
            let after := s.before c s.cur.2 0
            let (v, s) := s.release c s.cur.2 (s.narrowest c t)
            let (_, s) := s.send { core := c, ctx := s.cur.2, pc := s.me.pc, words := s.words
                                   body := .post t (BitVec.ofNat 5 (28 + backDir dir.toNat)) (s.readG a)
                                   stage := .unsent, snap := v, after := after, issued := s.cycle }
            s.retire 1)

/-! ## The core map (R415) -/

/-- A core-map entry as it is held: BLOCK needs a whole cluster (R317). -/
def heldCmap (w : Word) : Word :=
  let w : Word := BitVec.ofNat 64 (w.toNat % 2 ^ 19)
  if w.toNat % 65536 = 65535 then w else w &&& ~~~(BitVec.ofNat 64 (2 ^ cmapBlock))

/-- `sset cmapval` (R317, R416). -/
def execCmapvalWrite (a : Reg) (s : State) : Out :=
  .next (
    if s.me.level ≠ .fw then s.raise 0x02
    else match bootAt s.cur.1 with
      | none => s.retire 1
      | some (e, d, _) =>
        (s.modDie (e, d) fun x => { x with cmap := x.cmap.set (x.cmapsel.toNat % 64) (heldCmap (s.readG a)) }).retire 1)

/-! ## The Causeway (R414) -/

def cwBytes (w : Word) : Nat := w.toNat % 2 ^ 20
def cwDoneBit : Word := 0x100000
def cwErrBit : Word := 0x200000
def cwBusyBit : Word := 0x400000
def cwBusy (w : Word) : Bool := w.getLsbD 22
def cwParent (w : Word) : Nat := w.toNat % 4
def cwRoot (w : Word) : Bool := w.getLsbD 2
/-- Directions in the CHILD mask. -/
def cwChildren (w : Word) : List Nat := [0, 1, 2, 3].filter fun d => w.getLsbD (3 + d)

/-- Children that are live neighbours. -/
def State.cwLive (s : State) (q : Nat × Nat × Nat) (w : Word) : List (Nat × CoreId) :=
  (cwChildren w).filterMap fun d => (s.neighbour q d).map fun c => (d, c)

/-- The checks of `cwgo`. -/
def State.cwRefuses (s : State) (c : CoreId) (q : Nat × Nat × Nat) (off count : Nat) : Bool :=
  let k := s.core c
  !cwRoot k.cwtree || cwBusy k.cwstat || off % 64 != 0 || count % 64 != 0 || decide (count < 64) || decide (2 ^ 19 < count)
    || decide (2 ^ 19 < off + count) || (s.cwLive q k.cwtree).length != (cwChildren k.cwtree).length

/-- `sset cwgo` (R414). -/
def execCwgo (a : Reg) (s : State) : Out :=
  let w := s.readG a
  let off := w.toNat % 2 ^ 19
  let count := w.toNat / 2 ^ 19 % 2 ^ 20
  .next (
    if s.me.level ≠ .fw then s.raise 0x02
    else match bootAt s.cur.1 with
      | none => s.retire 1
      | some q =>
        if s.cwRefuses s.cur.1 q off count then (s.modMyCore fun k => { k with cwstat := k.cwstat ||| cwErrBit }).retire 1
        else (s.modMyCore fun k => { k with cwstat := cwBusyBit, cwImage := some (off, count), cwDone := [] }).retire 1)

/-- A core that holds the whole image, and whose children have reported, is DONE (R414). -/
def State.cwFinish (s : State) (c : CoreId) : State :=
  s.modCore c fun k =>
    match k.cwImage with
    | some (_, count) =>
      if cwBusy k.cwstat ∧ cwBytes k.cwstat = count ∧ (cwChildren k.cwtree).all k.cwDone.contains then
        { k with cwstat := (k.cwstat &&& ~~~cwBusyBit) ||| cwDoneBit, cwImage := none, cwTold := cwRoot k.cwtree }
      else k
    | none => k

/-- A line is stored, and goes on to the live children; a child that is not there sets ERR. -/
def State.cwStore (s : State) (c : CoreId) (q : Nat × Nat × Nat) (off count : Nat) (bs : List Byte) : State :=
  let k := s.core c
  let at_ := cwBytes k.cwstat
  let live := s.cwLive q k.cwtree
  let err := live.length != (cwChildren k.cwtree).length
  let s := s.commitBytes (scratchLoc c (off + at_)) bs
  let s := s.modCore c fun k => { k with cwstat := (k.cwstat + 64) ||| (if err then cwErrBit else 0) }
  let s := live.foldl (fun s d => s.modCore d.2 fun k => { k with cwq := k.cwq ++
    [{ from_ := backDir d.1, off := off, count := count, line := at_ / 64, bytes := bs }] }) s
  s.cwFinish c

/-- `causeway_line` (R414): a core takes the next line it was sent; the root, which has no parent, reads its next line. -/
def execCausewayLine (c : CoreId) (s : State) : Out :=
  let k := s.core c
  .next (match bootAt c with
  | none => s
  | some q =>
    match k.cwq with
      | [] => (match k.cwImage with
        | some (off, count) =>
          if cwRoot k.cwtree ∧ cwBusy k.cwstat ∧ cwBytes k.cwstat < count then
            s.cwStore c q off count (s.peekBytes (scratchLoc c (off + cwBytes k.cwstat)) 64)
          else s
        | none => s)
      | l :: ls =>
        let s := s.modCore c fun k => { k with cwq := ls }
        if cwRoot k.cwtree ∨ l.from_ ≠ cwParent k.cwtree then s.modCore c fun k => { k with cwstat := k.cwstat ||| cwErrBit }
        else
          let s := if l.line = 0 then s.modCore c fun k =>
              { k with cwstat := cwBusyBit, cwImage := some (l.off, l.count), cwDone := [] } else s
          s.cwStore c q l.off l.count l.bytes)

/-- The core has stored, and sent on, every line of its transfer. -/
def cwImageSent (k : Core) : Bool :=
  match k.cwImage with
  | some (_, count) => cwBytes k.cwstat == count
  | none => false

/-- `causeway_done` (R414): the child in a direction, whose PARENT this core is, reports that it is DONE; it reports each DONE once. -/
def execCausewayDone (c : CoreId) (dir : BitVec 2) (s : State) : Out :=
  .next (match bootAt c with
  | none => s
  | some q => match s.neighbour q dir.toNat with
    | none => s
    | some t =>
      if (cwChildren (s.core c).cwtree).contains dir.toNat ∧ cwImageSent (s.core c) ∧
          (s.core t).cwq.isEmpty ∧ (s.core t).cwstat.getLsbD 20 ∧ !(s.core t).cwTold ∧ !cwRoot (s.core t).cwtree
          ∧ cwParent (s.core t).cwtree = backDir dir.toNat ∧ !(s.core c).cwDone.contains dir.toNat then
        ((s.modCore t fun k => { k with cwTold := true }).modCore c fun k => { k with cwDone := dir.toNat :: k.cwDone }).cwFinish c
      else s)

/-! ## Reset (R108, R412) -/

/-- `cold_reset`: the machine of R412, with the cores that are fused off; a package of which a firmware, boot or Causeway image fails
its check stays in recovery (R419; log 133). -/
def execColdReset (bad : List Nat) (s : State) : Out :=
  .next { State.reset with
    agenda := s.agenda, fresh := s.fresh
    phys := (s.phys.filter fun p => !p.2.healthy).map fun p => (p.1, { healthy := false })
    estates := (Map.keys s.estates ++ bad).dedup.map fun e => (e, { host := (s.estate e).host, recovery := bad.contains e }) }

/-- Locations of HBM and CXL. -/
def physEnd : Nat := 2 ^ 90

/-- A core that a Causeway transfer reached stays BUSY until cold reset (R414). -/
def staysBusy (c : CoreId × Core) : Option (CoreId × Core) :=
  if cwBusy c.2.cwstat then some (c.1, { bootCore with cwstat := cwBusyBit }) else none

/-- `warm_reset`: what R108 and its tables mark as kept stays: the time base, the cycle count, the event recorders (R418), what
only a cold reset changes (the TLBs, R222; the performance counters, R363; BUSY of a Causeway transfer, R414); and memory, which has
no reset value (log 38). -/
def execWarmReset (s : State) : Out :=
  .next { State.reset with
    agenda := s.agenda, fresh := s.fresh, nextId := s.nextId, cycle := s.cycle, cores := s.cores.filterMap staysBusy
    mem := s.mem.filter fun c => decide (c.1 < physEnd)
    poison := s.poison.filter fun l => decide (64 * l < physEnd)
    phys := s.phys.map fun p => (p.1, { healthy := p.2.healthy, itlb := p.2.itlb, dtlb := p.2.dtlb, perf := p.2.perf })
    clusters := s.clusters.map fun k => (k.1, { tlb := k.2.tlb })
    dies := s.dies.map fun d => (d.1, { evr := d.2.evr, evrNext := d.2.evrNext })
    estates := s.estates.map fun e => (e.1, { tbase := e.2.tbase, cxl := e.2.cxl, cxlstat := e.2.cxlstat, host := e.2.host, recovery := e.2.recovery }) }

/-! ## Ports and the host (R217, R405, R409) -/

/-- `cxl_port_train` (R217, R410, R411): the attached size is fixed; the host endpoint attaches its whole window. -/
def execCxlPortTrain (e port size : Nat) (reduced : Bool) (s : State) : Out :=
  let n := if port = 0 ∧ (s.estate e).host then 2 ^ 41 else size
  let bit (i : Nat) : Word := BitVec.ofNat 64 (2 ^ i)
  .next (
    if 8 ≤ port ∨ n % 65536 ≠ 0 ∨ 2 ^ 41 < n then s
    else s.modEstate e fun x =>
      { x with cxl := x.cxl.set port n
               cxlstat := ((x.cxlstat ||| bit port) &&& ~~~(bit (port + 8))) ||| (if reduced then bit (port + 8) else 0) })

/-- `host_completion` (R409): the host's data for a load, an atomic or a command's read of its memory, or Unsupported Request, which
gives code 4; a reduction then fails with cause 1 (log 125). -/
def execHostCompletion (id : Nat) (unsupported : Bool) (data : List Byte) (s : State) : Out :=
  .next (match Map.get? s.msgs id with
  | some m => (match m.body, m.stage with
    | .access a ts, .sent =>
      if a.kind = .store ∨ s.toHost ts = false ∨ s.onWire (.msg id) = true then s
      else if unsupported then s.setStage id (.done (if a.kind.isStore then 1 else 4))
      else if m.detached ∧ a.kind.isStore = false then s.setStage id (.done 0)
      else
        let s := s.commitTargets ts (data.take a.size)
        if a.kind.isStore then s.arriveStore id m a ts else s.performAt id m a ts
    | _, _ => s)
  | none => match s.cores.find? fun c => (c.2.cmd? id).isSome with
    | some (c, _) => s.answerPiece c id unsupported data
    | none => s)

/-- `sset hostirq` (R409, R411). -/
def execHostirq (a : Reg) (s : State) : Out :=
  .next (
    if s.me.level = .app then s.raise 0x02
    else
      let e := s.homeEstate s.pid
      match s.myPart.slot with
      | some n => if (s.estate e).host then { s with irqs := s.irqs ++ [(e, n, (s.readG a).toNat % 8)] }.retire 1 else s.retire 1
      | none => s.retire 1)

/-- A host read of eight bytes of a slot's megabyte of BAR0: the inlet queue count, the payload counter, or zero (R406). -/
def State.barRead (s : State) (e slot off : Nat) : State :=
  match (Map.keys s.parts).find? fun p => (s.part p).slot == some slot && s.homeEstate p == e with
  | some p =>
    if !s.hasHost p then s
    else { s with reply := [if off = 0x80000 then BitVec.ofNat 64 (s.part p).inletq.length
                            else if off = 0x80008 then (s.part p).inletpc else 0] }
  | none => if (s.estate e).host then { s with reply := [0] } else s

/-- The host writes its own memory, which the device reaches through port 0's window (R217, R409). -/
def State.hostWrite (s : State) (e off : Nat) (data : List Byte) : State :=
  if (s.estate e).host ∧ off + data.length ≤ 2 ^ 41 then s.pokeBytes (physLoc e (0x400000000000 + off)) data else s

/-! ## Power and management (R418 to R421) -/

/-- The limit stored for a value written. -/
def clampPower (w : Nat) : Word := BitVec.ofNat 64 (max 400 (min 3200 w))

/-- `sset pwrlim`. -/
def execPwrlimWrite (a : Reg) (s : State) : Out :=
  .next (
    if s.me.level ≠ .fw then s.raise 0x02
    else (s.modEstate s.cur.1.estate fun x => { x with pwrlim := clampPower (s.readG a).toNat }).retire 1)

/-- `power_throttle` (R420): recorded; which grants and issues it delays is time only. -/
def execPowerThrottle (e : Nat) (on : Bool) (s : State) : Out :=
  .next (if (s.estate e).gating = on then s else (s.modEstate e fun x => { x with gating := on }).logEvent (e, 0) 8 0 (if on then 1 else 0))

/-- `pwrstat`: the readings are free, the gating bit is not (log 17). -/
def State.pwrstat (s : State) (e : Nat) : Word × State :=
  let (k, s) := s.useFresh
  (BitVec.ofNat 64 ((Config.power k).toNat % 2 ^ 20 + (if (s.estate e).gating then 2 ^ 20 else 0)), s)

/-- A management command is carried out within an SPDM session, and refused outside one (R421). -/
def State.managed (s : State) (e : Nat) (f : State → State) : State :=
  if (s.estate e).session then f s else { s with reply := [] }

/-- `mgmt_set_power_limit`. -/
def execMgmtSetPowerLimit (e watts : Nat) (s : State) : Out :=
  .next (s.managed e fun s => { s.modEstate e fun x => { x with pwrlim := clampPower watts } with reply := [clampPower watts] })

/-- `mgmt_read_power`. -/
def execMgmtReadPower (e : Nat) (s : State) : Out :=
  .next (s.managed e fun s =>
    let (w, s) := s.pwrstat e
    { s with reply := [w] })

/-- Word i of a recorder's entry. -/
def evrWord (x : Die) (n i : Nat) : Word := (x.evr.get 0 (n % 4096)).extractLsb' (64 * i) 64

/-- `mgmt_read_event_recorder` (R418): four words an entry. -/
def execMgmtReadEventRecorder (e d first count : Nat) (s : State) : Out :=
  .next (s.managed e fun s =>
    { s with reply := (List.range count).flatMap fun i => [0, 1, 2, 3].map (evrWord (s.die (e, d)) (first + i)) })

/-- `mgmt_read_attestation` (R419). -/
def execMgmtReadAttestation (e : Nat) (s : State) : Out :=
  .next (s.managed e fun s => { s with reply := Config.attestation e (s.estate e).committed })

/-- `mgmt_commit_partition` (R421): the answer is `ptstat`. -/
def execMgmtCommitPartition (e addr : Nat) (s : State) : Out :=
  .next (s.managed e fun s =>
    let s := s.commitAt e addr
    { s with reply := [(s.estate e).ptstat] })

end Sys2Proof.Machine
end

