-- ==== Sys2Proof/Machine/Special.lean ====
section
/-! DEFINITION. Special registers (R132, R133): what each reads as and what a write does (R134 to R138, R208, R227, R303, R342,
R361 to R363, R387, R403, R404, R411, R416, R418, R421). -/

namespace Sys2Proof.Machine

/-! ## Reading -/

/-- A word with the bits below `n` that the test accepts. -/
def bitWord (n : Nat) (p : Nat → Bool) : Word := BitVec.ofNat 64 (((List.range n).filter p).map (2 ^ ·)).sum

/-- Verdict on the word in `cmpq` (R104; log 15). -/
def cmpqVerdict (w : Word) : Word :=
  let known := w.extractLsb' 60 4 == 0xF && Config.compatKnown w
  BitVec.ofNat 64 ((if known then 1 + (Config.compatGen w).toNat * 2 ^ 8 else 0) + Config.firmwareRelease * 2 ^ 16)

/-- `physid` (R138). -/
def physWord : Option (Nat × Nat × Nat) → Word
  | some (_, d, m) => BitVec.ofNat 64 (m % 32 + m / 32 * 2 ^ 5 + d * 2 ^ 10 + clusterOf m * 2 ^ 13
      + (m / 32 % 4 * 4 + m % 4) * 2 ^ 19)
  | none => 0

/-- Registers 0x000 to 0x012 (R134); `icount` counts the `sget` that reads it (log 93). -/
def State.readOwn (s : State) (n : Nat) : Word :=
  let c := s.cur.1
  let x := s.me
  let k := s.myCore
  match n with
  | 0x00 => BitVec.ofNat 64 s.cur.2
  | 0x01 => BitVec.ofNat 64 c.num
  | 0x02 => BitVec.ofNat 64 (if c.block.isSome then numCore c.num else 16)
  | 0x03 => x.fieldsize
  | 0x04 => x.firinfo
  | 0x05 => x.rmode
  | 0x06 => x.fflags
  | 0x07 => s.myPart.round
  | 0x08 => BitVec.ofNat 64 (if c.isVirt then s.pid else 0)
  | 0x09 => bitWord 32 fun i => (k.mail (BitVec.ofNat 5 i)).pres
  | 0x0A => bitWord 32 fun i => (k.mail (BitVec.ofNat 5 i)).err
  | 0x0B => bitWord 32 fun i => (k.mail (BitVec.ofNat 5 i)).await
  | 0x0C => BitVec.ofNat 64 k.hold.length
  | 0x0D => s.tbaseOf c.estate
  | 0x0E => BitVec.ofNat 64 s.cycle
  | 0x0F => x.icount + 1
  | 0x10 => bitWord 11 fun i => (k.ctx i).run != .free
  | 0x11 => bitWord 11 fun i => (k.ctx i).hown
  | 0x12 => cmpqVerdict x.cmpq
  | _ => 0

/-- Entry of the context's clock that `bvsel` names (R283, R303). -/
def State.clockEntry (s : State) : Word :=
  let lev := s.me.bvsel.toNat % 8
  let idx := s.me.bvsel.toNat / 256 % 64
  let (lev, idx) := if 1 ≤ lev ∧ lev ≤ 5 ∧ idx < unitsAt lev then (lev, idx) else (1, 0)
  BitVec.ofNat 64 (if (partyOf s.cur.1 s.cur.2).idx lev = idx then (s.counters s.cur.1 s.cur.2).getD (lev - 1) 0
    else s.me.clk.get 0 (lev, idx))

/-- Does a level-k sweep run on a die (R297)? -/
def State.sweeps (s : State) (d : Nat × Nat) (k : Nat) : Bool :=
  match k with
  | 1 => s.cores.any fun c => s.dieOf c.1 == d && c.2.ctxs.any fun x => x.2.ctr == sweeping
  | 2 => s.cores.any fun c => s.dieOf c.1 == d && c.2.ctr == sweeping
  | 3 => s.blocks.any fun b => s.fieldDie b.1.pid b.1.estate b.1.field == d && b.2.ctr == sweeping
  | 4 => s.parts.any fun p => p.2.fieldCtr.any fun f => s.fieldDie p.1 f.1.1 f.1.2 == d && f.2 == sweeping
  | _ => (s.estate d.1).ctr == sweeping

/-- Registers 0x100 to 0x10B (R303). -/
def State.readBelv (s : State) (n : Nat) : Word :=
  let p := s.myPart
  let d := s.dieOf s.cur.1
  let cs := s.counters s.cur.1 s.cur.2
  match n with
  | 0x100 => p.bvmode
  | 0x101 => p.rlogbase
  | 0x102 => p.rloghead
  | 0x103 => p.rlogtail
  | 0x104 => p.rlogdrop
  | 0x105 => s.me.bvsel
  | 0x106 => s.clockEntry
  | 0x107 => BitVec.ofNat 64 (cs.getD 0 0 + cs.getD 1 0 * 2 ^ 16 + cs.getD 2 0 * 2 ^ 32 + cs.getD 3 0 * 2 ^ 48)
  | 0x108 => BitVec.ofNat 64 (cs.getD 4 0)
  | 0x109 => (s.die d).bvroll ||| bitWord 5 fun i => s.sweeps d (i + 1)
  | 0x10A => (s.die d).bvevict
  | 0x10B => p.bvraces
  | _ => 0

/-- Registers 0x180 to 0x18F (R208). -/
def State.readMatrix (s : State) (n : Nat) : Word :=
  let k := s.myCore
  let m := numCore s.cur.1.num
  let b := match s.cur.1.block with
    | some b => s.block b
    | none => {}
  match n with
  | 0x180 => k.mfctx
  | 0x181 => bitWord 8 k.pendingAccs.contains
  | 0x182 => bitWord 8 k.mpoison.contains
  | 0x183 => bitWord 64 fun i => b.claim i == .excl m
  | 0x184 => bitWord 64 fun i => match b.claim i with
    | .shared ms => ms.contains m
    | _ => false
  | 0x185 => bitWord 64 fun i => b.claim i == .free
  | 0x186 => bitWord 64 b.spoison.contains
  | 0x187 => BitVec.ofNat 64 (b.rotPtr + match b.array with
    | some (j, _) => 16 + j * 32
    | none => 0)
  | _ => k.mstat.get 0 (n - 0x188)

/-- Registers 0x1C0 to 0x1C6 (R342). -/
def State.readQueues (s : State) (n : Nat) : Word :=
  let k := s.myCore
  match n with
  | 0x1C0 => s.me.cdealpat
  | 0x1C1 => BitVec.ofNat 64 (k.queued + k.running * 2 ^ 7
      + (k.cmds.filter fun x => x.2.park.isSome).length * 2 ^ 11)
  | 0x1C2 => k.cerrlo
  | 0x1C3 => k.cerraddr
  | 0x1C4 => k.cerrcnt
  | 0x1C5 => BitVec.ofNat 64 (match s.place s.cur.1 with
    | some q => (s.bufferOf q).length
    | none => 0)
  | 0x1C6 => BitVec.ofNat 64 s.myPart.inletq.length
  | _ => 0

/-- `levee` (R357). -/
def State.leveeWord (s : State) (p : Nat) : Word :=
  let x := s.part p
  BitVec.ofNat 64 ((if s.laneIdle p then 1 else 0) + (if x.stable then 2 else 0) + (if x.pend then 4 else 0)
    + (if x.snotice.getLsbD noticeStarve then 8 else 0) + (if x.rlimit then 16 else 0))

/-- The barrier that `barsel` names (R361). -/
def State.selBarrier (s : State) : Option BarId :=
  let w := s.me.barsel
  let i := w.toNat / 2 % 16
  if w.getLsbD 0 then
    (if i < 8 ∧ s.cur.1.isVirt then some (.fld s.pid s.cur.1.estate (numField s.cur.1.num) i) else none)
  else s.cur.1.block.map fun b => .blk b i

/-- `barval` (R361). -/
def State.barval (s : State) : Word :=
  match s.selBarrier with
  | none => 0
  | some k =>
    let x := s.barrier k
    if s.me.barsel.getLsbD 5 then x.mask
    else BitVec.ofNat 64 (x.gen % 2 ^ 16 + x.total % 2 ^ 16 * 2 ^ 16 + x.per % 2 ^ 8 * 2 ^ 32)

/-- Four streams' counts of unacknowledged stores. -/
def State.sacnt (s : State) (first : Nat) : Word :=
  BitVec.ofNat 64 (((List.range 4).map fun i => s.unacked s.cur.1 s.cur.2 (first + i) % 2 ^ 16 * 2 ^ (16 * i)).sum)

/-- The physical core the context runs on. -/
def State.myPhys (s : State) : Phys :=
  match s.place s.cur.1 with
  | some q => s.physCore q
  | none => {}

/-- Registers 0x200 to 0x2C1 (R361). -/
def State.readCounts (s : State) (n : Nat) : Word :=
  let p := s.myPart
  let e := s.cur.1.estate
  let d := s.die (s.dieOf s.cur.1)
  match n with
  | 0x200 => s.myPhys.smovf
  | 0x201 => s.sacnt 0
  | 0x202 => s.sacnt 4
  | 0x203 => BitVec.ofNat 64 (p.insflight % 2 ^ 32)
  | 0x204 => s.leveeWord s.pid
  | 0x205 => p.barwd
  | 0x206 => s.me.barsel
  | 0x207 => s.barval
  | 0x210 => s.myPhys.latereply
  | 0x211 => s.myPhys.fetchdrop
  | 0x212 => d.eccfix
  | 0x213 => d.weirref
  | 0x214 => p.polfull
  | 0x2C0 => s.me.salsel
  | 0x2C1 =>
    let w := s.me.salsel.toNat
    BitVec.ofNat 64 ((s.linkOf { estate := e, link := w % 128 }).allowance (w / 128 % 4))
  | _ => s.myPhys.lat.get 0 (n - 0x240)

/-- A register of one level's set, by its offset (R387). -/
def Trap.read (t : Trap) (vec : Word) (i : Nat) : Word :=
  match i with
  | 0 => t.pc
  | 1 => t.cause
  | 2 => t.addr
  | 3 => vec
  | 4 => t.scr0
  | 5 => t.scr1
  | _ => t.trec.get 0 (BitVec.ofNat 3 i)

/-- `tlevel`. -/
def Ctx.tlevel (x : Ctx) : Word :=
  BitVec.ofNat 64 (x.level.code + (if x.busyA then 4 else 0) + (if x.busyS then 8 else 0) + (if x.busyF then 16 else 0))

/-- Registers 0x300 to 0x32D and 0xF00 to 0xF13 (R387). -/
def State.readTraps (s : State) (n : Nat) : Word :=
  let p := s.myPart
  let k := s.myCore
  if n < 0x310 then s.me.trapA.read s.me.avec (n - 0x300)
  else if n < 0x320 then s.me.trapS.read p.svec (n - 0x310)
  else if 0xF00 ≤ n ∧ n < 0xF10 then s.me.trapF.read k.fvec (n - 0xF00)
  else match n with
  | 0x320 => s.me.tlevel
  | 0x321 => p.tdeleg
  | 0x322 => p.snotice
  | 0x323 => p.snmask
  | 0x324 => p.sncore
  | 0x325 => p.sfence0
  | 0x326 => p.sfence1
  | 0x327 => p.sstarve0
  | 0x328 => p.sstarve1
  | 0x329 => p.sswap
  | 0x32A => p.haltbase
  | 0x32B => k.msent
  | 0x32C => k.mrcvd
  | 0xF10 => k.dbgctl
  | 0xF13 => (s.estate s.cur.1.estate).ptstat
  | _ => 0

/-- Registers 0x400 to 0x406 (R227). -/
def State.readXlate (s : State) (n : Nat) : Word :=
  let p := s.myPart
  match n with
  | 0x400 => p.ttroot
  | 0x401 => BitVec.ofNat 64 (s.asidOf s.cur.1)
  | 0x402 => p.preqbase
  | 0x403 => p.preqhead
  | 0x404 => p.preqtail
  | 0x405 => p.preqlost
  | 0x406 => (match s.place s.cur.1 with
    | some q =>
      let j := (q.1, q.2.1, clusterOf q.2.2)
      let k := (s.misses j).length + (s.waitersOf j).length
      BitVec.ofNat 64 (min 8 k + (k - 8) % 4096 * 16)
    | none => 0)
  | _ => 0

/-- The link and the lane that `lnksel` names (R403). -/
def State.selLink (s : State) : LinkId := { estate := s.cur.1.estate, link := s.me.lnksel.toNat % 128 }
def State.selLane (s : State) : Nat := s.me.lnksel.toNat / 128 % 8
def State.selRx (s : State) : Bool := s.me.lnksel.getLsbD 10

/-- Registers 0x500 to 0x551 (R403, R404, R411, R416, R418, R421); those of R416 read zero outside boot mode. -/
def State.readFabric (s : State) (n : Nat) : Word :=
  let p := s.myPart
  let e := s.estate s.cur.1.estate
  let k := s.linkOf s.selLink
  let d := s.die (s.dieOf s.cur.1)
  let boot := bootAt s.cur.1
  match n with
  | 0x501 => e.fabstat
  | 0x502 => e.fabxb
  | 0x503 => s.me.lnksel
  | 0x504 => k.stat s.selRx
  | 0x505 => (k.lane s.selRx s.selLane).stat
  | 0x506 => e.fecthr
  | 0x507 => if s.selRx then k.modeR else k.modeT
  | 0x508 => e.fabfail
  | 0x510 => p.inletvb
  | 0x511 => p.inleterr
  | 0x512 => p.inletpc
  | 0x514 => e.cxlstat
  | 0x534 => (match boot with
    | some q => (s.physCore q).nblink ||| BitVec.ofNat 64 (s.liveLinks q)
    | none => 0)
  | 0x535 => if boot.isSome then s.myCore.cwtree else 0
  | 0x537 => if boot.isSome then s.myCore.cwstat else 0
  | 0x538 => if boot.isSome then d.cmapsel else 0
  | 0x539 => if boot.isSome then d.cmap.get Config.unstatedReset (d.cmapsel.toNat % 64) else 0
  | 0x540 => d.evrsel
  | 0x541 => evrWord d d.evrsel.toNat 0
  | 0x542 => evrWord d d.evrsel.toNat 1
  | 0x543 => evrWord d d.evrsel.toNat 2
  | 0x544 => evrWord d d.evrsel.toNat 3
  | 0x550 => e.pwrlim
  | 0x551 => (s.pwrstat s.cur.1.estate).1
  | _ => 0

/-- Performance counters (R363). -/
def State.readPerf (s : State) (n : Nat) : Word :=
  let x := s.myPhys.perf
  if n = 0xE12 then BitVec.ofNat 64 s.cycle - x.get 0 0 - x.get 0 1 else x.get 0 (n - 0xE10)

/-- What `sget` copies. A write-only register reads zero (R108). -/
def State.sread (s : State) (n : Nat) : Word :=
  if n < 0x100 then s.readOwn n
  else if n < 0x180 then s.readBelv n
  else if n < 0x1C0 then s.readMatrix n
  else if n < 0x200 then s.readQueues n
  else if n < 0x300 then s.readCounts n
  else if n < 0x400 then s.readTraps n
  else if n < 0x500 then s.readXlate n
  else if n < 0xE00 then s.readFabric n
  else if n < 0xE10 then physWord (s.place s.cur.1)
  else if n < 0xF00 then s.readPerf n
  else s.readTraps n

/-- May the context's level use the register (R132)? -/
def State.mayUse (s : State) (n : Nat) : Bool :=
  match sregLevel n with
  | some l => decide (l ≤ s.me.level.code)
  | none => false

/-- `sget` (R132). A reading of `pwrstat` uses a free value (log 17). -/
def execSget (d : Reg) (n : BitVec 12) (s : State) : Out :=
  .next (
    if s.mayUse n.toNat then
      let v := s.sread n.toNat
      let s := if n = 0x551 then (s.pwrstat s.cur.1.estate).2 else s
      (s.writeG d v).retire 1
    else s.raise 0x02)

/-! ## Writing -/

/-- A value with its bits [2:0] stored as zero (R387). -/
def aligned (v : Word) : Word := v &&& ~~~7#64

/-- A write of a W1C register (R108). -/
def w1c (old v : Word) : Word := old &&& ~~~v

/-- `tcause` as it is stored: reserved bits zero, FROM at most the register's level (R372, R375). -/
def storedCause (l : Level) (v : Word) : Word :=
  let w : Word := v &&& 0x3FFFFF
  if w.toNat / 256 % 4 ≤ l.code then w else (w &&& ~~~0x300#64) ||| BitVec.ofNat 64 (256 * l.code)

/-- Write a register of a level's set; offset 3 is its vector. -/
def Trap.write (t : Trap) (l : Level) (i : Nat) (v : Word) : Trap :=
  match i with
  | 0 => { t with pc := aligned v }
  | 1 => { t with cause := storedCause l v }
  | 2 => { t with addr := v }
  | 4 => { t with scr0 := v }
  | 5 => { t with scr1 := v }
  | _ => { t with trec := t.trec.set (BitVec.ofNat 3 i) v }

/-- Write a vector register (R387). -/
def State.writeVector (s : State) (l : Level) (v : Word) : State :=
  match l with
  | .app => s.modMe fun x => { x with avec := aligned v }
  | .sup => s.modPart s.pid fun p => { p with svec := aligned v }
  | .fw => s.modMyCore fun k => { k with fvec := aligned v }

def State.writeTrap (s : State) (l : Level) (i : Nat) (v : Word) : State :=
  if i = 3 then s.writeVector l v else s.modMe fun x => x.setTrap l ((x.trap l).write l i v)

/-- `preqhead`: space that frees after drops is told to the supervisor (R226, R378). -/
def State.writePreqHead (s : State) (v : Word) : State :=
  let s := s.modPart s.pid fun p => { p with preqhead := v }
  let p := s.myPart
  if p.preqDropped ∧ ringFull (ringSize p.preqbase) p.preqhead p.preqtail = false then
    (s.modPart s.pid fun p => { p with preqDropped := false }).notice s.pid noticePreq
  else s

/-- `blkcmd` (R387). -/
def State.blkcmd (s : State) (v : Word) : State :=
  match v.toNat % 4 with
  | 1 => s.thaw (coordsOf s.pid v)
  | 2 => s.revive (coordsOf s.pid v)
  | _ => s

/-- Registers 0x300 to 0x32D and 0xF00 to 0xF0F. -/
def State.writeTraps (s : State) (n : Nat) (v : Word) : State :=
  if n < 0x310 then s.writeTrap .app (n - 0x300) v
  else if n < 0x320 then s.writeTrap .sup (n - 0x310) v
  else if 0xF00 ≤ n ∧ n < 0xF10 then s.writeTrap .fw (n - 0xF00) v
  else match n with
  | 0x321 => s.modPart s.pid fun p => { p with tdeleg := v }
  | 0x322 => s.modPart s.pid fun p => { p with snotice := w1c p.snotice v }
  | 0x323 => s.modPart s.pid fun p => { p with snmask := v &&& 0x3F }
  | 0x324 => s.modPart s.pid fun p => { p with sncore := v &&& 0xFFFFF }
  | 0x32A => s.modPart s.pid fun p => { p with haltbase := BitVec.ofNat 64 (v.toNat % 2 ^ 52 / 128 * 128) }
  | 0x32D => s.blkcmd v
  | _ => s

/-- `vcmode`: a mode of 3 is stored as 2 (R403). -/
def storedModes (v : Word) : Word :=
  BitVec.ofNat 64 (((List.range 4).map fun i => min 2 (v.toNat / 4 ^ i % 4) * 4 ^ i).sum)

/-- `fabcmd` (R403). -/
def State.fabcmd (s : State) (v : Word) : State :=
  match v.toNat % 4 with
  | 1 => s.fabOpen s.cur.1.estate
  | 2 => s.fabClose s.cur.1.estate (v.toNat % 2 ^ 52 / 4096 * 4096)
  | _ => s

/-- Registers 0x500 to 0x544. -/
def State.writeFabric (s : State) (n : Nat) (v : Word) : State :=
  let e := s.cur.1.estate
  let d := s.dieOf s.cur.1
  let boot := (bootAt s.cur.1).isSome
  match n with
  | 0x500 => s.fabcmd v
  | 0x502 => s.modEstate e fun x => { x with fabxb := v }
  | 0x503 => s.modMe fun x => { x with lnksel := v &&& 0x7FF }
  | 0x506 => s.modEstate e fun x => { x with fecthr := v &&& 0x3FFF }
  | 0x507 => s.modLink s.selLink fun k =>
      if s.selRx then { k with modeR := storedModes v } else { k with modeT := storedModes v }
  | 0x508 => s.modEstate e fun x => { x with fabfail := v }
  | 0x510 => s.modPart s.pid fun p => { p with inletvb := BitVec.ofNat 64 (v.toNat % 2 ^ 56 / 2 ^ 36 * 2 ^ 36) }
  | 0x511 => s.modPart s.pid fun p => { p with inleterr := w1c p.inleterr v }
  | 0x535 => if boot ∧ cwBusy s.myCore.cwstat = false then s.modMyCore fun k => { k with cwtree := v &&& 0x7F } else s
  | 0x538 => if boot then s.modDie d fun x => { x with cmapsel := v &&& 0x3F } else s
  | 0x540 => s.modDie d fun x => { x with evrsel := v &&& 0xFFF }
  | _ => s

/-- Update the physical core the context runs on. -/
def State.modMyPhys (s : State) (f : Phys → Phys) : State :=
  match s.place s.cur.1 with
  | some q => s.modPhys q f
  | none => s

/-- Registers 0x200 to 0x2C1. -/
def State.writeCounts (s : State) (n : Nat) (v : Word) : State :=
  let d := s.dieOf s.cur.1
  match n with
  | 0x200 => s.modMyPhys fun x => { x with smovf := w1c x.smovf v }
  | 0x205 => s.modPart s.pid fun p => { p with barwd := v }
  | 0x206 => s.modMe fun x => { x with barsel := v &&& 0x3F }
  | 0x210 => s.modMyPhys fun x => { x with latereply := w1c x.latereply v }
  | 0x211 => s.modMyPhys fun x => { x with fetchdrop := w1c x.fetchdrop v }
  | 0x212 => s.modDie d fun x => { x with eccfix := w1c x.eccfix v }
  | 0x213 => s.modDie d fun x => { x with weirref := w1c x.weirref v }
  | 0x214 => s.modPart s.pid fun p => { p with polfull := w1c p.polfull v }
  | 0x2C0 => s.modMe fun x => { x with salsel := v &&& 0x1FF }
  | _ =>
    if 0x240 ≤ n ∧ n < 0x280 then s.modMyPhys fun x =>
      { x with lat := x.lat.set (n - 0x240) (w1c (x.lat.get 0 (n - 0x240)) v) }
    else s

/-- The other registers that can be written: 0x006, 0x101 to 0x105, 0x1C0, 0x1C4, 0x400 to 0x405. -/
def State.writeOther (s : State) (n : Nat) (v : Word) : State :=
  match n with
  | 0x006 => s.modMe fun x => { x with fflags := w1c x.fflags v }
  | 0x101 => s.modPart s.pid fun p => { p with rlogbase := BitVec.ofNat 64 (v.toNat % 2 ^ 52) }
  | 0x102 => s.modPart s.pid fun p => { p with rloghead := v }
  | 0x104 => s.modPart s.pid fun p => { p with rlogdrop := w1c p.rlogdrop v }
  | 0x105 => s.modMe fun x => { x with bvsel := v &&& 0x3F07 }
  | 0x1C0 => s.modMe fun x => { x with cdealpat := v }
  | 0x1C4 => s.modMyCore fun k => { k with cerrcnt := w1c k.cerrcnt v }
  | 0x400 => s.modPart s.pid fun p => { p with ttroot := BitVec.ofNat 64 (v.toNat % 2 ^ 52 / 2 ^ 16 * 2 ^ 16) }
  | 0x402 => s.modPart s.pid fun p => { p with preqbase := BitVec.ofNat 64 (v.toNat % 2 ^ 52) }
  | 0x403 => s.writePreqHead v
  | 0x405 => s.modPart s.pid fun p => { p with preqlost := w1c p.preqlost v }
  | _ => s

/-- What `sset` writes; a write of a read-only register has no effect (R108, R132). The registers of `ownRow` have
instructions of their own. -/
def State.swrite (s : State) (n : Nat) (v : Word) : State :=
  if n < 0x200 then s.writeOther n v
  else if n < 0x300 then s.writeCounts n v
  else if n < 0x400 then s.writeTraps n v
  else if n < 0x500 then s.writeOther n v
  else if n < 0xE00 then s.writeFabric n v
  else s.writeTraps n v

/-- A write at the register's level, then on to the next instruction. -/
def State.ssetOr (s : State) (n : Nat) (f : State → State) : State :=
  if s.mayUse n then (f s).retire 1 else s.raise 0x02

/-- `sset` (R132). -/
def execSset (n : BitVec 12) (a : Reg) (s : State) : Out :=
  .next (s.ssetOr n.toNat fun s => s.swrite n.toNat (s.readG a))

/-- `sset cmpq` (R104). -/
def execCmpqWrite (a : Reg) (s : State) : Out :=
  .next (s.ssetOr 0x012 fun s => s.modMe fun x => { x with cmpq := s.readG a })

/-- MODE as it is stored (R135). -/
def storedRmode (v : Word) : Word :=
  let m := v &&& 7
  if m = 0 ∨ 5 ≤ m.toNat then 1 else m

/-- `sset rmode` (R135). -/
def execRmodeWrite (a : Reg) (s : State) : Out :=
  .next (s.ssetOr 0x005 fun s => s.modMe fun x => { x with rmode := storedRmode (s.readG a) })

/-- A new `bvmode`: leaving mode 0 discards every record of the partition and frees their vectors (R300). -/
def State.setBvmode (s : State) (v : Word) : State :=
  let m := if v &&& 3 = 3 then 2 else v &&& 3
  let p := s.pid
  let s1 := if s.myPart.bvmode = 0 ∧ m ≠ 0 then
      s.dieKeys.foldl (fun t d => t.dropRecords (fun k => (s.asidsOf p).contains k.1) d) s
    else s
  s1.modPart p fun x => { x with bvmode := m }

/-- `sset bvmode` (R300). -/
def execBvmodeWrite (a : Reg) (s : State) : Out :=
  .next (s.ssetOr 0x100 fun s => s.setBvmode (s.readG a))

/-- Waiting contexts that are let run again issue anew (R127, R383). -/
def Ctx.rerun (x : Ctx) (cycle : Nat) : Ctx :=
  match x.run with
  | .waiting _ => { x with run := .ready, since := max x.since cycle }
  | _ => x

/-- A new `dbgctl` (R383): contexts whose HALT bit clears run on, under STEP for one instruction. -/
def State.setDbgctl (s : State) (v : Word) : State :=
  let held := (List.range 11).filter v.getLsbD
  s.modMyCore fun k =>
    let freed := k.halted.filter fun n => !held.contains n
    { k with dbgctl := v &&& 0x1FFF, halted := held
             stepping := if v.getLsbD 11 then freed ++ k.stepping.filter (fun n => !held.contains n && !freed.contains n) else []
             ctxs := k.ctxs.map fun x => if freed.contains x.1 then (x.1, x.2.rerun s.cycle) else x }

/-- `sset dbgctl` (R383). -/
def execDbgctlHalt (a : Reg) (s : State) : Out :=
  .next (s.ssetOr 0xF10 fun s => s.setDbgctl (s.readG a))

end Sys2Proof.Machine
end

