-- ==== Sys2Proof/Machine/System.lean ====
section
/-! DEFINITION. Service traps and returns (R374 to R377), TLB removal and page resolution (R224, R225), the gang stop (R382),
supervisor notices (R378), prefetch of lines (R58), the end of a rollover sweep (R297). -/

namespace Sys2Proof.Machine

/-! ## Traps (R374 to R377) -/

/-- The service trap: to the next level, or from application level to firmware where there is no supervisor vector; at a BUSY level
it fences (log 121). -/
def State.serviceTrap (s : State) (n : BitVec 16) : State :=
  let x := s.me
  if x.level = .fw then s.raise 0x01
  else
    let t : Level := if x.level = .app ∧ s.myPart.svec ≠ 0 then .sup else .fw
    let nest := if x.level = .app ∧ t = .fw then 1 else 0
    let s1 := s.modMe fun x => { x with icount := x.icount + 1 }
    if x.busy t then s1.stopCore s.cur.1
    else s1.enterTrap t (causeWord 0x20 x.level.code s.tlen nest 0) 0 (trapRecords s.words { r4 := n.zeroExtend 64 })

/-- `trap` (R374). -/
def execTrap (n : BitVec 16) (s : State) : Out := .next (s.serviceTrap n)

/-- `tret` (R375). -/
def execTret (s : State) : Out := .next (if s.me.busy s.me.level then s.trapReturn false else s.raise 0x01)

/-- `tret.next` (R375). -/
def execTretNext (s : State) : Out := .next (if s.me.busy s.me.level then s.trapReturn true else s.raise 0x01)

/-- The HALT bit of the context at issue is set, and the context is Halted (R376, R383). -/
def State.haltMe (s : State) : State :=
  s.modMyCore fun k => { k with halted := addTo s.cur.2 k.halted, dbgctl := k.dbgctl ||| BitVec.ofNat 64 (2 ^ s.cur.2) }

/-- `brk` (R376): Halted with its PC at the `brk`, or the breakpoint fault. -/
def execBrk (s : State) : Out := .next (if s.myCore.dbgctl.getLsbD 12 then s.haltMe else s.raise 0x21)

/-- A class-0xF word enters firmware (R103, R377), whose compatibility routine goes on from there: `State.endCompat`. -/
def execDeferredEncoding (_w : Word) (s : State) : Out := .next (s.raise 0x22)

/-! ## `tlbi` (R224) -/

/-- Remove the entries that match, from every TLB of the estates that are reached. -/
def State.dropTlb (s : State) (hit : Nat → TlbEntry → Bool) : State :=
  let keep (e : Nat) (t : List TlbEntry) := t.filter fun x => !hit e x
  { s with
    phys := s.phys.map fun p => (p.1, { p.2 with itlb := keep p.1.1 p.2.itlb, dtlb := keep p.1.1 p.2.dtlb })
    clusters := s.clusters.map fun k => (k.1, { k.2 with tlb := keep k.1.1 k.2.tlb }) }

/-- The TLBs that a message's translation used hold the entry still. -/
def State.holdsEntry (s : State) (m : Msg) (e : TlbEntry) : Bool :=
  match m.tcore with
  | none => false
  | some (es, d, q) => ((s.physCore (es, d, q)).dtlb ++ (s.cluster (es, d, clusterOf q)).tlb).any fun t =>
      t.asid == e.asid && t.page == e.page

/-- Accesses whose translation used an entry that the form removes; for `tlbi.all` every translated access of the estate's cores. -/
def State.dependents (s : State) (hit : Nat → TlbEntry → Bool) (all : Bool) : List Nat :=
  (s.msgs.filter fun m =>
    if all then m.2.core.estate == s.cur.1.estate && !m.2.leafs.isEmpty
    else m.2.leafs.any fun e => hit m.2.core.estate e && s.holdsEntry m.2 e).map (·.1)

/-- Walks in progress whose leaf the form matches: they go on for their accesses and fill no TLB. -/
def State.walksHit (s : State) (hit : Nat → TlbEntry → Bool) : List Nat :=
  (s.msgs.filter fun m => match m.2.body with
    | .access a _ =>
      let c := m.2.core
      m.2.stage == .walk && (match s.walkCluster c with
        | some k => (s.misses k).contains m.1 && decide (s.aheadOf k m.1 < 8)
        | none => false)
      && (match s.locate c a.kind.xkind a.addr a.size m.2.leafs with
        | .walk va => (match s.walk c va a.kind.xkind with
          | .leaf w p _ => hit c.estate { asid := s.asidOf c, page := p, leaf := w }
          | _ => false)
        | _ => false)
    | _ => false).map (·.1)

/-- The entries go; what is waited for. -/
def State.shootDown (s : State) (hit : Nat → TlbEntry → Bool) (all : Bool) : List Nat × State :=
  let ws := s.walksHit hit
  (s.dependents hit all ++ ws, (ws.foldl (fun s id => s.modMsg id fun m => { m with noFill := true }) s).dropTlb hit)

/-- Remove, then wait for the accesses that depend on a removed entry (R224); one that parks depends on none. -/
def State.tlbi (s : State) (hit : Nat → TlbEntry → Bool) (all : Bool) : State :=
  let pc := s.me.pc
  let (ids, s) := match s.me.shootdown with
    | some (p, ids) => if p = pc then (ids, s) else s.shootDown hit all
    | none => s.shootDown hit all
  let left := ids.filter fun id => match Map.get? s.msgs id with
    | some m => m.stage != .parked
    | none => false
  if left.isEmpty then (s.modMe fun x => { x with shootdown := none }).retire 1
  else (s.modMe fun x => { x with shootdown := some (pc, left) }).stall

/-- Reg.g[b] is an ASID. -/
def isAsid (w : Word) : Bool := decide (w.toNat < 16384)

/-- `tlbi.asid` (R224). -/
def execTlbiAsid (b : Reg) (s : State) : Out :=
  let a := s.readG b
  .next (
    if s.me.level = .app then s.raise 0x02
    else if !isAsid a then s.raise 0x01
    else s.tlbi (fun _ x => x.asid == a.toNat) false)

/-- `tlbi.page` (R224). -/
def execTlbiPage (va b : Reg) (s : State) : Out :=
  let a := s.readG b
  let v := (s.readG va).toNat
  .next (
    if s.me.level = .app then s.raise 0x02
    else if !isAsid a then s.raise 0x01
    else s.tlbi (fun _ x => x.asid == a.toNat && x.page.has v) false)

/-- `tlbi.all` (R224). -/
def execTlbiAll (s : State) : Out :=
  .next (
    if s.me.level = .app then s.raise 0x02
    else
      let e := s.cur.1.estate
      s.tlbi (fun k _ => k == e) true)

/-! ## `pgdone` (R65, R225) -/

/-- Is the page waited for the one resolved? -/
def onPage (va : Nat) : Option Page → Bool
  | some p => p.has va
  | none => false

/-- Commands and `mst` requests of a core that wait for the page: how many, and the core with them ready to go on. -/
def Core.resolve (k : Core) (va : Nat) : Nat × Core :=
  ((k.cmds.filter fun x => onPage va x.2.park).length + (k.mreqs.filter fun r => onPage va r.park).length,
   { k with cmds := k.cmds.map fun x => if onPage va x.2.park then (x.1, { x.2 with park := none, resume := true }) else x
            mreqs := k.mreqs.map fun r => if onPage va r.park then { r with park := none } else r })

/-- Every waiter of one core. -/
def State.resolveCore (va : Nat) (r : Nat × State) (c : CoreId) : Nat × State :=
  let (n, s) := (List.range 11).foldl (fun (r : Nat × State) i =>
    let (hit, s) := r.2.resolveCtx c i va
    (if hit then r.1 + 1 else r.1, s)) r
  let (m, k) := (s.core c).resolve va
  (n + m, if m = 0 then s else s.setCore c k)

/-- Virtual cores of an ASID that the state lists. -/
def State.coresOfAsid (s : State) (a : Nat) : List CoreId := (Map.keys s.cores).filter fun c => c.isVirt && s.asidOf c == a

/-- Absent blocks that no longer await a page become ready in this cycle (R71). -/
def State.noteReady (s : State) (before : List BlockId) : State :=
  before.foldl (fun s b => if s.awaits b then s else s.modBlock b fun x => { x with readyAt := s.cycle }) s

/-- The page is resolved for every context and command of the ASID. -/
def State.resolvePage (s : State) (a va : Nat) : Nat × State :=
  let waiting := (Map.keys s.blocks).filter fun b => (s.block b).residence == .absent && s.awaits b
  let (n, s) := (s.coresOfAsid a).foldl (State.resolveCore va) (0, s)
  (n, s.noteReady waiting)

/-- A value-returning atomic. -/
def Msg.isAmo (m : Msg) : Bool :=
  match m.body with
  | .access a _ => (match a.kind with
    | .amo .. => true
    | _ => false)
  | _ => false

/-- The context's stores, atomics and posts are acknowledged. -/
def State.writesDone (s : State) (c : CoreId) (n : Nat) : Bool :=
  (s.msgsOf c n).all fun m => !m.2.isStore && !m.2.isAmo

/-- `pgdone` (R225). -/
def execPgdone (d va b : Reg) (s : State) : Out :=
  let a := s.readG b
  .next (
    if s.me.level = .app then s.raise 0x02
    else if !isAsid a then s.raise 0x01
    else if s.writesDone s.cur.1 s.cur.2 then
      let (n, s1) := s.resolvePage a.toNat (s.readG va).toNat
      (s1.writeG d (BitVec.ofNat 64 n)).retire 1
    else s.stall)

/-! ## The gang stop (R382) -/

/-- The halt goes down the tree to the partition's other packages, on VC2 (R382, R396). -/
def State.haltTree (s : State) (p e : Nat) : State :=
  ((List.range 64).filter fun t => Record.active (s.record p t) && t != e).foldl (fun s t => s.packet e t 2 (.halt p t) []) s

/-- `gstop` (R382): the halt reaches each core as `halt_arrival`. -/
def execGstop (d : Reg) (s : State) : Out :=
  .next (
    if s.me.level = .app then s.raise 0x02
    else if s.myPart.stopped.isSome then (s.writeG d 1).retire 1
    else (((s.modPart s.pid fun p => { p with stopped := some s.cur }).haltTree s.pid s.cur.1.estate).writeG d 0).retire 1)

/-- A core that the stop held: its waiting contexts issue anew. -/
def Core.release (cycle : Nat) (k : Core) : Core :=
  if k.gang then
    { k with gang := false, ctxs := k.ctxs.map fun x => if k.halted.contains x.1 then x else (x.1, x.2.rerun cycle) }
  else k

/-- Every context that the stop halted resumes. -/
def State.resumeAll (s : State) (p : Nat) : State :=
  ({ s with cores := s.cores.map fun c => if c.1.pid = p then (c.1, c.2.release s.cycle) else c } : State).modPart p fun x =>
    { x with stopped := none }

/-- `gstop.go` (R382). -/
def execGstopGo (d : Reg) (s : State) : Out :=
  .next (
    if s.me.level = .app then s.raise 0x02
    else if s.myPart.stopped.isSome then ((s.resumeAll s.pid).writeG d 0).retire 1
    else (s.writeG d 1).retire 1)

/-- State of a context in a halt record. -/
def State.haltCode (s : State) (c : CoreId) (n : Nat) : Nat :=
  match (s.ctx c n).run with
  | .free => 0
  | r => if (s.core c).halted.contains n then 4 else match r with
    | .waiting _ | .stalled => 2
    | .parked => 3
    | _ => if s.keptRequest c n then 2 else 1

/-- The 128-byte halt record of a core. -/
def State.haltRecord (s : State) (c : CoreId) : List Word :=
  let k := s.core c
  let image := if s.isResident c then 0 else 2 ^ 20
  ((List.range 11).map fun n => if (k.ctx n).run = .free then 0 else (k.ctx n).pc)
    ++ [BitVec.ofNat 64 (((List.range 11).map fun n => s.haltCode c n * 2 ^ (4 * n)).sum), k.msent, k.mrcvd, s.tbaseOf c.estate,
        BitVec.ofNat 64 (c.num + image)]

/-- The record is written where `haltbase` is not 0. -/
def State.writeHalt (s : State) (c : CoreId) : State :=
  let base := (s.part c.pid).haltbase.toNat
  if base = 0 then s else s.physWrite (s.homeEstate c.pid) (base + c.num * 128) (wordBytes (s.haltRecord c))

/-- `halt_arrival` (R382): once the halt has come to the core's package. -/
def execHaltArrival (c : CoreId) (s : State) : Out :=
  .next (
    if c.isVirt ∧ s.hasCore c = true ∧ (s.part c.pid).stopped.isSome = true ∧ (s.core c).gang = false
        ∧ s.onWire (.halt c.pid c.estate) = false then
      (s.writeHalt c).modCore c fun k => { k with gang := true }
    else s)

/-! ## Firmware's writes in a halt (R382) -/

/-- A live context of the core is Halted. -/
def State.inHalt (s : State) (c : CoreId) : Bool :=
  (List.range 11).any fun n => (s.ctx c n).run != .free && s.isHalted c n

/-- A firmware debug write: to a register of a Halted context, or to the state of a core, or its block, in a halt (R110, R151, R160,
R161, R189, R192; log 107). -/
def State.debugWrite (s : State) (c : CoreId) (n : Nat) (w : DebugWrite) : State :=
  let ctx (f : Ctx → Ctx) : State := if (s.ctx c n).run ≠ .free ∧ s.isHalted c n then s.modCtx c n f else s
  let core (f : State → State) : State := if s.inHalt c then f s else s
  let block (f : BlockId → State → State) : State := match c.block with
    | some b => core (f b)
    | none => s
  match w with
  | .g r v => ctx fun x => x.setG r v
  | .v r v => ctx fun x => x.setV r v
  | .k r v => ctx fun x => x.setK r v
  | .code i v => core fun s => s.modCore c fun k => { k with code := k.code.set (i % 16) v }
  | .slot i off v => block fun b s => s.poke (slotLoc b (i % 64) (off % 8192)) v
  | .claim i x => block fun b s => s.modBlock b fun q => { q with claims := q.claims.set (i % 64) x }
  | .acc a off v => core fun s => s.poke (accLoc c (a % 8) (off % 16384)) v

/-! ## Supervisor notices (R378) -/

/-- May context 0 of the core take a notice now: not stopped, the supervisor level not BUSY, and at an instruction boundary: no
verdict is still to come and no fault is still to be taken of an instruction before it (R259; log 71)? -/
def State.takesNotice (s : State) (c : CoreId) : Bool :=
  let x := s.ctx c 0
  (match x.run with
    | .ready | .stalled | .waiting _ => true
    | _ => false)
  && !x.busyS && x.owed.isNone && !s.verdictDue c 0
  && !s.isHalted c 0 && !s.isFenced c && s.isResident c && !s.swapping c

/-- `supervisor_notice` (R378): code 0x30 with TLEN 0. A `tlbi` that waited is made anew after the handler. -/
def execSupervisorNotice (pid : Nat) (s : State) : Out :=
  let p := s.part pid
  let c := CoreId.virt pid p.sncore.toNat
  .next (
    if p.snotice &&& p.snmask ≠ 0 ∧ s.hasCore c = true ∧ s.takesNotice c = true then
      (s.modCtx c 0 fun x => { x with shootdown := none }).asCtx c 0 [] fun s =>
        s.enterTrap .sup (causeWord 0x30 s.me.level.code 0 0 0) 0 (trapRecords [] {})
    else s)

/-! ## Fetching ahead (R58) -/

/-- The line after the one a context stands in. -/
def nextLine (pc : Word) : Word := BitVec.ofNat 64 ((pc.toNat / 64 + 1) * 64)

/-- A fetch error that no instruction reaches is counted. -/
def State.countFetch (s : State) (c : CoreId) : State :=
  match s.place c with
  | some q => s.modPhys q fun x => { x with fetchdrop := satInc x.fetchdrop }
  | none => s

/-- Whose the fetch turn is: the next context, from the pointer on, that is live and whose next line is not fetched (R58). -/
def State.fetchTurn (s : State) (c : CoreId) : Option Nat :=
  ((List.range 11).map fun i => ((s.core c).rotF + i) % 11).find? fun n =>
    (s.ctx c n).run != .free && (s.ctx c n).fetched != some (nextLine (s.ctx c n).pc)

/-- `fetch_line` (R58): the context's next line, at its turn. A fetch of a context that is not Ready, or that errs, is dropped.
The line's words are not kept, so a store changes what issues next; a TLB entry is (log 91). -/
def execFetchLine (c : CoreId) (n : Nat) (bad : Bool) (s : State) : Out :=
  .next (
    if s.fetchTurn c ≠ some n ∨ s.isResident c = false then s
    else
      let line := nextLine (s.ctx c n).pc
      let s := s.modCore c fun k => { k with rotF := (n + 1) % 11 }
      if (s.ctx c n).run ≠ .ready ∨ s.isHalted c n ∨ s.keptRequest c n then s
      else if bad then s.countFetch c
      else match s.fetchWord c n line with
        | .ok (_, s) => s.modCtx c n fun x => { x with fetched := some line }
        | .error (.fault _ _ _ s) => s.countFetch c
        | .error (.park _ _ _ s) => s
        | .error _ => s)

/-! ## Rollover (R297) -/

/-- A unit of a level: the partition it belongs to (none for an estate), and a party inside it. -/
structure RollUnit where
  level : Nat
  pid : Option Nat
  who : Party
deriving DecidableEq, Repr

/-- The unit a number names: contexts as (pid, vcore, context), cores as (pid, vcore), blocks by their key, fields as
(pid, estate, field), estates by number. -/
def rollUnit (level n : Nat) : RollUnit :=
  match level with
  | 1 => { level := 1, pid := some (n / 2 ^ 24), who := { vcore := n / 16 % 2 ^ 20, ctx := n % 16 } }
  | 2 => { level := 2, pid := some (n / 2 ^ 20), who := { vcore := n % 2 ^ 20 } }
  | 3 => { level := 3, pid := some (n / 2 ^ 15), who := { vcore := n % 64 * 16 + n / 64 % 8 * 1024 + n / 512 % 64 * 8192 } }
  | 4 => { level := 4, pid := some (n / 2 ^ 9), who := { vcore := n % 8 * 1024 + n / 8 % 64 * 8192 } }
  | _ => { level := 5, pid := none, who := { vcore := n % 64 * 8192 } }

def RollUnit.of (u : RollUnit) (pid : Nat) : Bool := u.pid.isNone || u.pid == some pid

/-- Is a party's level unit the one that rolls over? -/
def RollUnit.has (u : RollUnit) (p : Party) : Bool := sameUnit u.level u.who p

/-- Entry (k, i) of a vector kept by a party names the unit. -/
def RollUnit.named (u : RollUnit) (p : Party) (e : Nat × Nat) : Bool :=
  e.1 == u.level && e.2 == u.who.idx u.level && sameUnit (u.level + 1) u.who p

def RollUnit.sweepClk (u : RollUnit) (p : Party) (m : Clk) : Clk := m.filter fun e => !u.named p e.1

/-- Zero the unit's place in a record's clocks. -/
def RollUnit.sweepOwn (u : RollUnit) (p : Party) (clk : List Nat) : List Nat :=
  if u.has p then clk.set (u.level - 1) 0 else clk

def RollUnit.sweepReader (u : RollUnit) (r : Reader) : Reader := { r with clk := u.sweepOwn r.who r.clk }

def RollUnit.sweepReads (u : RollUnit) : Reads → Reads
  | .none => .none
  | .one a => .one (u.sweepReader a)
  | .two a b => .two (u.sweepReader a) (u.sweepReader b)
  | .shared clk l p atom mask => .shared (if l ≤ u.level then u.sweepOwn p clk else clk) l p atom mask

def RollUnit.sweepRec (u : RollUnit) (r : LineRec) : LineRec :=
  { r with clk := u.sweepOwn r.who r.clk, reads := u.sweepReads r.reads }

/-- Records of the unit's partition, and held vectors, on a die. -/
def State.sweepDie (s : State) (u : RollUnit) (x : Die) : Die :=
  let mine (asid : Nat) : Bool := match u.pid with
    | some p => (s.asidsOf p).contains asid
    | none => true
  { x with recs := x.recs.map fun r => if mine r.1.1 then (r.1, u.sweepRec r.2) else r
           sv := x.sv.map fun h => if u.of h.2.pid then (h.1, { h.2 with ents := u.sweepClk h.2.anchor h.2.ents }) else h }

/-- What an answer on its way joins. -/
def RollUnit.sweepJoin (u : RollUnit) : Join → Join
  | .held h => .held (if u.of h.pid then { h with ents := u.sweepClk h.anchor h.ents } else h)
  | j => j

/-- A snapshot on its way, so that no record takes the old counter once the unit's restarts (R298; log 96); in an image its
entries stay. -/
def RollUnit.sweepSnap (u : RollUnit) (live : Bool) (v : Snap) : Snap :=
  if u.of v.pid then
    { v with own := u.sweepOwn v.who v.own, ents := if live then u.sweepClk v.who v.ents else v.ents }
  else v

def RollUnit.sweepReq (u : RollUnit) (live : Bool) (r : MReq) : MReq := { r with snap := u.sweepSnap live r.snap }

/-- The live clock files, and the snapshots of commands, requests and signals: clocks in images are not swept. -/
def State.sweepCore (s : State) (u : RollUnit) (c : CoreId) (k : Core) : Core :=
  if c.isVirt && u.of c.pid then
    let live := s.isResident c
    let ctx (x : Nat × Ctx) : Nat × Ctx :=
      (x.1, { x.2 with clk := if live then u.sweepClk (partyOf c x.1) x.2.clk else x.2.clk
                       progress := x.2.progress.map fun p => (p.1, p.2.1, p.2.2.1, u.sweepSnap live p.2.2.2.1, p.2.2.2.2) })
    { k with ctxs := k.ctxs.map ctx
             cmds := k.cmds.map fun x => (x.1, { x.2 with snap := u.sweepSnap live x.2.snap
                                                          link := x.2.link.map (u.sweepReq live) })
             mreqs := k.mreqs.map (u.sweepReq live)
             sigs := k.sigs.map fun g => { g with vec := g.vec.map (u.sweepSnap live) } }
  else k

def RollUnit.sweepPart (u : RollUnit) (p : Part) : Part :=
  { p with inletq := p.inletq.map fun t => { t with snap := t.snap.map (u.sweepSnap true) } }

/-- The counter of the unit. -/
def State.rollCounter (s : State) (u : RollUnit) : Nat :=
  s.unitCounter (u.pid.getD 0) u.who u.level

/-- The counter restarts at 1. -/
def State.restartCounter (s : State) (u : RollUnit) : State :=
  let c := CoreId.virt (u.pid.getD 0) u.who.vcore
  match u.level with
  | 1 => s.modCtx c u.who.ctx fun x => { x with ctr := 1 }
  | 2 => s.modCore c fun k => { k with ctr := 1 }
  | 3 => s.modBlock (counterBlock c.pid c.num) fun b => { b with ctr := 1 }
  | 4 => s.modPart c.pid fun p => { p with fieldCtr := p.fieldCtr.set (numEstate c.num, numField c.num) 1 }
  | _ => s.modEstate c.estate fun e => { e with ctr := 1 }

/-- Dies that count the rollover: the unit's own, or each of an estate's. -/
def State.rollDies (s : State) (u : RollUnit) : List (Nat × Nat) :=
  match u.pid with
  | some p => [s.dieOf (.virt p u.who.vcore)]
  | none => (List.range 8).map fun d => (numEstate u.who.vcore, d)

def State.countRoll (s : State) (d : Nat × Nat) : State :=
  s.modDie d fun x => { x with bvroll := BitVec.ofNat 64 ((x.bvroll.toNat / 65536 + 1) % 2 ^ 32 * 65536) }

/-- `rollover_sweep_complete` (R297). -/
def execRolloverSweepComplete (level unit : Nat) (s : State) : Out :=
  let u := rollUnit level unit
  .next (
    if s.rollCounter u ≠ sweeping then s
    else
      let s1 : State := { s with dies := s.dies.map fun d => (d.1, s.sweepDie u d.2)
                                 cores := s.cores.map fun c => (c.1, s.sweepCore u c.1 c.2)
                                 msgs := s.msgs.map fun m => (m.1, { m.2 with snap := u.sweepSnap true m.2.snap
                                                                              joins := m.2.joins.map u.sweepJoin })
                                 inserts := s.inserts.map fun x =>
                                   (x.1, { x.2 with snap := x.2.snap.map (u.sweepSnap true) })
                                 parts := s.parts.map fun p => (p.1, u.sweepPart p.2) }
      (s1.rollDies u).foldl State.countRoll (s1.restartCounter u))

end Sys2Proof.Machine
end

