-- ==== Sys2Proof/Machine/Compat.lean ====
section
/-! DEFINITION. The firmware's compatibility routine for words of class 0xF (R103, R104, R377; log 15). -/

namespace Sys2Proof.Machine

/-- The registers the routine works on. -/
def Ctx.compatIn (x : Ctx) : Config.CompatRegs := (x.g, x.v, x.k)

/-- The registers a recognised word writes. -/
def Ctx.compat (x : Ctx) (r : Config.CompatRegs) : Ctx :=
  let x := r.1.foldl (fun x e => x.setG e.1 e.2) x
  let x := r.2.1.foldl (fun x e => x.setV e.1 e.2) x
  r.2.2.foldl (fun x e => x.setK e.1 e.2) x

/-- Where bytes lie, with the walks that it takes (R220). -/
def State.resolveNow (s : State) (c : CoreId) (kind : XKind) (a : Word) (n : Nat) : Nat → Located × State
  | 0 => (.fault 0x06 a, s)
  | fuel + 1 => match s.locate c kind a n with
    | .walk va => match s.walk c va kind with
      | .leaf w p loc =>
        let (w, s) := s.markPte w loc kind
        (s.fillTlb c kind { asid := s.asidOf c, page := p, leaf := w }).resolveNow c kind a n fuel
      | _ => (.fault 0x06 a, s)
    | l => (l, s)

/-- Targets of one access of the routine; none where it reaches nothing. -/
def State.compatTargets (s : State) (c : CoreId) (kind : XKind) (a : Word) (n : Nat) : List Target × State :=
  match s.resolveNow c kind a n engFuel with
  | (.own off, s) => ([s.scratchTarget c c off n], s)
  | (.remote ts, s) => (ts, s)
  | (_, s) => ([], s)

/-- An access of the routine: one of the context at the word (R103). -/
def State.compatCheck (s : State) (c : CoreId) (n : Nat) (write : Bool) : Check :=
  { core := c, ctx := n, snap := s.snapshot c n .thread, read := !write, write := write, atomic := false, release := false
    order := .plain, scope := .thread, pc := (s.ctx c n).trapF.pc, mode := s.modeOf c, parts := true }

/-- Held traffic of the routine waits like any other (R72, R75, R401). -/
def State.compatHeld (s : State) (c : CoreId) (ts : List Target) : Bool :=
  ts.any fun t => s.fabricHolds c t.estate || s.holdsAt c.pid [t]

/-- How the routine's accesses end. -/
inductive CompatEnd where
  | read (bs : List (Option (List Byte)))
  | race (ws : List Word)
  | wait
deriving DecidableEq, Repr

/-- One checked access: bytes read, or bytes written; none where nothing is reached, where it lies in a fenced block, or where a
line is poisoned. -/
def State.compatAct (s : State) (c : CoreId) (n : Nat) (a : Word) (len : Nat) (new : Option (List Byte)) : CompatEnd × State :=
  let write := new.isSome
  let (ts, s) := s.compatTargets c (if write then .write else .read) a len
  if s.compatHeld c ts then (.wait, s)
  else if ts.isEmpty ∨ s.unitFenced (firstUnit ts) ∨ s.poisonStops (if write then .store else .load) ts then (.read [none], s)
  else
    let ck := s.compatCheck c n write
    let (old, s) := if write then ([], s) else s.readBytes ck ts
    let (v, s) := s.check ck ts
    match v.race, v.commits with
    | some ws, false => (.race ws, s)
    | _, _ => (.read [some old], match new with
      | some bs => s.commitTargets ts bs
      | none => s)

/-- Accesses in turn, as far as the first that races or waits. -/
def State.compatRun (c : CoreId) (n : Nat) : List (Word × Nat × Option (List Byte)) → State → CompatEnd × State
  | [], s => (.read [], s)
  | (a, len, new) :: as, s => match s.compatAct c n a len new with
    | (.read bs, s) => (match State.compatRun c n as s with
      | (.read cs, s) => (.read (bs ++ cs), s)
      | r => r)
    | r => r

/-- The compatibility routine ends (R103, R104, R377): for a word in the installed table it reads, then the results are written
and execution goes on at the next word; a race in enforcing mode is raised at the word; any other word raises the
illegal-instruction fault at the level it was met, precise at the word. -/
def State.endCompat (s : State) (c : CoreId) (n : Nat) : State :=
  let x := s.ctx c n
  let w := x.trapF.trec.get 0 0
  let regs := x.compatIn
  let raceAt (s : State) (ws : List Word) : State :=
    s.asCtx c n [w] fun s => (s.trapReturn false).raise 0x13 { race := some ws }
  if x.run = .free ∨ x.level ≠ .fw ∨ !x.busyF ∨ x.trapF.cause.toNat % 256 ≠ 0x22 ∨ s.isHalted c n ∨ s.isFenced c ∨ !s.isResident c
      ∨ !(s.accesses c n).isEmpty then
    s
  else if Config.compatKnown w then
    match State.compatRun c n ((Config.compatReads w regs).map fun r => (r.1, r.2, none)) s with
    | (.wait, _) => s
    | (.race ws, t) => raceAt t ws
    | (.read got, t) =>
      let (r, ws) := Config.compatResult w regs got
      match State.compatRun c n (ws.map fun b => (b.1, b.2.length, some b.2)) t with
      | (.wait, _) => s
      | (.race ws, t) => raceAt t ws
      | (.read _, t) => (t.modCtx c n fun x => x.compat r).asCtx c n [] fun s => s.trapReturn true
  else s.asCtx c n [w] fun s => (s.trapReturn false).raise 0x01

end Sys2Proof.Machine
end

