-- ==== Sys2Proof/Machine/Control.lean ====
section
/-! DEFINITION. Class 0x1: branches, calls, returns and context instructions (R116 to R121). -/

namespace Sys2Proof.Machine

/-- Target of format B: the instruction's address plus the word offset (R95). -/
def branchTarget (pc : Word) (off : BitVec 40) : Word := pc + (off.signExtend 64 <<< 3)

/-- `b` (R116). -/
def execB (c : Cond) (_hint : Hint) (x y : Reg) (off : BitVec 40) (s : State) : Out :=
  .next (if icond c 64 (s.readG x).toNat (s.readG y).toNat then s.jump (branchTarget s.me.pc off) else s.retire 1)

/-- `call` (R116). -/
def execCall (l : Reg) (_hint : Hint) (off : BitVec 40) (s : State) : Out :=
  .next ((s.writeG l (s.me.pc + 8)).jump (branchTarget s.me.pc off))

/-- A target with bits [2:0] set raises the misaligned-target fault (R117, R119). -/
def aligned8 (t : Word) : Bool := t.extractLsb' 0 3 == 0

/-- `jr` (R117). -/
def execJr (o : OpA) (s : State) : Out :=
  let t := s.readG o.a
  .next (if aligned8 t then s.jump t else s.raise 0x03 { addr := t })

/-- `callr` (R117). -/
def execCallr (o : OpA) (s : State) : Out :=
  let t := s.readG o.a
  .next (if aligned8 t then (s.writeG o.d (s.me.pc + 8)).jump t else s.raise 0x03 { addr := t })

/-- Start helper h at t with argument arg: context reuse, then a release by context 0 that h acquires (R119, R282). -/
def State.startHelper (s : State) (h : Nat) (t arg : Word) : State :=
  let c := s.cur.1
  let (v, s) := s.release c 0 .core
  let s := s.modCtx c h fun x =>
    { ((x.freshThread t (s.cycle + 1)).setG 3 arg) with hown := true }
  s.joinCtx c h v.held

/-- `hstart` (R119). -/
def execHstart (o : OpA) (s : State) : Out :=
  let t := s.readG o.a
  .next (
    if s.cur.2 ≠ 0 then s.raise 0x05
    else if !aligned8 t then s.raise 0x03 { addr := t }
    else match s.myCore.freeHelper with
      | none => (s.writeG o.d 0).retire 1
      | some h => ((s.startHelper h t (s.readG o.b)).writeG o.d (BitVec.ofNat 64 h)).retire 1)

/-- `hstop` (R120). -/
def execHstop (o : OpA) (s : State) : Out :=
  .next (
    if s.cur.2 = 0 ∨ s.me.firing.isSome then s.raise 0x05
    else if s.loadsDone s.cur.1 s.cur.2 then (s.retire 1).freeCtx s.cur.1 s.cur.2
    else s.stall)

/-- `fdone` (R120, R51). -/
def execFdone (o : OpA) (s : State) : Out :=
  .next (
    if s.cur.2 = 0 ∨ s.me.hown then s.raise 0x05
    else if s.loadsDone s.cur.1 s.cur.2 then (s.retire 1).freeCtx s.cur.1 s.cur.2
    else s.stall)

/-- The contexts of my core that are Ready, but for me (R47, R59, R328). -/
def State.readyOthers (s : State) : List Nat :=
  (List.range 11).filter fun n => n != s.cur.2 && (s.ctx s.cur.1 n).run == .ready && !s.isHalted s.cur.1 n
    && !s.keptRequest s.cur.1 n

/-- `yield` (R121, R59): its claim ends; Since moves when the others have issued, at once where there are none, or eleven cycles
on. -/
def execYield (_o : OpA) (s : State) : Out :=
  .next (s.modMe fun x =>
    { x with pc := x.pc + 8, icount := x.icount + 1, yieldFor := s.readyOthers
             since := if s.readyOthers = [] then s.cycle else s.cycle + 11 })

end Sys2Proof.Machine
end

