-- ==== Sys2Proof/Machine/Dispatch.lean ====
section
/-! DEFINITION. One arm per instruction: a direct call of its meaning. -/

namespace Sys2Proof.Machine

def exec (i : Instr) (s : State) : Host.Outcome State Fault Refusal :=
  match i with
  | .add o => Sys2Proof.Machine.execAdd o s
  | .sub o => Sys2Proof.Machine.execSub o s
  | .mul o => Sys2Proof.Machine.execMul o s
  | .mulh o => Sys2Proof.Machine.execMulh o s
  | .mulhu o => Sys2Proof.Machine.execMulhu o s
  | .div o => Sys2Proof.Machine.execDiv o s
  | .divu o => Sys2Proof.Machine.execDivu o s
  | .rem o => Sys2Proof.Machine.execRem o s
  | .remu o => Sys2Proof.Machine.execRemu o s
  | .and o => Sys2Proof.Machine.execAnd o s
  | .or o => Sys2Proof.Machine.execOr o s
  | .xor o => Sys2Proof.Machine.execXor o s
  | .andn o => Sys2Proof.Machine.execAndn o s
  | .shl o => Sys2Proof.Machine.execShl o s
  | .shr o => Sys2Proof.Machine.execShr o s
  | .sar o => Sys2Proof.Machine.execSar o s
  | .rol o => Sys2Proof.Machine.execRol o s
  | .min o => Sys2Proof.Machine.execMin o s
  | .max o => Sys2Proof.Machine.execMax o s
  | .minu o => Sys2Proof.Machine.execMinu o s
  | .maxu o => Sys2Proof.Machine.execMaxu o s
  | .cset cond o => Sys2Proof.Machine.execCset cond o s
  | .sel o => Sys2Proof.Machine.execSel o s
  | .bext o => Sys2Proof.Machine.execBext o s
  | .bins o => Sys2Proof.Machine.execBins o s
  | .clz o => Sys2Proof.Machine.execClz o s
  | .ctz o => Sys2Proof.Machine.execCtz o s
  | .popc o => Sys2Proof.Machine.execPopc o s
  | .brev o => Sys2Proof.Machine.execBrev o s
  | .addi o => Sys2Proof.Machine.execAddi o s
  | .subi o => Sys2Proof.Machine.execSubi o s
  | .muli o => Sys2Proof.Machine.execMuli o s
  | .andi o => Sys2Proof.Machine.execAndi o s
  | .ori o => Sys2Proof.Machine.execOri o s
  | .xori o => Sys2Proof.Machine.execXori o s
  | .shli o => Sys2Proof.Machine.execShli o s
  | .shri o => Sys2Proof.Machine.execShri o s
  | .sari o => Sys2Proof.Machine.execSari o s
  | .cseti cond o => Sys2Proof.Machine.execCseti cond o s
  | .movi o => Sys2Proof.Machine.execMovi o s
  | .movl o => Sys2Proof.Machine.execMovl o s
  | .addl o => Sys2Proof.Machine.execAddl o s
  | .andl o => Sys2Proof.Machine.execAndl o s
  | .orl o => Sys2Proof.Machine.execOrl o s
  | .b cond hint x y off => Sys2Proof.Machine.execB cond hint x y off s
  | .call l hint off => Sys2Proof.Machine.execCall l hint off s
  | .jr o => Sys2Proof.Machine.execJr o s
  | .callr o => Sys2Proof.Machine.execCallr o s
  | .hstart o => Sys2Proof.Machine.execHstart o s
  | .hstop o => Sys2Proof.Machine.execHstop o s
  | .fdone o => Sys2Proof.Machine.execFdone o s
  | .yield o => Sys2Proof.Machine.execYield o s
  | .fadd o => Sys2Proof.Machine.execFadd o s
  | .fsub o => Sys2Proof.Machine.execFsub o s
  | .fmul o => Sys2Proof.Machine.execFmul o s
  | .fdiv o => Sys2Proof.Machine.execFdiv o s
  | .fsqrt o => Sys2Proof.Machine.execFsqrt o s
  | .ffma o => Sys2Proof.Machine.execFfma o s
  | .ffms o => Sys2Proof.Machine.execFfms o s
  | .fmin o => Sys2Proof.Machine.execFmin o s
  | .fmax o => Sys2Proof.Machine.execFmax o s
  | .fcset cond o => Sys2Proof.Machine.execFcset cond o s
  | .fcvt src o => Sys2Proof.Machine.execFcvt src o s
  | .frcp o => Sys2Proof.Machine.execFrcp o s
  | .frsq o => Sys2Proof.Machine.execFrsq o s
  | .fexp2 o => Sys2Proof.Machine.execFexp2 o s
  | .flog2 o => Sys2Proof.Machine.execFlog2 o s
  | .fclass o => Sys2Proof.Machine.execFclass o s
  | .fround o => Sys2Proof.Machine.execFround o s
  | .vadd o => Sys2Proof.Machine.execVadd o s
  | .vsub o => Sys2Proof.Machine.execVsub o s
  | .vmul o => Sys2Proof.Machine.execVmul o s
  | .vmulh o => Sys2Proof.Machine.execVmulh o s
  | .vfma o => Sys2Proof.Machine.execVfma o s
  | .vfms o => Sys2Proof.Machine.execVfms o s
  | .vdiv o => Sys2Proof.Machine.execVdiv o s
  | .vsqrt o => Sys2Proof.Machine.execVsqrt o s
  | .vmin o => Sys2Proof.Machine.execVmin o s
  | .vmax o => Sys2Proof.Machine.execVmax o s
  | .vand o => Sys2Proof.Machine.execVand o s
  | .vor o => Sys2Proof.Machine.execVor o s
  | .vxor o => Sys2Proof.Machine.execVxor o s
  | .vandn o => Sys2Proof.Machine.execVandn o s
  | .vshl o => Sys2Proof.Machine.execVshl o s
  | .vshr o => Sys2Proof.Machine.execVshr o s
  | .vsar o => Sys2Proof.Machine.execVsar o s
  | .vcmp cond o => Sys2Proof.Machine.execVcmp cond o s
  | .vsel o => Sys2Proof.Machine.execVsel o s
  | .vcvt part src o => Sys2Proof.Machine.execVcvt part src o s
  | .vrcp o => Sys2Proof.Machine.execVrcp o s
  | .vrsq o => Sys2Proof.Machine.execVrsq o s
  | .vexp2 o => Sys2Proof.Machine.execVexp2 o s
  | .vlog2 o => Sys2Proof.Machine.execVlog2 o s
  | .vbcst o => Sys2Proof.Machine.execVbcst o s
  | .vmovi o => Sys2Proof.Machine.execVmovi o s
  | .vshuf o => Sys2Proof.Machine.execVshuf o s
  | .vperm m o => Sys2Proof.Machine.execVperm m o s
  | .vslideDn o => Sys2Proof.Machine.execVslideDn o s
  | .vslideUp o => Sys2Proof.Machine.execVslideUp o s
  | .vredAdd o => Sys2Proof.Machine.execVredAdd o s
  | .vredMin o => Sys2Proof.Machine.execVredMin o s
  | .vredMax o => Sys2Proof.Machine.execVredMax o s
  | .vredAnd o => Sys2Proof.Machine.execVredAnd o s
  | .vredOr o => Sys2Proof.Machine.execVredOr o s
  | .vredXor o => Sys2Proof.Machine.execVredXor o s
  | .vlut hi o => Sys2Proof.Machine.execVlut hi o s
  | .ctld o => Sys2Proof.Machine.execCtld o s
  | .vpack o => Sys2Proof.Machine.execVpack o s
  | .vunpk ctr planes o => Sys2Proof.Machine.execVunpk ctr planes o s
  | .vext o => Sys2Proof.Machine.execVext o s
  | .vins o => Sys2Proof.Machine.execVins o s
  | .vcompress o => Sys2Proof.Machine.execVcompress o s
  | .vexpand o => Sys2Proof.Machine.execVexpand o s
  | .kand o => Sys2Proof.Machine.execKand o s
  | .kor o => Sys2Proof.Machine.execKor o s
  | .kxor o => Sys2Proof.Machine.execKxor o s
  | .kandn o => Sys2Proof.Machine.execKandn o s
  | .knot o => Sys2Proof.Machine.execKnot o s
  | .kmovKFromG o => Sys2Proof.Machine.execKmovKFromG o s
  | .kmovGFromK o => Sys2Proof.Machine.execKmovGFromK o s
  | .kpopc o => Sys2Proof.Machine.execKpopc o s
  | .kseti o => Sys2Proof.Machine.execKseti o s
  | .vmov o => Sys2Proof.Machine.execVmov o s
  | .ld o => Sys2Proof.Machine.execLd o s
  | .st o => Sys2Proof.Machine.execSt o s
  | .vld o => Sys2Proof.Machine.execVld o s
  | .vst o => Sys2Proof.Machine.execVst o s
  | .stm o => Sys2Proof.Machine.execStm o s
  | .vstm o => Sys2Proof.Machine.execVstm o s
  | .vgat o => Sys2Proof.Machine.execVgat o s
  | .vsct o => Sys2Proof.Machine.execVsct o s
  | .pref o => Sys2Proof.Machine.execPref o s
  | .sclose o => Sys2Proof.Machine.execSclose o s
  | .amoAdd o => Sys2Proof.Machine.execAmoAdd o s
  | .amoAnd o => Sys2Proof.Machine.execAmoAnd o s
  | .amoOr o => Sys2Proof.Machine.execAmoOr o s
  | .amoXor o => Sys2Proof.Machine.execAmoXor o s
  | .amoMin o => Sys2Proof.Machine.execAmoMin o s
  | .amoMax o => Sys2Proof.Machine.execAmoMax o s
  | .amoSwap o => Sys2Proof.Machine.execAmoSwap o s
  | .amoCas o => Sys2Proof.Machine.execAmoCas o s
  | .redAdd o => Sys2Proof.Machine.execRedAdd o s
  | .redAnd o => Sys2Proof.Machine.execRedAnd o s
  | .redOr o => Sys2Proof.Machine.execRedOr o s
  | .redXor o => Sys2Proof.Machine.execRedXor o s
  | .redMin o => Sys2Proof.Machine.execRedMin o s
  | .redMax o => Sys2Proof.Machine.execRedMax o s
  | .post o => Sys2Proof.Machine.execPost o s
  | .xget o => Sys2Proof.Machine.execXget o s
  | .xtry o => Sys2Proof.Machine.execXtry o s
  | .xpeek o => Sys2Proof.Machine.execXpeek o s
  | .rld o => Sys2Proof.Machine.execRld o s
  | .ins o => Sys2Proof.Machine.execIns o s
  | .insGrant o => Sys2Proof.Machine.execInsGrant o s
  | .probe o => Sys2Proof.Machine.execProbe o s
  | .take o => Sys2Proof.Machine.execTake o s
  | .rset o => Sys2Proof.Machine.execRset o s
  | .rget o => Sys2Proof.Machine.execRget o s
  | .cpy o => Sys2Proof.Machine.execCpy o s
  | .cpyt o => Sys2Proof.Machine.execCpyt o s
  | .cpySlot o => Sys2Proof.Machine.execCpySlot o s
  | .cpySlotLink o m set => Sys2Proof.Machine.execCpySlotLink o m set s
  | .cpyDeal o => Sys2Proof.Machine.execCpyDeal o s
  | .cpyMc o => Sys2Proof.Machine.execCpyMc o s
  | .cpyStamp o => Sys2Proof.Machine.execCpyStamp o s
  | .cpyFill o => Sys2Proof.Machine.execCpyFill o s
  | .cnop o => Sys2Proof.Machine.execCnop o s
  | .mclaim o => Sys2Proof.Machine.execMclaim o s
  | .mclaimSh o => Sys2Proof.Machine.execMclaimSh o s
  | .mclaimTry o => Sys2Proof.Machine.execMclaimTry o s
  | .mclaimShtry o => Sys2Proof.Machine.execMclaimShtry o s
  | .mrel o => Sys2Proof.Machine.execMrel o s
  | .mfmt o => Sys2Proof.Machine.execMfmt o s
  | .mzero o => Sys2Proof.Machine.execMzero o s
  | .mmac o => Sys2Proof.Machine.execMmac o s
  | .mmacSet o => Sys2Proof.Machine.execMmacSet o s
  | .macc o => Sys2Proof.Machine.execMacc o s
  | .mst o => Sys2Proof.Machine.execMst o s
  | .swait o => Sys2Proof.Machine.execSwait o s
  | .ssig o => Sys2Proof.Machine.execSsig o s
  | .stry o => Sys2Proof.Machine.execStry o s
  | .smrd o => Sys2Proof.Machine.execSmrd o s
  | .smset o => Sys2Proof.Machine.execSmset o s
  | .bar fld o => Sys2Proof.Machine.execBar fld o s
  | .barcfg fld o => Sys2Proof.Machine.execBarcfg fld o s
  | .wstill o => Sys2Proof.Machine.execWstill o s
  | .sget d n => Sys2Proof.Machine.execSget d n s
  | .sset n a => Sys2Proof.Machine.execSset n a s
  | .trap n => Sys2Proof.Machine.execTrap n s
  | .tret => Sys2Proof.Machine.execTret s
  | .tretNext => Sys2Proof.Machine.execTretNext s
  | .tlbiAsid b => Sys2Proof.Machine.execTlbiAsid b s
  | .tlbiPage a b => Sys2Proof.Machine.execTlbiPage a b s
  | .tlbiAll => Sys2Proof.Machine.execTlbiAll s
  | .pgdone d a b => Sys2Proof.Machine.execPgdone d a b s
  | .gstop d => Sys2Proof.Machine.execGstop d s
  | .gstopGo d => Sys2Proof.Machine.execGstopGo d s
  | .brk => Sys2Proof.Machine.execBrk s
  | .deferredEncoding w => Sys2Proof.Machine.execDeferredEncoding w s
  | .cmpqWrite a => Sys2Proof.Machine.execCmpqWrite a s
  | .rmodeWrite a => Sys2Proof.Machine.execRmodeWrite a s
  | .bvmodeWrite a => Sys2Proof.Machine.execBvmodeWrite a s
  | .preempt a => Sys2Proof.Machine.execPreempt a s
  | .blkcmdThaw blk => Sys2Proof.Machine.execBlkcmdThaw blk s
  | .blkcmdRevive blk => Sys2Proof.Machine.execBlkcmdRevive blk s
  | .ptcommit a => Sys2Proof.Machine.execPtcommit a s
  | .dbgctlHalt a => Sys2Proof.Machine.execDbgctlHalt a s
  | .hostirq a => Sys2Proof.Machine.execHostirq a s
  | .pwrlimWrite a => Sys2Proof.Machine.execPwrlimWrite a s
  | .nbpost dir a => Sys2Proof.Machine.execNbpost dir a s
  | .cwgo a => Sys2Proof.Machine.execCwgo a s
  | .cmapvalWrite a => Sys2Proof.Machine.execCmapvalWrite a s
  | .fabcmdOpen estate => Sys2Proof.Machine.execFabcmdOpen estate s
  | .fabcmdClose estate addr => Sys2Proof.Machine.execFabcmdClose estate addr s
  | .routeImageRead estate bad => Sys2Proof.Machine.execRouteImageRead estate bad s
  | .reconfigQuiesceEnd estate => Sys2Proof.Machine.execReconfigQuiesceEnd estate s
  | .drainMarker l vc => Sys2Proof.Machine.execDrainMarker l vc s
  | .reconfigDark estate => Sys2Proof.Machine.execReconfigDark estate s
  | .linkTrainComplete estate rs => Sys2Proof.Machine.execLinkTrainComplete estate rs s
  | .flitReceive l flit lost => Sys2Proof.Machine.execFlitReceive l flit lost s
  | .resendRequest l lseq => Sys2Proof.Machine.execResendRequest l lseq s
  | .cumulativeAck l lseq => Sys2Proof.Machine.execCumulativeAck l lseq s
  | .allowanceReturn l vc n => Sys2Proof.Machine.execAllowanceReturn l vc n s
  | .fecWindowEnd l rx lane count => Sys2Proof.Machine.execFecWindowEnd l rx lane count s
  | .laneLoss l rx lane codeword => Sys2Proof.Machine.execLaneLoss l rx lane codeword s
  | .laneRejoin l rx lane => Sys2Proof.Machine.execLaneRejoin l rx lane s
  | .linkDown l => Sys2Proof.Machine.execLinkDown l s
  | .packageFailure estate reported => Sys2Proof.Machine.execPackageFailure estate reported s
  | .bankCommitInsertions pid idx ids => Sys2Proof.Machine.execBankCommitInsertions pid idx ids s
  | .sluiceDecision pid idx => Sys2Proof.Machine.execSluiceDecision pid idx s
  | .polderRequestServe pid idx ids => Sys2Proof.Machine.execPolderRequestServe pid idx ids s
  | .firingDispatch pid idx => Sys2Proof.Machine.execFiringDispatch pid idx s
  | .firingStart core => Sys2Proof.Machine.execFiringStart core s
  | .blockFiringStart blk => Sys2Proof.Machine.execBlockFiringStart blk s
  | .fieldFiringStart pid estate die => Sys2Proof.Machine.execFieldFiringStart pid estate die s
  | .coresideSetStart pid rule => Sys2Proof.Machine.execCoresideSetStart pid rule s
  | .fetchLine core ctx bad => Sys2Proof.Machine.execFetchLine core ctx bad s
  | .insertionSend core id => Sys2Proof.Machine.execInsertionSend core id s
  | .insertionRetry core id => Sys2Proof.Machine.execInsertionRetry core id s
  | .insertionAck core id => Sys2Proof.Machine.execInsertionAck core id s
  | .polderFullReport pid idx => Sys2Proof.Machine.execPolderFullReport pid idx s
  | .roundClose pid => Sys2Proof.Machine.execRoundClose pid s
  | .leveeSample pid => Sys2Proof.Machine.execLeveeSample pid s
  | .barrierWatchdog pid blk estate field bar => Sys2Proof.Machine.execBarrierWatchdog pid blk estate field bar s
  | .inletTileWrite pid off bytes tile relaxed => Sys2Proof.Machine.execInletTileWrite pid off bytes tile relaxed s
  | .inletPayloadWrite pid off data => Sys2Proof.Machine.execInletPayloadWrite pid off data s
  | .inletApertureRead pid off len => Sys2Proof.Machine.execInletApertureRead pid off len s
  | .inletInsert pid => Sys2Proof.Machine.execInletInsert pid s
  | .inletAccept pid core id => Sys2Proof.Machine.execInletAccept pid core id s
  | .postArrival id => Sys2Proof.Machine.execPostArrival id s
  | .postSend id => Sys2Proof.Machine.execPostSend id s
  | .heldPostApply core x => Sys2Proof.Machine.execHeldPostApply core x s
  | .mailboxOverrunReport core => Sys2Proof.Machine.execMailboxOverrunReport core s
  | .overflowPostResend id => Sys2Proof.Machine.execOverflowPostResend id s
  | .rldReply id => Sys2Proof.Machine.execRldReply id s
  | .loadReply id => Sys2Proof.Machine.execLoadReply id s
  | .lateReply id => Sys2Proof.Machine.execLateReply id s
  | .remoteRequestTimeout id => Sys2Proof.Machine.execRemoteRequestTimeout id s
  | .tagQuarantineEnd core tag => Sys2Proof.Machine.execTagQuarantineEnd core tag s
  | .loadPerform id => Sys2Proof.Machine.execLoadPerform id s
  | .storeArrival id => Sys2Proof.Machine.execStoreArrival id s
  | .weirResend id => Sys2Proof.Machine.execWeirResend id s
  | .storeAck id => Sys2Proof.Machine.execStoreAck id s
  | .closeMarkerCommit id => Sys2Proof.Machine.execCloseMarkerCommit id s
  | .weirEntryTimeout core ctx stream unit => Sys2Proof.Machine.execWeirEntryTimeout core ctx stream unit s
  | .storeFailureNotice id => Sys2Proof.Machine.execStoreFailureNotice id s
  | .releaseSend id => Sys2Proof.Machine.execReleaseSend id s
  | .atomicPerform id => Sys2Proof.Machine.execAtomicPerform id s
  | .rolloverSweepComplete level unit => Sys2Proof.Machine.execRolloverSweepComplete level unit s
  | .pageWalkComplete id bad => Sys2Proof.Machine.execPageWalkComplete id bad s
  | .swapThresholdExpiry blk => Sys2Proof.Machine.execSwapThresholdExpiry blk s
  | .swapOut blk => Sys2Proof.Machine.execSwapOut blk s
  | .shadowSwitchComplete blk => Sys2Proof.Machine.execShadowSwitchComplete blk s
  | .imageValid blk => Sys2Proof.Machine.execImageValid blk s
  | .spillFailure blk => Sys2Proof.Machine.execSpillFailure blk s
  | .readmission blk => Sys2Proof.Machine.execReadmission blk s
  | .resize pid r => Sys2Proof.Machine.execResize pid r s
  | .fieldMove pid estate field die => Sys2Proof.Machine.execFieldMove pid estate field die s
  | .copyCommandStart core id => Sys2Proof.Machine.execCopyCommandStart core id s
  | .copyPiece core id bad => Sys2Proof.Machine.execCopyPiece core id bad s
  | .copyCommandComplete core id => Sys2Proof.Machine.execCopyCommandComplete core id s
  | .linkedMmacHandover core id => Sys2Proof.Machine.execLinkedMmacHandover core id s
  | .matrixGrant blk => Sys2Proof.Machine.execMatrixGrant blk s
  | .matrixStepEnd blk => Sys2Proof.Machine.execMatrixStepEnd blk s
  | .mmacFinish blk => Sys2Proof.Machine.execMmacFinish blk s
  | .mstCapture core acc => Sys2Proof.Machine.execMstCapture core acc s
  | .mstComplete core acc => Sys2Proof.Machine.execMstComplete core acc s
  | .semaphoreCycle core => Sys2Proof.Machine.execSemaphoreCycle core s
  | .supervisorNotice pid => Sys2Proof.Machine.execSupervisorNotice pid s
  | .fence blk cause => Sys2Proof.Machine.execFence blk cause s
  | .fencePropagate blk => Sys2Proof.Machine.execFencePropagate blk s
  | .uncorrectableError core what n => Sys2Proof.Machine.execUncorrectableError core what n s
  | .haltArrival core => Sys2Proof.Machine.execHaltArrival core s
  | .powerThrottle estate on => Sys2Proof.Machine.execPowerThrottle estate on s
  | .coldReset bad => Sys2Proof.Machine.execColdReset bad s
  | .warmReset => Sys2Proof.Machine.execWarmReset s
  | .cxlPortTrain estate port size reduced => Sys2Proof.Machine.execCxlPortTrain estate port size reduced s
  | .causewayLine core => Sys2Proof.Machine.execCausewayLine core s
  | .causewayDone core dir => Sys2Proof.Machine.execCausewayDone core dir s
  | .hostCompletion id unsupported data => Sys2Proof.Machine.execHostCompletion id unsupported data s
  | .mgmtSetPowerLimit estate watts => Sys2Proof.Machine.execMgmtSetPowerLimit estate watts s
  | .mgmtReadPower estate => Sys2Proof.Machine.execMgmtReadPower estate s
  | .mgmtCommitPartition estate addr => Sys2Proof.Machine.execMgmtCommitPartition estate addr s
  | .mgmtReadEventRecorder estate die first count => Sys2Proof.Machine.execMgmtReadEventRecorder estate die first count s
  | .mgmtReadAttestation estate => Sys2Proof.Machine.execMgmtReadAttestation estate s
  | .readmissionHoldResend id => Sys2Proof.Machine.execReadmissionHoldResend id s
  | .slotReopenHoldEnd core ctx stream unit => Sys2Proof.Machine.execSlotReopenHoldEnd core ctx stream unit s
  | .imageLineExchange blk => Sys2Proof.Machine.execImageLineExchange blk s
  | .fieldMoveCopyDone pid estate field => Sys2Proof.Machine.execFieldMoveCopyDone pid estate field s
  | .clusterServiceTest estate die cluster pass => Sys2Proof.Machine.execClusterServiceTest estate die cluster pass s
  | .inletGrantChange pid idx entry => Sys2Proof.Machine.execInletGrantChange pid idx entry s
  | .inletSlotAssign pid slot => Sys2Proof.Machine.execInletSlotAssign pid slot s
  | .linkKeyLoad l vc key => Sys2Proof.Machine.execLinkKeyLoad l vc key s

end Sys2Proof.Machine
end

