-- ==== Sys2Proof/Machine/Interlock.lean ====
section
/-! DEFINITION. The operand interlock: registers an instruction reads and writes (R163, R257), and what holds an instruction at
issue or makes it fault there (R58, R63, R258, R259). -/

namespace Sys2Proof.Machine

/-- Registers an instruction names: general and vector ones read, general and vector ones written. -/
structure Uses where
  gr : List Reg := []
  vr : List Reg := []
  gw : List Reg := []
  vw : List Reg := []
deriving DecidableEq, Repr

/-- Vector registers of the data field: one, or an even and odd pair (R262). -/
def OpM.vecs (o : OpM) : List Reg := if o.shape = 1 then [o.data] else [o.data, o.data + 1]

/-- A field an instruction does not name is g0, which is never pending. -/
def usesOf : Instr → Uses
  | .add o => ⟨[o.a, o.b, o.c], [], [o.d], []⟩
  | .sub o => ⟨[o.a, o.b, o.c], [], [o.d], []⟩
  | .mul o => ⟨[o.a, o.b, o.c], [], [o.d], []⟩
  | .mulh o => ⟨[o.a, o.b, o.c], [], [o.d], []⟩
  | .mulhu o => ⟨[o.a, o.b, o.c], [], [o.d], []⟩
  | .div o => ⟨[o.a, o.b, o.c], [], [o.d], []⟩
  | .divu o => ⟨[o.a, o.b, o.c], [], [o.d], []⟩
  | .rem o => ⟨[o.a, o.b, o.c], [], [o.d], []⟩
  | .remu o => ⟨[o.a, o.b, o.c], [], [o.d], []⟩
  | .and o => ⟨[o.a, o.b, o.c], [], [o.d], []⟩
  | .or o => ⟨[o.a, o.b, o.c], [], [o.d], []⟩
  | .xor o => ⟨[o.a, o.b, o.c], [], [o.d], []⟩
  | .andn o => ⟨[o.a, o.b, o.c], [], [o.d], []⟩
  | .shl o => ⟨[o.a, o.b, o.c], [], [o.d], []⟩
  | .shr o => ⟨[o.a, o.b, o.c], [], [o.d], []⟩
  | .sar o => ⟨[o.a, o.b, o.c], [], [o.d], []⟩
  | .rol o => ⟨[o.a, o.b, o.c], [], [o.d], []⟩
  | .min o => ⟨[o.a, o.b, o.c], [], [o.d], []⟩
  | .max o => ⟨[o.a, o.b, o.c], [], [o.d], []⟩
  | .minu o => ⟨[o.a, o.b, o.c], [], [o.d], []⟩
  | .maxu o => ⟨[o.a, o.b, o.c], [], [o.d], []⟩
  | .cset _ o => ⟨[o.a, o.b, o.c], [], [o.d], []⟩
  | .sel o => ⟨[o.a, o.b, o.c], [], [o.d], []⟩
  | .bext o => ⟨[o.a, o.b, o.c], [], [o.d], []⟩
  | .bins o => ⟨[o.a, o.b, o.d], [], [o.d], []⟩
  | .clz o => ⟨[o.a, o.b, o.c], [], [o.d], []⟩
  | .ctz o => ⟨[o.a, o.b, o.c], [], [o.d], []⟩
  | .popc o => ⟨[o.a, o.b, o.c], [], [o.d], []⟩
  | .brev o => ⟨[o.a, o.b, o.c], [], [o.d], []⟩
  | .addi o => ⟨[o.a], [], [o.d], []⟩
  | .subi o => ⟨[o.a], [], [o.d], []⟩
  | .muli o => ⟨[o.a], [], [o.d], []⟩
  | .andi o => ⟨[o.a], [], [o.d], []⟩
  | .ori o => ⟨[o.a], [], [o.d], []⟩
  | .xori o => ⟨[o.a], [], [o.d], []⟩
  | .shli o => ⟨[o.a], [], [o.d], []⟩
  | .shri o => ⟨[o.a], [], [o.d], []⟩
  | .sari o => ⟨[o.a], [], [o.d], []⟩
  | .cseti _ o => ⟨[o.a], [], [o.d], []⟩
  | .movi o => ⟨[], [], [o.d], []⟩
  | .movl o => ⟨[], [], [o.d], []⟩
  | .addl o => ⟨[o.a], [], [o.d], []⟩
  | .andl o => ⟨[o.a], [], [o.d], []⟩
  | .orl o => ⟨[o.a], [], [o.d], []⟩
  | .b _ _ x y _ => ⟨[x, y], [], [], []⟩
  | .call l _ _ => ⟨[], [], [l], []⟩
  | .jr o => ⟨[o.a], [], [], []⟩
  | .callr o => ⟨[o.a], [], [o.d], []⟩
  | .hstart o => ⟨[o.a, o.b], [], [o.d], []⟩
  | .hstop _ => {}
  | .fdone _ => {}
  | .yield _ => {}
  | .fadd o => ⟨[o.a, o.b, o.c], [], [o.d], []⟩
  | .fsub o => ⟨[o.a, o.b, o.c], [], [o.d], []⟩
  | .fmul o => ⟨[o.a, o.b, o.c], [], [o.d], []⟩
  | .fdiv o => ⟨[o.a, o.b, o.c], [], [o.d], []⟩
  | .fsqrt o => ⟨[o.a, o.b, o.c], [], [o.d], []⟩
  | .ffma o => ⟨[o.a, o.b, o.c], [], [o.d], []⟩
  | .ffms o => ⟨[o.a, o.b, o.c], [], [o.d], []⟩
  | .fmin o => ⟨[o.a, o.b, o.c], [], [o.d], []⟩
  | .fmax o => ⟨[o.a, o.b, o.c], [], [o.d], []⟩
  | .fcset _ o => ⟨[o.a, o.b, o.c], [], [o.d], []⟩
  | .fcvt _ o => ⟨[o.a, o.b, o.c], [], [o.d], []⟩
  | .frcp o => ⟨[o.a, o.b, o.c], [], [o.d], []⟩
  | .frsq o => ⟨[o.a, o.b, o.c], [], [o.d], []⟩
  | .fexp2 o => ⟨[o.a, o.b, o.c], [], [o.d], []⟩
  | .flog2 o => ⟨[o.a, o.b, o.c], [], [o.d], []⟩
  | .fclass o => ⟨[o.a, o.b, o.c], [], [o.d], []⟩
  | .fround o => ⟨[o.a, o.b, o.c], [], [o.d], []⟩
  | .vadd o => ⟨[], [o.a, o.b], [], [o.d]⟩
  | .vsub o => ⟨[], [o.a, o.b], [], [o.d]⟩
  | .vmul o => ⟨[], [o.a, o.b], [], [o.d]⟩
  | .vmulh o => ⟨[], [o.a, o.b], [], [o.d]⟩
  | .vfma o => ⟨[], [o.a, o.b, o.c], [], [o.d]⟩
  | .vfms o => ⟨[], [o.a, o.b, o.c], [], [o.d]⟩
  | .vdiv o => ⟨[], [o.a, o.b], [], [o.d]⟩
  | .vsqrt o => ⟨[], [o.a], [], [o.d]⟩
  | .vmin o => ⟨[], [o.a, o.b], [], [o.d]⟩
  | .vmax o => ⟨[], [o.a, o.b], [], [o.d]⟩
  | .vand o => ⟨[], [o.a, o.b], [], [o.d]⟩
  | .vor o => ⟨[], [o.a, o.b], [], [o.d]⟩
  | .vxor o => ⟨[], [o.a, o.b], [], [o.d]⟩
  | .vandn o => ⟨[], [o.a, o.b], [], [o.d]⟩
  | .vshl o => ⟨[], [o.a, o.b], [], [o.d]⟩
  | .vshr o => ⟨[], [o.a, o.b], [], [o.d]⟩
  | .vsar o => ⟨[], [o.a, o.b], [], [o.d]⟩
  | .vcmp _ o => ⟨[], [o.a, o.b], [], []⟩
  | .vsel o => ⟨[], [o.a, o.b], [], [o.d]⟩
  | .vcvt _ _ o => ⟨[], [o.a], [], [o.d]⟩
  | .vrcp o => ⟨[], [o.a], [], [o.d]⟩
  | .vrsq o => ⟨[], [o.a], [], [o.d]⟩
  | .vexp2 o => ⟨[], [o.a], [], [o.d]⟩
  | .vlog2 o => ⟨[], [o.a], [], [o.d]⟩
  | .vbcst o => ⟨[o.a], [], [], [o.d]⟩
  | .vmovi o => ⟨[], [], [], [o.d]⟩
  | .vshuf o => ⟨[], [o.a, o.b, o.c], [], [o.d]⟩
  | .vperm _ o => ⟨[], [o.a], [], [o.d]⟩
  | .vslideDn o => ⟨[o.c], [o.a, o.b], [], [o.d]⟩
  | .vslideUp o => ⟨[o.c], [o.a, o.b], [], [o.d]⟩
  | .vredAdd o => ⟨[], [o.a], [], [o.d]⟩
  | .vredMin o => ⟨[], [o.a], [], [o.d]⟩
  | .vredMax o => ⟨[], [o.a], [], [o.d]⟩
  | .vredAnd o => ⟨[], [o.a], [], [o.d]⟩
  | .vredOr o => ⟨[], [o.a], [], [o.d]⟩
  | .vredXor o => ⟨[], [o.a], [], [o.d]⟩
  | .vlut _ o => ⟨[], [o.a], [], [o.d]⟩
  | .ctld o => ⟨[], [o.a], [], []⟩
  | .vpack o => ⟨[], [o.a], [], [o.d]⟩
  | .vunpk _ _ o => ⟨[], [o.a], [], [o.d]⟩
  | .vext o => ⟨[o.b], [o.a], [o.d], []⟩
  | .vins o => ⟨[o.a, o.b], [], [], [o.d]⟩
  | .vcompress o => ⟨[], [o.a], [], [o.d]⟩
  | .vexpand o => ⟨[], [o.a], [], [o.d]⟩
  | .kand _ => {}
  | .kor _ => {}
  | .kxor _ => {}
  | .kandn _ => {}
  | .knot _ => {}
  | .kmovKFromG o => ⟨[o.a], [], [], []⟩
  | .kmovGFromK o => ⟨[], [], [o.d], []⟩
  | .kpopc o => ⟨[], [], [o.d], []⟩
  | .kseti _ => {}
  | .vmov o => ⟨[], [o.a], [], [o.d]⟩
  | .ld o => ⟨[o.base, o.index], [], [o.data], []⟩
  | .st o => ⟨[o.data, o.base, o.index], [], [], []⟩
  | .vld o => ⟨[o.base, o.index], [], [], OpM.vecs o⟩
  | .vst o => ⟨[o.base, o.index], OpM.vecs o, [], []⟩
  | .stm o => ⟨[o.data, o.base, o.index], [], [], []⟩
  | .vstm o => ⟨[o.base, o.index], OpM.vecs o, [], []⟩
  | .vgat o => ⟨[o.base], [o.index], [], [o.data]⟩
  | .vsct o => ⟨[o.base], [o.index, o.data], [], []⟩
  | .pref o => ⟨[o.base, o.index], [], [], []⟩
  | .sclose _ => {}
  | .amoAdd o => ⟨[o.base, o.index], [], [o.data], []⟩
  | .amoAnd o => ⟨[o.base, o.index], [], [o.data], []⟩
  | .amoOr o => ⟨[o.base, o.index], [], [o.data], []⟩
  | .amoXor o => ⟨[o.base, o.index], [], [o.data], []⟩
  | .amoMin o => ⟨[o.base, o.index], [], [o.data], []⟩
  | .amoMax o => ⟨[o.base, o.index], [], [o.data], []⟩
  | .amoSwap o => ⟨[o.base, o.index], [], [o.data], []⟩
  | .amoCas o => ⟨[o.base, o.index, o.data], [], [o.data], []⟩
  | .redAdd o => ⟨[o.base, o.index], [], [], []⟩
  | .redAnd o => ⟨[o.base, o.index], [], [], []⟩
  | .redOr o => ⟨[o.base, o.index], [], [], []⟩
  | .redXor o => ⟨[o.base, o.index], [], [], []⟩
  | .redMin o => ⟨[o.base, o.index], [], [], []⟩
  | .redMax o => ⟨[o.base, o.index], [], [], []⟩
  | .post o => ⟨[o.a, o.b], [], [], []⟩
  | .xget o => ⟨[], [], [o.d], []⟩
  | .xtry o => ⟨[], [], [o.d, o.b], []⟩
  | .xpeek o => ⟨[], [], [o.d, o.b], []⟩
  | .rld o => ⟨[o.base, o.index], [], [], if o.shape = 0 then [] else OpM.vecs o⟩
  | .ins o => ⟨[o.data, o.base, o.index], [], [], []⟩
  | .insGrant o => ⟨[o.data, o.base, o.index], [], [], []⟩
  | .probe o => ⟨[o.a, o.b], [], if o.c = 0 then [o.d] else [o.d, o.c, o.c + 1], []⟩
  | .take o => ⟨[o.a, o.b, o.d], [], [], []⟩
  | .rset o => ⟨[o.a, o.b], [], [o.d], []⟩
  | .rget o => ⟨[o.a, o.b], [], [o.d], []⟩
  | .cpy o => ⟨[o.d, o.a, o.b, o.c], [], [], []⟩
  | .cpyt o => ⟨[o.d, o.a, o.b, o.c], [], [], []⟩
  | .cpySlot o => ⟨[o.d, o.a, o.b, o.c], [], [], []⟩
  | .cpySlotLink o _ _ => ⟨[o.d, o.a, o.b, o.c], [], [], []⟩
  | .cpyDeal o => ⟨[o.d, o.a, o.b, o.c], [], [], []⟩
  | .cpyMc o => ⟨[o.d, o.a, o.b, o.c], [], [], []⟩
  | .cpyStamp o => ⟨[o.d, o.a, o.b, o.c], [], [], []⟩
  | .cpyFill o => ⟨[o.d, o.a, o.b, o.c], [], [], []⟩
  | .cnop _ => {}
  | .mclaim _ => {}
  | .mclaimSh _ => {}
  | .mclaimTry o => ⟨[], [], [o.d], []⟩
  | .mclaimShtry o => ⟨[], [], [o.d], []⟩
  | .mrel _ => {}
  | .mfmt o => ⟨[o.d], [], [], []⟩
  | .mzero _ => {}
  | .mmac _ => {}
  | .mmacSet _ => {}
  | .macc o => ⟨[o.b], [], [o.a], [o.d]⟩
  | .mst o => ⟨[o.d, o.a], [], [], []⟩
  | .swait _ => {}
  | .ssig _ => {}
  | .stry o => ⟨[], [], [o.d], []⟩
  | .smrd o => ⟨[], [], [o.d], []⟩
  | .smset o => ⟨[o.a], [], [], []⟩
  | .bar _ _ => {}
  | .barcfg _ o => ⟨[o.a], [], [o.d], []⟩
  | .wstill o => ⟨[], [], [o.d], []⟩
  | .sget d _ => ⟨[], [], [d], []⟩
  | .sset _ a => ⟨[a], [], [], []⟩
  | .trap _ => {}
  | .tret => {}
  | .tretNext => {}
  | .tlbiAsid b => ⟨[b], [], [], []⟩
  | .tlbiPage a b => ⟨[a, b], [], [], []⟩
  | .tlbiAll => {}
  | .pgdone d a b => ⟨[a, b], [], [d], []⟩
  | .gstop d => ⟨[], [], [d], []⟩
  | .gstopGo d => ⟨[], [], [d], []⟩
  | .brk => {}
  | .deferredEncoding _ => {}
  | .cmpqWrite a => ⟨[a], [], [], []⟩
  | .rmodeWrite a => ⟨[a], [], [], []⟩
  | .bvmodeWrite a => ⟨[a], [], [], []⟩
  | .preempt a => ⟨[a], [], [], []⟩
  | .blkcmdThaw _ => {}
  | .blkcmdRevive _ => {}
  | .ptcommit a => ⟨[a], [], [], []⟩
  | .dbgctlHalt a => ⟨[a], [], [], []⟩
  | .hostirq a => ⟨[a], [], [], []⟩
  | .pwrlimWrite a => ⟨[a], [], [], []⟩
  | .nbpost _ a => ⟨[a], [], [], []⟩
  | .cwgo a => ⟨[a], [], [], []⟩
  | .cmapvalWrite a => ⟨[a], [], [], []⟩
  | .fabcmdOpen _ => {}
  | .fabcmdClose _ _ => {}
  | .routeImageRead _ _ => {}
  | .reconfigQuiesceEnd _ => {}
  | .drainMarker _ _ => {}
  | .reconfigDark _ => {}
  | .linkTrainComplete _ _ => {}
  | .flitReceive _ _ _ => {}
  | .resendRequest _ _ => {}
  | .cumulativeAck _ _ => {}
  | .allowanceReturn _ _ _ => {}
  | .fecWindowEnd _ _ _ _ => {}
  | .laneLoss _ _ _ _ => {}
  | .laneRejoin _ _ _ => {}
  | .linkDown _ => {}
  | .packageFailure _ _ => {}
  | .bankCommitInsertions _ _ _ => {}
  | .sluiceDecision _ _ => {}
  | .polderRequestServe _ _ _ => {}
  | .firingDispatch _ _ => {}
  | .firingStart _ => {}
  | .blockFiringStart _ => {}
  | .fieldFiringStart _ _ _ => {}
  | .coresideSetStart _ _ => {}
  | .fetchLine _ _ _ => {}
  | .insertionSend _ _ => {}
  | .insertionRetry _ _ => {}
  | .insertionAck _ _ => {}
  | .polderFullReport _ _ => {}
  | .roundClose _ => {}
  | .leveeSample _ => {}
  | .barrierWatchdog _ _ _ _ _ => {}
  | .inletTileWrite _ _ _ _ _ => {}
  | .inletPayloadWrite _ _ _ => {}
  | .inletApertureRead _ _ _ => {}
  | .inletInsert _ => {}
  | .inletAccept _ _ _ => {}
  | .postArrival _ => {}
  | .postSend _ => {}
  | .heldPostApply _ _ => {}
  | .mailboxOverrunReport _ => {}
  | .overflowPostResend _ => {}
  | .rldReply _ => {}
  | .loadReply _ => {}
  | .lateReply _ => {}
  | .remoteRequestTimeout _ => {}
  | .tagQuarantineEnd _ _ => {}
  | .loadPerform _ => {}
  | .storeArrival _ => {}
  | .weirResend _ => {}
  | .storeAck _ => {}
  | .closeMarkerCommit _ => {}
  | .weirEntryTimeout _ _ _ _ => {}
  | .storeFailureNotice _ => {}
  | .releaseSend _ => {}
  | .atomicPerform _ => {}
  | .rolloverSweepComplete _ _ => {}
  | .pageWalkComplete _ _ => {}
  | .swapThresholdExpiry _ => {}
  | .swapOut _ => {}
  | .shadowSwitchComplete _ => {}
  | .imageValid _ => {}
  | .spillFailure _ => {}
  | .readmission _ => {}
  | .resize _ _ => {}
  | .fieldMove _ _ _ _ => {}
  | .copyCommandStart _ _ => {}
  | .copyPiece _ _ _ => {}
  | .copyCommandComplete _ _ => {}
  | .linkedMmacHandover _ _ => {}
  | .matrixGrant _ => {}
  | .matrixStepEnd _ => {}
  | .mmacFinish _ => {}
  | .mstCapture _ _ => {}
  | .mstComplete _ _ => {}
  | .semaphoreCycle _ => {}
  | .supervisorNotice _ => {}
  | .fence _ _ => {}
  | .fencePropagate _ => {}
  | .uncorrectableError _ _ _ => {}
  | .haltArrival _ => {}
  | .powerThrottle _ _ => {}
  | .coldReset _ => {}
  | .warmReset => {}
  | .cxlPortTrain _ _ _ _ => {}
  | .causewayLine _ => {}
  | .causewayDone _ _ => {}
  | .hostCompletion _ _ _ => {}
  | .mgmtSetPowerLimit _ _ => {}
  | .mgmtReadPower _ => {}
  | .mgmtCommitPartition _ _ => {}
  | .mgmtReadEventRecorder _ _ _ _ => {}
  | .mgmtReadAttestation _ => {}
  | .readmissionHoldResend _ => {}
  | .slotReopenHoldEnd _ _ _ _ => {}
  | .imageLineExchange _ => {}
  | .fieldMoveCopyDone _ _ _ => {}
  | .clusterServiceTest _ _ _ _ => {}
  | .inletGrantChange _ _ _ => {}
  | .inletSlotAssign _ _ => {}
  | .linkKeyLoad _ _ _ => {}

/-- Registers read, as a reply names them. -/
def Uses.reads (u : Uses) : List RegRef := u.gr.map .g ++ u.vr.map .v
def Uses.writes (u : Uses) : List RegRef := u.gw.map .g ++ u.vw.map .v

/-- An instruction that reads or writes a pending register waits (R257). -/
def Ctx.blocked (x : Ctx) (u : Uses) : Bool := x.pend.any fun p => (u.reads ++ u.writes).contains p.1

/-- The error an instruction meets: a g0 error at any instruction, or that of a register it reads (R258). -/
def Ctx.errorMet (x : Ctx) (u : Uses) : Option (Option RegRef × Word × Word) :=
  x.errs.find? fun e => match e.1 with
    | none => true
    | some r => u.reads.contains r

/-- Number of a register (R373). -/
def RegRef.number : RegRef → Nat
  | .g r => r.toNat
  | .v r => r.toNat

/-- Instructions that are memory accesses. -/
def isAccess : Instr → Bool
  | .ld _ | .st _ | .vld _ | .vst _ | .vgat _ | .vsct _ | .amoAdd _ | .amoAnd _ | .amoOr _ | .amoXor _ | .amoMin _ | .amoMax _
  | .amoSwap _ | .amoCas _ | .redAdd _ | .redAnd _ | .redOr _ | .redXor _ | .redMin _ | .redMax _ | .rld _ => true
  | _ => false

/-- Memory accesses, engine commands, posts and insertions: what an acquire holds back (R260). -/
def acts : Instr → Bool
  | .stm _ | .vstm _ | .pref _ | .post _ | .nbpost .. | .ins _ | .insGrant _ | .probe _ | .take _ | .rset _ | .rget _ => true
  | .cpy _ | .cpyt _ | .cpySlot _ | .cpySlotLink .. | .cpyDeal _ | .cpyMc _ | .cpyStamp _ | .cpyFill _ | .cnop _ => true
  | .mzero _ | .mmac _ | .mmacSet _ | .mst _ => true
  | i => isAccess i

/-- The least level that may execute an instruction (R105, R132, R374 to R387). -/
def needs : Instr → Level
  | .tlbiAsid _ | .tlbiPage .. | .tlbiAll | .pgdone .. | .gstop _ | .gstopGo _ | .hostirq _ | .rset _ => .sup
  | .preempt _ | .ptcommit _ | .pwrlimWrite _ | .nbpost .. | .cwgo _ | .cmapvalWrite _ => .fw
  | _ => .app

/-- What stands between a fetched instruction and its meaning. -/
inductive Gate where
  | go
  | wait
  | fault (code : Nat) (info : Info)
deriving DecidableEq, Repr

/-- The gate of the context at issue (R257 to R260). -/
def State.gate (s : State) (i : Instr) : Gate :=
  let x := s.me
  let u := usesOf i
  if acts i && !x.holdOn.isEmpty then .wait
  else match x.owed with
    | some o => .fault o.code o.info
    | none =>
      if s.doomed s.cur.1 s.cur.2 || s.fabricWaits s.cur.1 s.cur.2 then .wait
      else if x.blocked u then .wait
      else match x.errorMet u with
        | some (r, w, a) =>
          let (code, info) := remoteFault w a (match r with
            | some r => r.number
            | none => 0)
          .fault code info
        | none => .go

/-- A fault at the gate: what was owed is delivered; a g0 error is reported once (R258). -/
def State.gateFault (s : State) (code : Nat) (info : Info) : State :=
  (s.modMe fun x => { x with owed := none, errs := x.errs.filter fun e => e.1.isSome }).raise code info

end Sys2Proof.Machine
end

