-- ==== Sys2Proof/Machine/Issue.lean ====
section
/-! DEFINITION. One turn of the machine: fetching and issuing an instruction of a context (R58, R59), an agent's act, and which
agent moves when no turn is waiting. -/

namespace Sys2Proof.Machine

/-! ## Contexts that may issue -/

/-- The core is in the machine and healthy, and its block has not stopped for a swap (R67, R412). -/
def State.coreRuns (s : State) (c : CoreId) : Bool :=
  (match s.place c with
    | some q => (s.physCore q).healthy
    | none => false)
  && !s.isFenced c && !s.swapping c

/-- Ready, not Halted, and with no request kept to a round's close (R47, R67, R328, R379, R382). -/
def State.canIssue (s : State) (c : CoreId) (n : Nat) : Bool :=
  (s.ctx c n).run == .ready && !s.isHalted c n && s.coreRuns c && !s.keptRequest c n && !(s.estate c.estate).recovery

/-! ## Issue -/

def onNext (f : State → State) : Out → Out
  | .next s => .next (f s)
  | r => r

/-- Is an instruction of class 0x3 or 0x4, the vector slot's (R59)? -/
def vectorWord (w : Word) : Bool := majorOf w / 16 == 3 || majorOf w / 16 == 4

/-- A context that STEP let run has issued one instruction and halts again (R383). -/
def State.endStep (s : State) (c : CoreId) (n : Nat) : State :=
  if (s.core c).stepping.contains n then
    s.modCore c fun k => { k with stepping := k.stepping.filter (· != n), halted := addTo n k.halted
                                  dbgctl := k.dbgctl ||| BitVec.ofNat 64 (2 ^ n) }
  else s

/-- After an issue: the context's claim begins anew in the next cycle, but after a `yield`; contexts that had yielded to it count
it (R59, R363). -/
def State.afterIssue (s : State) (c : CoreId) (n : Nat) (words : List Word) (yielded : Bool) : State :=
  match (s.ctx c n).run with
  -- it waits, or its fetch has parked it (R223): nothing has issued
  | .stalled | .parked => s
  | _ =>
    let s := if yielded then s else s.modCtx c n fun x => { x with since := s.cycle + 1, yieldFor := [] }
    let s := s.modCore c fun k => { k with ctxs := k.ctxs.map fun p =>
      if (p.1 != n && p.2.yieldFor.contains n) = true then
        let left := p.2.yieldFor.filter (· != n)
        (p.1, { p.2 with yieldFor := left, since := if left.isEmpty then min p.2.since s.cycle else p.2.since })
      else p }
    let s := s.endStep c n
    match s.place c with
    | none => s
    | some q => s.modPhys q fun x =>
      let i := if vectorWord (words.getD 0 0) then 1 else 0
      { x with perf := x.perf.set i (x.perf.get 0 i + 1) }

/-- Instructions that end the exemption of the designated control context (R429). -/
def makesWork : Instr → Bool
  | .ins _ | .insGrant _ | .post _ | .hstart _ | .ssig _ | .smset _ | .bar .. => true
  | .cpy _ | .cpyt _ | .cpySlot _ | .cpySlotLink .. | .cpyDeal _ | .cpyMc _ | .cpyStamp _ | .cpyFill _ | .cnop _ => true
  | .mclaim _ | .mclaimSh _ | .mclaimTry _ | .mclaimShtry _ | .mrel _ | .mfmt _ | .mzero _ | .mmac _ | .mmacSet _ | .macc _
  | .mst _ => true
  | _ => false

/-- The instruction at issue in `s` has issued in `t`: it does not wait there, and has raised no fault. -/
def State.hasIssued (s t : State) : Bool :=
  let x := t.ctx s.cur.1 s.cur.2
  x.run != .stalled && x.busyA == s.me.busyA && x.busyS == s.me.busyS && x.busyF == s.me.busyF && !t.isFenced s.cur.1

/-- Once it has issued such an instruction the designated control context is exempt no more, and its lane is busy from there (R42,
R357, R429). -/
def State.endExempt (s : State) (i : Instr) (t : State) : State :=
  if s.me.exempt && makesWork i && s.hasIssued t then
    (t.modCtx s.cur.1 s.cur.2 fun x => { x with exempt := false }).disturb s.pid
  else t

/-- An instruction whose words are known and whose gate is passed. -/
def State.execute (s : State) (i : Instr) : Out := onNext (s.endExempt i) (exec i s)

/-- The context's level may not execute the instruction (R105 step 4). -/
def State.tooLow (s : State) (i : Instr) : Bool :=
  decide (s.me.level.code < (needs i).code) || match i with
    | .sget _ n => !s.mayUse n.toNat
    | .sset n _ => !s.mayUse n.toNat
    | .cmpqWrite _ => !s.mayUse 0x012
    | .rmodeWrite _ => !s.mayUse 0x005
    | .bvmodeWrite _ => !s.mayUse 0x100
    | .dbgctlHalt _ => !s.mayUse 0xF10
    | _ => false

/-- A decoded instruction at the context at issue: its privilege, the gate, then its meaning (R105, R257 to R259). -/
def State.issueInstr (s : State) (i : Instr) : Out :=
  if s.tooLow i then .next (s.raise 0x02)
  else match s.gate i with
  | .go => s.execute i
  | .wait => .next s.stall
  | .fault code info => .next (s.gateFault code info)

/-- The words fetched are an instruction, or raise the illegal-instruction fault (R102, R105). -/
def State.issueWords (s : State) (ws : List Word) : Out :=
  match decode (wordBytes ws) with
  | .ok (i, _) => s.issueInstr i
  | .error _ => .next (s.raise 0x01)

/-- Fetch at the context's PC and issue (R58, R63, R118). -/
def State.issueCur (s : State) : Out :=
  let c := s.cur.1
  let pc := s.me.pc
  if s.verdictDue c s.cur.2 then .next s.stall
  else match s.fetchInstr c s.cur.2 pc with
  | .words ws s1 => { s1 with words := ws }.issueWords ws
  | .park va p mig s1 => .next ({ s1 with words := [] }.parkOn c s.cur.2 va 2 p mig)
  | .fault cause level w s1 => .next ({ s1 with words := [] }.raise 0x04 (fetchInfo pc cause level w))
  | .wait s1 => .next s1.stall

def isYield : Instr → Bool
  | .yield _ => true
  | _ => false

/-- The words at issue are a `yield`. -/
def State.yielded (s : State) : Bool :=
  match decode (wordBytes s.words) with
  | .ok (i, _) => isYield i
  | .error _ => false

/-! ## After a turn -/

/-- The instruction that a context stands at would issue now: its operands and answers are there, and it has the room it needs. -/
def State.wouldIssue (s : State) (c : CoreId) (n : Nat) : Bool :=
  match (({ s with cur := (c, n) } : State).modMe fun x => { x with run := .ready }).issueCur with
  | .next t => (t.ctx c n).run != .stalled
  | _ => true

/-- Contexts that waited at issue and need not any more are Ready (R47, R59, R257). -/
def State.unstall (s : State) : State :=
  let ctxs (c : CoreId) (k : Core) : Map Nat Ctx := k.ctxs.map fun x =>
    if x.2.run = .stalled ∧ s.wouldIssue c x.1 = true then (x.1, { x.2 with run := .ready, since := max x.2.since s.cycle })
    else x
  { s with cores := s.cores.map fun k => (k.1, { k.2 with ctxs := ctxs k.1 k.2 }) }

/-- What follows from a turn at once: fences take effect (R379), cut messages are abandoned (R402), packets
enter the links (R396), firings retire (R51), queue
heads are offered to contexts (R55), park times run (R66), a lane that is busy disturbs stability (R357), and waits at issue end
(R257). -/
def State.afterTurn (s : State) : State :=
  let s := s.finishFences.abandon.wire.retireFirings.offer.timeParks
  (s.activeParts.foldl State.watch s).unstall

/-- Time passes: one cycle, and as many more as the other agents take (log 6). -/
def State.tick (s : State) : State :=
  let (k, s) := s.useFresh
  { s with cycle := s.cycle + 1 + Config.delay k }.afterTurn

/-- What follows an issue: the context's claim, and a cycle. -/
def State.issued (s : State) (c : CoreId) (n : Nat) : State := (s.afterIssue c n s.words s.yielded).tick

/-! ## The issue slots (R59) -/

/-- Does the context's next instruction belong to the vector slot? One that cannot be fetched belongs to the scalar slot. -/
def State.vectorNext (s : State) (c : CoreId) (n : Nat) : Bool :=
  match s.fetchInstr c n (s.ctx c n).pc with
  | .words ws _ => vectorWord (ws.getD 0 0)
  | _ => false

/-- `PickSlot` of R59. -/
def State.pickSlot (s : State) (c : CoreId) (vector : Bool) : Option Nat :=
  let cands := (List.range 11).filter fun n => s.canIssue c n && s.vectorNext c n == vector
  match cands with
  | [] => none
  | n :: ns =>
    let t := ns.foldl (fun t m => min t (s.ctx c m).since) (s.ctx c n).since
    let old := cands.filter fun m => (s.ctx c m).since == t
    let ptr := if vector then (s.core c).rotV else (s.core c).rotS
    if old.contains 0 then some 0
    else ((List.range 10).map fun i => (ptr - 1 + i) % 10 + 1).find? fun m => old.contains m

/-- After a pick the rotation pointer moves (R59). -/
def State.turnPointer (s : State) (c : CoreId) (n : Nat) (vector : Bool) : State :=
  if n = 0 then s
  else s.modCore c fun k => if vector then { k with rotV := n % 10 + 1 } else { k with rotS := n % 10 + 1 }

/-- The context issues from its slot; where it has to wait it was no candidate, and the pointer stays. -/
def State.issueFrom (s : State) (c : CoreId) (n : Nat) (vector : Bool) : Out :=
  onNext (fun t => (if (t.ctx c n).run = .stalled then t else t.turnPointer c n vector).issued c n)
    ({ s with cur := (c, n) } : State).issueCur

/-- A turn of an issue slot: the context it picks. -/
def State.slotTurn (s : State) (c : CoreId) (vector : Bool) : Out :=
  match s.pickSlot c vector with
  | none => .next s.tick
  | some n => s.issueFrom c n vector

/-- A turn of a context: nothing where its slot does not pick it. -/
def State.issueTurn (s : State) (c : CoreId) (n : Nat) : Out :=
  let vector := s.vectorNext c n
  if s.pickSlot c vector = some n then s.issueFrom c n vector else .next s.tick

/-! ## Turns -/

/-- A step of an agent that is no instruction word. -/
def isEvent (i : Instr) : Bool := (encode i).isEmpty

/-- The next act of a request to the Polder (R326, R327). -/
def State.requestTurn (s : State) (id : Nat) (m : Msg) : Out :=
  match m.stage with
  | .sent => execPolderRequestServe m.core.pid (s.homeOf m.core.pid (m.bankKey.getD 0)) [id] s
  | .done _ => if m.detached then execLateReply id s else execLoadReply id s
  | _ => .next s

/-- The next act of a message. -/
def State.msgTurn (s : State) (id : Nat) (m : Msg) : Out :=
  match m.stage, m.body with
  | _, .probe .. => s.requestTurn id m
  | _, .take .. => s.requestTurn id m
  | .walk, _ => execPageWalkComplete id false s
  | .unsent, .post .. => execPostSend id s
  | .unsent, _ => execReleaseSend id s
  | .sent, _ => s.arrival id m
  | .held, .access .. => execStoreArrival id s
  | .refused _, .post .. => execOverflowPostResend id s
  | .refused _, .access a _ => if a.kind.isStore then execWeirResend id s else execReadmissionHoldResend id s
  | .refused _, _ => execReadmissionHoldResend id s
  | .done 0, .post .. => execStoreAck id s
  | .done _, .close .. => execStoreAck id s
  | .done e, .access a _ =>
    if m.detached then execLateReply id s
    else (match a.kind with
      | .load | .amo .. => execLoadReply id s
      | .rld => execRldReply id s
      | _ => if e = 0 then execStoreAck id s else execStoreFailureNotice id s)
  | .done _, .post .. => execStoreFailureNotice id s
  | _, _ => .next s

def State.turn (s : State) : Turn → Out
  | .issue c n => s.issueTurn c n
  | .slot c v => s.slotTurn c v
  | .event i => if isEvent i then onNext State.tick (exec i s) else .next s.tick
  | .msg id => match Map.get? s.msgs id with
    | some m => onNext State.tick (s.msgTurn id m)
    | none => .next s.tick
  | .fatal c n => .next (s.fatal c n).tick
  | .compat c n => .next (s.endCompat c n).tick
  | .debug c n w => .next (s.debugWrite c n w).tick
  | .corrected e d => .next (s.modDie (e, d) fun x => { x with eccfix := satInc x.eccfix }).tick
  | .spdm e b => .next (s.modEstate e fun x => { x with session := b }).tick
  | .barRead e n off => .next (s.barRead e n off).tick
  | .hostWrite e off bs => .next (s.hostWrite e off bs).tick
  | .align e n => .next (if (s.tbaseOf e).toNat + n < 2 ^ 64 then
      s.modEstate e fun x => { x with tbase := x.tbase + BitVec.ofNat 64 n } else s).tick

/-! ## With an empty agenda the agents go round (log 3) -/

/-- Issue slots that have a candidate; those of the core that issued last come first. -/
def State.issueActs (s : State) : List (State → Out) :=
  let slots (c : CoreId) : List (State → Out) := [false, true].filterMap fun v =>
    if (s.pickSlot c v).isSome then some fun s => s.slotTurn c v else none
  slots s.cur.1 ++ s.cores.flatMap fun p => if p.1 = s.cur.1 then [] else slots p.1

/-- Messages and insertions. -/
def State.sendActs (s : State) : List (State → Out) :=
  (s.msgs.map fun m s => s.msgTurn m.1 m.2)
  ++ s.inserts.filterMap fun x => match x.2.stage with
    | .waiting => some (execInsertionSend x.2.core x.1)
    | .refused _ => some (execInsertionRetry x.2.core x.1)
    | .done => some (execInsertionAck x.2.core x.1)
    | .sent => some (match x.2.home with
      | some i => execBankCommitInsertions x.2.pid i [x.1]
      | none => execInletAccept x.2.pid x.2.core x.1)
    | _ => none

/-- Engines, semaphores, mailboxes and queues of a core that runs. -/
def State.coreActs (s : State) (c : CoreId) : List (State → Out) :=
  let k := s.core c
  if s.isFenced c ∨ s.isResident c = false then []
  else
    (if k.sigs.isEmpty && k.cmds.isEmpty && k.mreqs.isEmpty && !k.swaitDue then [] else [execSemaphoreCycle c])
    ++ (if k.hold.isEmpty then [] else (k.hold.map fun h => execHeldPostApply c h.x) ++ [execMailboxOverrunReport c])
    ++ (k.cmds.map fun x =>
        if x.2.handing then execLinkedMmacHandover c x.1
        else if x.2.ended then execCopyCommandComplete c x.1
        else if x.2.running then execCopyPiece c x.1 false
        else execCopyCommandStart c x.1)
    ++ (k.mreqs.filterMap fun r => match r.op with
        | .st .. => some (if r.ended then execMstComplete c r.acc else execMstCapture c r.acc)
        | _ => none)
    ++ (k.quarantine.map fun q => execTagQuarantineEnd c q.1)
    ++ (if s.firings.isEmpty then [] else [execFiringStart c])
    ++ (if (s.part c.pid).stopped.isSome then [execHaltArrival c] else [])
    ++ (match c with
        | .phys .. => if k.cwImage.isSome || !k.cwq.isEmpty then
            execCausewayLine c :: [0, 1, 2, 3].map fun d => execCausewayDone c (BitVec.ofNat 2 d) else []
        | .virt .. => [])

/-- A block's matrix arbiter, barriers and swaps. -/
def State.blockActs (b : BlockId) : List (State → Out) :=
  [execMatrixGrant b, execMatrixStepEnd b, execMmacFinish b, execBlockFiringStart b, execSwapThresholdExpiry b, execSwapOut b,
   execShadowSwitchComplete b, execImageValid b, execImageLineExchange b, execReadmission b]

/-- A partition's banks, scheduler, Levee and supervisor. -/
def State.partActs (s : State) (p : Nat) : List (State → Out) :=
  let live := s.activeParts.contains p
  if !live then []
  else
    ((s.bankIdx p).flatMap fun i => [execSluiceDecision p i, execFiringDispatch p i, execPolderFullReport p i])
    ++ ((s.firings.filterMap fun f => match f.2.place with
        | .die d => if f.2.pid = p then some d else none
        | _ => none).dedup.map fun d => execFieldFiringStart p d.1 d.2)
    ++ ((s.firings.filterMap fun f => if f.2.place = .coreside ∧ f.2.pid = p then some f.2.rule else none).dedup.map fun r =>
        execCoresideSetStart p r)
    ++ [execLeveeSample p, execRoundClose p, execInletInsert p, execSupervisorNotice p]
    ++ (((s.barriersOf p).filter s.starving).map fun k => match k with
        | .blk b i => execBarrierWatchdog p (some b) 0 0 i
        | .fld _ e f i => execBarrierWatchdog p none e f i)
    ++ ((s.part p).moving.map fun m => execFieldMoveCopyDone p m.1.1 m.1.2)

/-- What comes over a link: the next flit that is out, a control flit when the far end has something to tell, and its drain markers
behind what it has sent (R392 to R394, R398, R400). -/
def State.linkActs (s : State) (l : LinkId) (k : Link) : List (State → Out) :=
  match s.farOf l with
  | none => []
  | some f =>
    let far := s.linkOf f
    let tells := far.ask || !far.taken.isEmpty || (match k.replay.head? with
      | some x => x.seq != far.rxSeq
      | none => false) || (k.inService false).any fun n => !far.keeps.contains n
    let marks (v : Nat) : Bool := !k.markers.contains v && !(far.sendq.any fun p => p.vc == v)
      && !((far.unaccepted k.rxSeq).any fun x => x.pkt.vc == v)
    (match far.replay.find? (·.out) with
      | some x => [execFlitReceive l (x.arrives (k.inService true)) []]
      | none => [])
    ++ (if tells then [execFlitReceive l far.controlFlit []] else [])
    ++ (if (s.estate l.estate).phase = 2 ∧ 2 ≤ (s.estate f.estate).phase then
        ([0, 1, 2, 3].filter marks).map fun v => execDrainMarker l (BitVec.ofNat 2 v) else [])

/-- Estates under a circuit reconfiguration, and links in use. -/
def State.estateActs (s : State) : List (State → Out) :=
  ((s.estates.filter fun e => e.2.phase != 0).flatMap fun e =>
    [execReconfigQuiesceEnd e.1, execReconfigDark e.1, execRouteImageRead e.1 false])
  ++ s.estates.flatMap fun e => e.2.links.flatMap fun k => s.linkActs { estate := e.1, link := k.1 } k.2

/-- Every agent of the machine that may act; what comes from outside comes by the agenda. -/
def State.agentActs (s : State) : List (State → Out) :=
  s.sendActs ++ (Map.keys s.cores).flatMap s.coreActs ++ (Map.keys s.blocks).flatMap State.blockActs
    ++ (Map.keys s.parts).flatMap s.partActs ++ s.estateActs

def State.autoActs (s : State) : List (State → Out) :=
  s.issueActs ++ s.agentActs.map fun f s => onNext State.tick (f s)

/-- A physical core that no turn has touched since reset, in boot mode as all are (R412): each gets its turns. -/
def bootCoreOf (n : Nat) : CoreId := .phys (n / 8192 % 64) (n / 1024 % 8) (n % 1024)

/-- The turn of the rotation; the last place in it is the untouched cores', one after another. -/
def State.autoTurn (s : State) : Out :=
  let fs := s.autoActs
  (fs.getD (s.fresh % (fs.length + 1)) fun s => s.slotTurn (bootCoreOf (s.fresh / (fs.length + 1))) false) s

/-- One step of the machine: the agenda's first turn, or one the rotation gives (log 2, log 3); what it changes of a block out of the
machine is in that block's image too (R67, R70). -/
def State.stepTurn (s : State) : Out :=
  onNext s.mirrorFrom (match s.agenda with
  | t :: ts => ({ s with agenda := ts } : State).turn t
  | [] => s.autoTurn)

/-- The agenda gives the turn to a core of a package in recovery, which runs nothing (R419). -/
def State.barred (s : State) : Bool :=
  match s.agenda with
  | .issue c _ :: _ => (s.estate c.estate).recovery
  | .slot c _ :: _ => (s.estate c.estate).recovery
  | _ => false

/-! ## Placing an instruction -/

/-- Where the context at issue fetches. -/
def State.fetchLoc (s : State) : Option Nat :=
  match s.xlate s.cur.1 .fetch s.me.pc.toNat with
  | .ok e pa _ => some (physLoc e pa)
  | _ => none

/-- The words of an instruction given as one number, first word lowest, stored where the context at issue fetches; its turn
is next. -/
def State.placeWord (s : State) (w : Nat) : State :=
  match s.fetchLoc with
  | some loc => { s.pokeBytes loc (leBytes 32 w) with agenda := [.issue s.cur.1 s.cur.2] }
  | none => s

end Sys2Proof.Machine
end

