-- ==== Sys2Proof/Machine/Step.lean ====
section
/-! DEFINITION. One step of the machine, and an instruction placed where it fetches. -/

namespace Sys2Proof.Machine

/-- One step; a package in recovery runs nothing (R419). -/
def step (s : State) : Host.Outcome State Fault Refusal := if s.barred then .fault .recovery else s.stepTurn

/-- The state with an instruction of `nbits` bits stored where step fetches next; the bits above `nbits` are zero. -/
def State.withFetchWord (s : State) (nbits w : Nat) : State := s.placeWord (w % 2 ^ nbits)

end Sys2Proof.Machine
end

