-- ==== Sys2Proof/Safety.lean ====
section
/-! DEFINITION. The terms of the claims: safe steps, what every step keeps, and frames: what an instruction leaves as it was. -/

namespace Sys2Proof.Safety

open Sys2Proof.Machine

/-- The outcome is a next state: no fault and no refusal. -/
def Completes (o : Host.Outcome State Fault Refusal) : Prop := ∃ t, o = .next t

/-- The memory list is in its canonical form. -/
def MemoryWf (s : State) : Prop := Memory.wf s.mem = true

/-- A property kept by every step that answers a next state. -/
def Kept (Inv : State → Prop) : Prop := ∀ s t, Inv s → step s = .next t → Inv t

/-! ## Frames -/

/-- A context but for its g, v and k registers, PC, flags, instruction count and error marks: trap registers, level, BUSY bits,
special registers, clocks, streams. -/
def ctxRest (x : Ctx) : Ctx := { x with g := [], v := [], k := [], pc := 0, icount := 0, fflags := 0, errs := [] }

/-- A core but for its contexts: mailbox, semaphores, engines, format context, code table, debug control. -/
def coreRest (k : Core) : Core := { k with ctxs := [] }

/-- The machine but for its cores, its memory and the count of cycles: partitions, blocks, dies, estates, messages, … -/
def stateRest (s : State) : State := { s with cores := [], mem := [] }

/-- What an instruction may write: general, vector and mask registers, and the sticky flags. -/
structure Writes where
  g : List Reg := []
  v : List Reg := []
  k : List (BitVec 3) := []
  flags : Bool := false

/-- Nothing of the state but what `w` names, the PC and the instruction count of the context at issue has changed. -/
structure Frame (w : Writes) (s t : State) : Prop where
  /-- every byte of memory -/
  mem : ∀ a, t.peek a = s.peek a
  gregs : ∀ r, r ∉ w.g → t.me.getG r = s.me.getG r
  vregs : ∀ r, r ∉ w.v → t.me.getV r = s.me.getV r
  kregs : ∀ r, r ∉ w.k → t.me.getK r = s.me.getK r
  flags : if w.flags then s.me.fflags &&& t.me.fflags = s.me.fflags else t.me.fflags = s.me.fflags
  own : ctxRest t.me = ctxRest s.me
  mates : ∀ n, n ≠ s.cur.2 → t.ctx s.cur.1 n = s.ctx s.cur.1 n
  core : coreRest (t.core s.cur.1) = coreRest (s.core s.cur.1)
  cores : ∀ c, c ≠ s.cur.1 → t.core c = s.core c
  rest : stateRest t = stateRest s

/-- `exec` answers a next state, `words` words on, within the frame, and `P` holds there. -/
def Runs (i : Instr) (s : State) (words : Nat) (w : Writes) (P : State → Prop) : Prop :=
  ∃ t, exec i s = .next t ∧ t.me.pc = s.me.pc + BitVec.ofNat 64 (8 * words) ∧ t.me.icount = s.me.icount + 1 ∧ Frame w s t ∧ P t

/-- g[d] after a write of v: g0 discards it (R109). -/
def gotG (t : State) (d : Reg) (v : Word) : Prop := t.me.getG d = if d = 0 then 0 else v

/-- k[d] after a write of v: k0 discards it (R159). -/
def gotK (t : State) (d : BitVec 3) (v : Word) : Prop := t.me.getK d = if d = 0 then BitVec.allOnes 64 else v

/-- The instruction writes v to g[d], and nothing else. -/
def PutsG (i : Instr) (s : State) (d : Reg) (v : Word) (words : Nat := 1) : Prop :=
  Runs i s words { g := [d] } fun t => gotG t d v

/-- The instruction writes v to g[d] and ORs flags into `fflags`, and nothing else. -/
def PutsGF (i : Instr) (s : State) (d : Reg) (v f : Word) : Prop :=
  Runs i s 1 { g := [d], flags := true } fun t => gotG t d v ∧ t.me.fflags = s.me.fflags ||| f

/-- The instruction writes v to v[d] and ORs flags into `fflags`, and nothing else. -/
def PutsV (i : Instr) (s : State) (d : Reg) (v : Line) (f : Word := 0) : Prop :=
  Runs i s 1 { v := [d], flags := true } fun t => t.me.getV d = v ∧ t.me.fflags = s.me.fflags ||| f

/-- The instruction writes x to k[d] and ORs flags into `fflags`, and nothing else. -/
def PutsK (i : Instr) (s : State) (d : BitVec 3) (x : Word) (f : Word := 0) : Prop :=
  Runs i s 1 { k := [d], flags := true } fun t => gotK t d x ∧ t.me.fflags = s.me.fflags ||| f

/-- The instruction has issued and Waits for another agent to end its wait: the context stays at it, an issue is counted, and
nothing else changes. -/
def Waits (i : Instr) (s : State) : Prop := exec i s = .next (s.modMe fun x => { x with run := .waiting i, icount := x.icount + 1 })

/-- The instruction waits at issue: it has not issued, and nothing but the context's run state changes. -/
def Stalls (i : Instr) (s : State) : Prop := exec i s = .next (s.modMe fun x => { x with run := .stalled })

/-- `exec` answers exactly this state. -/
def Goes (i : Instr) (s t : State) : Prop := exec i s = .next t

/-! ## Taking an exception (R371 to R373) -/

/-- Control has entered level `t`'s handler: the level's trap registers hold the PC, the cause with code, FROM, TLEN and NEST, the
address and the record; the level is BUSY; registers and memory are as they were. -/
structure Entered (s u : State) (t : Level) (cause addr r4 : Word) : Prop where
  pc : u.me.pc = s.vector t
  level : u.me.level = t
  busy : u.me.busy t = true
  saved : (u.me.trap t).pc = s.me.pc
  cause : (u.me.trap t).cause = cause
  addr : (u.me.trap t).addr = addr
  record : Map.get 0 (u.me.trap t).trec 4 = r4
  gregs : ∀ r, u.me.getG r = s.me.getG r
  vregs : ∀ r, u.me.getV r = s.me.getV r
  kregs : ∀ r, u.me.getK r = s.me.getK r
  mem : ∀ a, u.peek a = s.peek a

/-- The instruction at issue takes an exception to level `t`. -/
def Traps (i : Instr) (s : State) (t : Level) (cause addr r4 : Word) : Prop := ∃ u, exec i s = .next u ∧ Entered s u t cause addr r4

/-! ## Readings of the spec's integers (R111) -/

/-- U(x) of width n. -/
def readU (n : Nat) (x : Word) : Int := x.toNat % 2 ^ n
/-- S(x) of width n. -/
def readS (n : Nat) (x : Word) : Int := if x.toNat % 2 ^ n < 2 ^ (n - 1) then x.toNat % 2 ^ n else (x.toNat % 2 ^ n : Int) - 2 ^ n
/-- The type's reading of an operand, for exact results. -/
def readT (t : ETy) (x : Word) : Int := if t.isSigned then readS t.width x else readU t.width x
/-- A result reduced modulo 2^N and extended as the type says. -/
def wrapTo (t : ETy) (y : Int) : Word :=
  let u : Word := BitVec.ofInt 64 (y % 2 ^ t.width)
  if t.isSigned then BitVec.ofInt 64 (readS t.width u) else u
/-- The nearest value in the type's range. -/
def saturated (t : ETy) (y : Int) : Int :=
  if t.isSigned then max (-2 ^ (t.width - 1)) (min (2 ^ (t.width - 1) - 1) y) else max 0 (min (2 ^ t.width - 1) y)
/-- An exact result, saturated under the clamp bit. -/
def exactTo (t : ETy) (clamp : Bool) (y : Int) : Word := wrapTo t (if clamp then saturated t y else y)

/-! ## Vectors (R158, R171) -/

/-- The vector that an element-wise instruction leaves: lane j is `f j` where the mask enables it and the old lane elsewhere. -/
def lanewise (t : ETy) (mask : Word) (old new : Line) (f : Nat → Nat) : Prop :=
  ∀ j, j < 512 / t.width → laneOf t.width new j = if mask.getLsbD j then f j % 2 ^ t.width else laneOf t.width old j

/-- The flags of the lanes that a mask enables, ORed (R184). -/
def laneFlags (lanes : Nat) (mask : Word) (f : Nat → FF) : Word :=
  (orFlags (((List.range lanes).filter mask.getLsbD).map f)).word

/-- The instruction writes v[d] lane by lane, ORs the flags of the enabled lanes into `fflags`, and changes nothing else. -/
def Lanes (i : Instr) (s : State) (o : OpA) (f : Nat → Nat × FF) : Prop :=
  Runs i s 1 { v := [o.d], flags := true } fun t =>
    lanewise o.ty (s.readK o.k) (s.readV o.d) (t.me.getV o.d) (fun j => (f j).1)
    ∧ t.me.fflags = s.me.fflags ||| laneFlags (512 / o.ty.width) (s.readK o.k) fun j => (f j).2

/-- The instruction writes v[d] lane by lane with bit patterns, and changes no flag and nothing else. -/
def BitLanes (i : Instr) (s : State) (o : OpA) (f : Nat → Nat) : Prop :=
  Runs i s 1 { v := [o.d] } fun t => lanewise o.ty (s.readK o.k) (s.readV o.d) (t.me.getV o.d) f

/-- An element of 8, 16, 32 or 64 bits. -/
def wholeElement (t : ETy) : Prop := t.width = 8 ∨ t.width = 16 ∨ t.width = 32 ∨ t.width = 64

/-! ## Accesses (R256 to R264) -/

/-- A context but for what an access may change: its registers as in `ctxRest`, clocks and counters. -/
def ctxKept (x : Ctx) : Ctx := { ctxRest x with clk := [], ctr := 0 }

/-- What an access performed at issue leaves as it was: every byte but those at `loc`, …, `loc + n - 1`; every register but those of
`w`; every other context and core; the core's mailbox, engines and semaphores; the partitions' registers. -/
structure AccessFrame (w : Writes) (loc n : Nat) (s t : State) : Prop where
  mem : ∀ a, a < loc ∨ loc + n ≤ a → t.peek a = s.peek a
  gregs : ∀ r, r ∉ w.g → t.me.getG r = s.me.getG r
  vregs : ∀ r, r ∉ w.v → t.me.getV r = s.me.getV r
  kregs : ∀ r, r ∉ w.k → t.me.getK r = s.me.getK r
  flags : if w.flags then s.me.fflags &&& t.me.fflags = s.me.fflags else t.me.fflags = s.me.fflags
  own : ctxKept t.me = ctxKept s.me
  mates : ∀ m, m ≠ s.cur.2 → t.ctx s.cur.1 m = s.ctx s.cur.1 m
  core : { coreRest (t.core s.cur.1) with ctr := 0 } = { coreRest (s.core s.cur.1) with ctr := 0 }
  cores : ∀ c, c ≠ s.cur.1 → t.core c = s.core c
  parts : ∀ p, { t.part p with fieldCtr := [] } = { s.part p with fieldCtr := [] }
  msgs : t.msgs = s.msgs

/-- The access with its destination, resolved by the model's address translation; through the own window its stream has no effect
(R238). -/
def want (s : State) (a : Access) (d : Dest) : Want :=
  { acc := { a with stream := if a.own then 0 else a.stream }, dst := d, loc := s.locate s.cur.1 a.kind.xkind a.addr a.size }

/-- The vector an access publishes or carries, and the state its check sees: a release increments counters first (R282). -/
def published (s : State) (a : Access) : Snap × State :=
  if a.order.releases then s.release s.cur.1 s.cur.2 a.scope else (s.snapshot s.cur.1 s.cur.2 a.scope, s)

/-- The access races with nothing (R291), or nothing is checked (R300). -/
def noRace (s : State) (a : Access) (off : Nat) (write : Bool) : Prop :=
  let p := published s a
  s.modeOf s.cur.1 = 0 ∨
    p.2.firstRace (a.check s.cur.1 s.cur.2 p.1 s.me.pc (s.modeOf s.cur.1) write) (p.2.segsOf (s.scratchTarget s.cur.1 s.cur.1 off a.size))
      = none

/-- The access may be performed at issue, at offset `off` of the own scratchpad: it need not wait (R63, R235, R245, R257), no
poisoned line stops it (R381), it races with nothing, and no failure is to be delivered at it (R270). -/
structure OwnReady (s : State) (a : Access) (d : Dest) (off : Nat) (write : Bool) : Prop where
  own : s.locate s.cur.1 a.kind.xkind a.addr a.size = .own off
  fresh : Map.get? s.me.progress s.me.level = none
  free : s.mustWait s.cur.1 s.cur.2 [want s a d] = false
  clean : s.poisonStops a.kind [s.scratchTarget s.cur.1 s.cur.1 off a.size] = false
  quiet : noRace s a off write
  whole : a.order.releases = true → s.me.failureFor 0 = none

/-- The access may leave the core for the targets `ts` (R241, R265, R270, R401). -/
structure SendReady (s : State) (a : Access) (d : Dest) (ts : List Target) : Prop where
  remote : s.locate s.cur.1 a.kind.xkind a.addr a.size = .remote ts
  some : ts ≠ []
  fresh : Map.get? s.me.progress s.me.level = none
  free : s.mustWait s.cur.1 s.cur.2 [want s a d] = false
  kept : a.kind.isStore = true → s.me.discards a.stream (firstUnit ts) = false ∧ s.slotOk s.cur.1 s.cur.2 a.stream (firstUnit ts) = true
  whole : a.order.releases = true → s.me.failureFor a.stream = none
  /-- a write waits behind no access of its context that is still to be translated (R235, R245) -/
  translated : a.kind.writes = true → s.walking s.cur.1 s.cur.2 = []

/-- The instruction sends one message, the access to its targets: it goes at once, or when what a release waits for is answered
(R245). No byte of memory and no register has changed yet. -/
def Sends (i : Instr) (s : State) (a : Access) (d : Dest) (ts : List Target) : Prop :=
  ∃ t m, exec i s = .next t ∧ t.msgs = s.msgs ++ [(s.nextId, m)] ∧ m.core = s.cur.1 ∧ m.ctx = s.cur.2 ∧ m.body = .access a ts
    ∧ m.dst = d ∧ m.stage = (if a.order.releases then .unsent else .sent) ∧ t.me.pc = s.me.pc + 8
    ∧ t.me.icount = s.me.icount + 1 ∧ (∀ r, t.me.getG r = s.me.getG r) ∧ (∀ r, t.me.getV r = s.me.getV r)
    ∧ t.me.fflags = s.me.fflags ∧ ∀ l, t.peek l = s.peek l

/-- The instruction completes at once at the next word, with `P` there, in the frame of an access to `n` bytes at `loc`. -/
def Performs (i : Instr) (s : State) (w : Writes) (loc n : Nat) (P : State → Prop) : Prop :=
  ∃ t, exec i s = .next t ∧ t.me.pc = s.me.pc + 8 ∧ t.me.icount = s.me.icount + 1 ∧ AccessFrame w loc n s t ∧ P t

/-! ## Work put in queues, and the steps of the machine's other agents -/

/-- `exec` answers a next state, and `P` holds there. -/
def Fires (i : Instr) (s : State) (P : State → Prop) : Prop := ∃ t, exec i s = .next t ∧ P t

/-- The instruction of `words` words at issue is done, with none of its context's registers and no byte of memory changed. -/
def Issued (words : Nat) (s t : State) : Prop :=
  t.me.pc = s.me.pc + BitVec.ofNat 64 (8 * words) ∧ t.me.icount = s.me.icount + 1 ∧ (∀ r, t.me.getG r = s.me.getG r)
    ∧ (∀ r, t.me.getV r = s.me.getV r) ∧ (∀ r, t.me.getK r = s.me.getK r) ∧ t.me.fflags = s.me.fflags ∧ ∀ l, t.peek l = s.peek l

/-- No register and no byte of memory but g registers among `gs` has changed, and the PC is past the instruction. -/
def Answered (words : Nat) (gs : List Reg) (s t : State) : Prop :=
  t.me.pc = s.me.pc + BitVec.ofNat 64 (8 * words) ∧ (∀ r, r ∉ gs → t.me.getG r = s.me.getG r)
    ∧ (∀ r, t.me.getV r = s.me.getV r) ∧ (∀ r, t.me.getK r = s.me.getK r) ∧ t.me.fflags = s.me.fflags ∧ ∀ l, t.peek l = s.peek l

/-! ## Plain accesses that instructions make to records in the own scratchpad (R202, R310, R323, R335) -/

/-- `n` bytes at an own-window address. -/
def ownBytes (s : State) (a : Word) (n : Nat) : List Byte := s.peekBytes (scratchLoc s.cur.1 (a.toNat % 2 ^ 19)) n

/-- The access races with nothing, or nothing is checked. -/
def ownQuiet (s : State) (a : Access) (write : Bool) : Prop :=
  let c := s.cur.1
  s.modeOf c = 0 ∨ s.firstRace (a.check c s.cur.2 (s.snapshot c s.cur.2 .thread) s.me.pc (s.modeOf c) write)
    (s.segsOf (s.scratchTarget c c (a.addr.toNat % 2 ^ 19) a.size)) = none

/-- `n` aligned bytes at `a` in the own window can be read: no older access to them is under way (R235), no line of them is
poisoned, and the read races with nothing. -/
structure ReadsOwn (s : State) (a : Word) (n : Nat) : Prop where
  window : a.toNat / 2 ^ 19 = 0xFC * 2 ^ 37
  aligned : a.toNat % n = 0
  free : s.ownBusy a n = false
  clean : s.poisonedAt (scratchLoc s.cur.1 (a.toNat % 2 ^ 19)) n = false
  quiet : ownQuiet s { kind := .load, addr := a, size := n } false

/-- The context's core is in the machine, its block is neither swapping nor held, and neither a halt nor a fence stops it. -/
structure Awake (s : State) (c : CoreId) (n : Nat) : Prop where
  resident : s.isResident c = true
  steady : s.swapping c = false
  running : s.isHalted c n = false
  unfenced : s.isFenced c = false
  open_ : s.blockHolds c.block = false
  ctx : n < 11

/-- Nothing waits on the core's semaphores: no signal is on its way, every wait clause has passed, no context stands at `swait`. -/
structure SemQuiet (s : State) (c : CoreId) : Prop where
  sigs : (s.core c).sigs = []
  cmds : ∀ x ∈ (s.core c).cmds, x.2.passed = true
  reqs : ∀ r ∈ (s.core c).mreqs, r.passed ≠ none
  ctxs : ∀ n o, (s.ctx c n).run ≠ .waiting (.swait o)

/-- The access of a message may be performed at its unit: the unit is not held, fenced or host memory, no line stops it, and it races
with nothing. -/
structure AtUnit (s : State) (m : Msg) (a : Access) (ts : List Target) (write : Bool) : Prop where
  here : s.toHost ts = false
  open_ : s.holdsAt m.core.pid ts = false
  unfenced : s.unitFenced (firstUnit ts) = false
  clean : s.poisonStops a.kind ts = false
  quiet : m.mode = 0 ∨ s.firstRace (a.check m.core m.ctx m.snap m.pc m.mode write) (ts.flatMap s.segsOf) = none

/-! ## Engines and blocks -/

/-- Coordinates that a virtual block can have (R7, R123). -/
structure InRange (b : BlockId) : Prop where
  vblock : b.vblock < 64
  field : b.field < 8
  estate : b.estate < 64

/-- A command's piece of `n` bytes, from offset `src` to offset `dst` of its core's scratchpad, is neither poisoned nor a race. -/
structure PieceClean (s : State) (c : CoreId) (x : Cmd) (src dst n : Nat) : Prop where
  clean : s.poisonedAt (scratchLoc c src) n = false
  whole : s.poisonStops .store [s.scratchTarget c c dst n] = false
  unfenced : s.unitFenced (s.scratchTarget c c dst n).unit = false
  quiet : s.modeOf c = 0 ∨
    (s.firstRace (s.engCheck c x.ctx x.snap x.pc false) (s.segsOf (s.scratchTarget c c src n)) = none ∧
      let u := (s.check (s.engCheck c x.ctx x.snap x.pc false) [s.scratchTarget c c src n]).2
      u.firstRace (u.engCheck c x.ctx x.snap x.pc true) (u.segsOf (u.scratchTarget c c dst n)) = none)

/-- The signal of a command or request has joined those on their way into the core's semaphores, or it names none (R96, R98). -/
def Signals (w : EW) (v : Snap) (c : CoreId) (s t : State) : Prop :=
  (t.core c).sigs = (s.core c).sigs ++ (if w.sInc = 0 then [] else
    [{ sm := w.sIdx.toNat, inc := w.sInc.toNat, port := 0, vec := if w.fr then some { v with scope := w.scope } else none }])

/-- The turn that began at `s` and whose issue has come to `t` is over: the rotation pointer moves and the context's claim begins anew,
unless it waits; a cycle passes; and images are brought up to date (R59, R70). -/
def turnDone (s : State) (c : CoreId) (n : Nat) (vector : Bool) (t : State) : State :=
  s.mirrorFrom ((if (t.ctx c n).run = .stalled then t else t.turnPointer c n vector).issued c n)

end Sys2Proof.Safety
end

