-- ==== Sys2Proof/Certificates/Slice0/Obligations.lean ====
section
/-! DEFINITION. The statements for the provers. Every docstring names the rules it formalises. -/

open Sys2Proof Sys2Proof.Machine Sys2Proof.Safety

/-! ## Class 0x0 (R111 to R115) -/

/-- R112, R114: `add`, `sub`, `mul` and their immediate forms write the exact result of the type's readings, saturated under
the clamp bit and wrapped otherwise; `mulh` and `mulhu` the high half; `movi` the extended immediate. Nothing else changes. -/
def Claims.IntegerArithmetic : Prop :=
  (∀ (o : OpA) (s : State),
    PutsG (.add o) s o.d (exactTo o.ty o.clamp (readT o.ty (s.readG o.a) + readT o.ty (s.readG o.b)))
    ∧ PutsG (.sub o) s o.d (exactTo o.ty o.clamp (readT o.ty (s.readG o.a) - readT o.ty (s.readG o.b)))
    ∧ PutsG (.mul o) s o.d (exactTo o.ty o.clamp (readT o.ty (s.readG o.a) * readT o.ty (s.readG o.b)))
    ∧ PutsG (.mulh o) s o.d (wrapTo o.ty (readS o.ty.width (s.readG o.a) * readS o.ty.width (s.readG o.b) / 2 ^ o.ty.width))
    ∧ PutsG (.mulhu o) s o.d (wrapTo o.ty (readU o.ty.width (s.readG o.a) * readU o.ty.width (s.readG o.b) / 2 ^ o.ty.width)))
  ∧ ∀ (o : OpI) (s : State),
    PutsG (.addi o) s o.d (wrapTo o.ty (readT o.ty (s.readG o.a) + readT o.ty (o.imm.signExtend 64)))
    ∧ PutsG (.subi o) s o.d (wrapTo o.ty (readT o.ty (s.readG o.a) - readT o.ty (o.imm.signExtend 64)))
    ∧ PutsG (.muli o) s o.d (wrapTo o.ty (readT o.ty (s.readG o.a) * readT o.ty (o.imm.signExtend 64)))
    ∧ PutsG (.movi o) s o.d (wrapTo o.ty (readT o.ty (o.imm.signExtend 64)))

/-- R113: `Div`. A divisor whose low N bits are 0 gives the all-ones quotient and leaves the dividend; the most negative number
by −1 gives itself, or the largest number under the clamp bit, with remainder 0; otherwise the quotient is rounded toward zero
and the remainder has the dividend's sign. R111: under the clamp bit `div` of an nN type reads its operands as U(). -/
def Claims.IntegerDivision : Prop :=
  ∀ (o : OpA) (s : State),
    let n := o.ty.width
    let sa := readS n (s.readG o.a)
    let sb := readS n (s.readG o.b)
    let ua := readU n (s.readG o.a)
    let ub := readU n (s.readG o.b)
    (ub = 0 → PutsG (.div o) s o.d (wrapTo o.ty (2 ^ n - 1)) ∧ PutsG (.divu o) s o.d (wrapTo o.ty (2 ^ n - 1))
      ∧ PutsG (.rem o) s o.d (wrapTo o.ty ua) ∧ PutsG (.remu o) s o.d (wrapTo o.ty ua))
    ∧ (ub ≠ 0 → PutsG (.divu o) s o.d (wrapTo o.ty (ua / ub)) ∧ PutsG (.remu o) s o.d (wrapTo o.ty (ua % ub)))
    ∧ (ub ≠ 0 → sa = -2 ^ (n - 1) → sb = -1 → PutsG (.rem o) s o.d 0
        ∧ (o.clamp = false ∨ o.ty.isSigned = true →
          PutsG (.div o) s o.d (wrapTo o.ty (if o.clamp then 2 ^ (n - 1) - 1 else 2 ^ (n - 1)))))
    ∧ (ub ≠ 0 → ¬(sa = -2 ^ (n - 1) ∧ sb = -1) → PutsG (.rem o) s o.d (wrapTo o.ty (sa.tmod sb))
        ∧ (o.clamp = false ∨ o.ty.isSigned = true → PutsG (.div o) s o.d (wrapTo o.ty (sa.tdiv sb))))
    ∧ (ub ≠ 0 → o.clamp = true → o.ty.isSigned = false → PutsG (.div o) s o.d (wrapTo o.ty (ua / ub)))

/-- Integer arithmetic and division write the exact result, wrapped or saturated, and nothing else. -/
def Obligations.Integers : Prop := Claims.IntegerArithmetic ∧ Claims.IntegerDivision

/-- R112 to R114: the logical operations and shifts on the low N bits. A logical or arithmetic right shift by N or more gives 0
or the sign; a left shift gives the low N bits, saturated under the clamp bit; a rotation counts modulo N. -/
def Claims.IntegerLogicAndShifts : Prop :=
  (∀ (o : OpA) (s : State),
    let n := o.ty.width
    let x := s.readG o.a
    let k := (s.readG o.b).toNat % 64
    PutsG (.and o) s o.d (wrapTo o.ty (x &&& s.readG o.b).toNat)
    ∧ PutsG (.or o) s o.d (wrapTo o.ty (x ||| s.readG o.b).toNat)
    ∧ PutsG (.xor o) s o.d (wrapTo o.ty (x ^^^ s.readG o.b).toNat)
    ∧ PutsG (.andn o) s o.d (wrapTo o.ty (x &&& ~~~s.readG o.b).toNat)
    ∧ PutsG (.shl o) s o.d (exactTo o.ty o.clamp (readT o.ty x * 2 ^ k))
    ∧ PutsG (.shr o) s o.d (wrapTo o.ty (if n ≤ k then 0 else readU n x / 2 ^ k))
    ∧ PutsG (.sar o) s o.d (wrapTo o.ty (if n ≤ k then (if readS n x < 0 then -1 else 0) else readS n x / 2 ^ k))
    ∧ PutsG (.rol o) s o.d (aluRol o.ty x k))
  ∧ ∀ (o : OpI) (s : State),
    let n := o.ty.width
    let x := s.readG o.a
    let i : Word := o.imm.zeroExtend 64
    let k := o.imm.toNat % 64
    PutsG (.andi o) s o.d (wrapTo o.ty (x &&& i).toNat)
    ∧ PutsG (.ori o) s o.d (wrapTo o.ty (x ||| i).toNat)
    ∧ PutsG (.xori o) s o.d (wrapTo o.ty (x ^^^ i).toNat)
    ∧ PutsG (.shli o) s o.d (wrapTo o.ty (readT o.ty x * 2 ^ k))
    ∧ PutsG (.shri o) s o.d (wrapTo o.ty (if n ≤ k then 0 else readU n x / 2 ^ k))
    ∧ PutsG (.sari o) s o.d (wrapTo o.ty (if n ≤ k then (if readS n x < 0 then -1 else 0) else readS n x / 2 ^ k))

/-- R112 to R115: minimum and maximum in the reading of the name, `cset` and `cseti` 1 or 0, `sel`, bit fields and bit counts, and
the 64-bit immediate forms, which are two words long. -/
def Claims.IntegerSelectAndBits : Prop :=
  (∀ (o : OpA) (s : State),
    let n := o.ty.width
    let x := s.readG o.a
    let y := s.readG o.b
    PutsG (.min o) s o.d (wrapTo o.ty (min (readS n x) (readS n y)))
    ∧ PutsG (.max o) s o.d (wrapTo o.ty (max (readS n x) (readS n y)))
    ∧ PutsG (.minu o) s o.d (wrapTo o.ty (min (readU n x) (readU n y)))
    ∧ PutsG (.maxu o) s o.d (wrapTo o.ty (max (readU n x) (readU n y)))
    ∧ PutsG (.sel o) s o.d (if s.readG o.c = 0 then y else x)
    ∧ PutsG (.bext o) s o.d (aluBext o.ty x y)
    ∧ PutsG (.bins o) s o.d (aluBins (s.readG o.d) x y)
    ∧ PutsG (.clz o) s o.d (aluClz o.ty x) ∧ PutsG (.ctz o) s o.d (aluCtz o.ty x)
    ∧ PutsG (.popc o) s o.d (aluPopc o.ty x) ∧ PutsG (.brev o) s o.d (aluBrev o.ty x)
    ∧ ∀ c : Cond, PutsG (.cset c o) s o.d (if icond c n x.toNat y.toNat then 1 else 0))
  ∧ (∀ (c : Cond) (o : OpI) (s : State),
    PutsG (.cseti c o) s o.d (if icond c o.ty.width (s.readG o.a).toNat (o.imm.signExtend 64 : Word).toNat then 1 else 0))
  ∧ ∀ (o : OpX) (s : State),
    PutsG (.movl o) s o.d o.imm 2 ∧ PutsG (.addl o) s o.d (s.readG o.a + o.imm) 2
    ∧ PutsG (.andl o) s o.d (s.readG o.a &&& o.imm) 2 ∧ PutsG (.orl o) s o.d (s.readG o.a ||| o.imm) 2

/-- Logic, shifts, selection, bit fields and long immediates write one register and nothing else. -/
def Obligations.IntegerBits : Prop := Claims.IntegerLogicAndShifts ∧ Claims.IntegerSelectAndBits

/-! ## Class 0x1 (R116 to R121) -/

/-- R95, R116, R117: a branch goes to its own address plus the signed word offset if its condition holds between the two registers,
and on otherwise; `call` and `callr` write the next address to the link register; `jr` and `callr` go to the address in a
register, and one with bits [2:0] set raises the misaligned-target fault. Nothing else changes. -/
def Obligations.Branches : Prop :=
  ∀ (s : State) (c : Cond) (h : Hint) (x y l : Reg) (off : BitVec 40) (o : OpA),
    let to_ := s.me.pc + (off.signExtend 64 <<< 3)
    let t := s.readG o.a
    Goes (.b c h x y off) s (s.modMe fun m =>
      { m with pc := if icond c 64 (s.readG x).toNat (s.readG y).toNat then to_ else s.me.pc + 8, icount := m.icount + 1 })
    ∧ (∃ u, Goes (.call l h off) s u ∧ u.me.pc = to_ ∧ gotG u l (s.me.pc + 8) ∧ Frame { g := [l] } s u)
    ∧ (t.toNat % 8 = 0 →
        (∃ u, Goes (.jr o) s u ∧ u.me.pc = t ∧ Frame {} s u)
        ∧ ∃ u, Goes (.callr o) s u ∧ u.me.pc = t ∧ gotG u o.d (s.me.pc + 8) ∧ Frame { g := [o.d] } s u)
    ∧ (t.toNat % 8 ≠ 0 → exec (.jr o) s = .next (s.raise 0x03 { addr := t })
        ∧ exec (.callr o) s = .next (s.raise 0x03 { addr := t }))

/-! ## Class 0x2 (R163 to R170) -/

/-- R89, R164 to R170: every scalar float instruction reads its operands after modifiers, takes the exact result through the
destination step of R89 (scale, rounding, clamp), writes g[d] extended as its type says, and ORs the flags of its result into
`fflags`; `fclass` writes one bit and no flag. Nothing else changes. -/
def Obligations.ScalarFloat : Prop :=
  ∀ (o : OpA) (s : State),
    let m := s.mode o.rnd
    let a := s.fsrc o.ty o.a o.ma
    let b := s.fsrc o.ty o.b o.mb
    let c := s.fsrc o.ty o.c o.mc
    let puts (i : Instr) (r : Nat × FF) := PutsGF i s o.d (extendTo o.ty r.1) r.2.word
    let rounds (i : Instr) (y : Exact × FF) := puts i (dest o.ty y (scaleOf o.scale) o.clamp m)
    rounds (.fadd o) (addExact m a b) ∧ rounds (.fsub o) (subExact m a b) ∧ rounds (.fmul o) (mulExact a b)
    ∧ rounds (.fdiv o) (divExact a b)
    ∧ (let r := dest o.ty (sqrtExact a) (scaleOf o.scale) o.clamp m
       puts (.fsqrt o) (r.1, { nv := r.2.nv, nx := r.2.nx }))
    ∧ rounds (.ffma o) (fmaExact m a b c false) ∧ rounds (.ffms o) (fmaExact m a b c true)
    ∧ puts (.fmin o) (dest o.ty (minMax false a b) 0 false .even) ∧ puts (.fmax o) (dest o.ty (minMax true a b) 0 false .even)
    ∧ (∀ k : Cond, PutsGF (.fcset k o) s o.d (if (fcond k a b).1 then 1 else 0) (fcond k a b).2.word)
    ∧ (∀ src : ETy, puts (.fcvt src o) (convert o.ty src (s.fsrc src o.a o.ma) (scaleOf o.scale) o.clamp m))
    ∧ puts (.frcp o) (frozen o.ty rcpExact a (scaleOf o.scale) o.clamp)
    ∧ puts (.frsq o) (frozen o.ty rsqExact a (scaleOf o.scale) o.clamp)
    ∧ puts (.fexp2 o) (frozen o.ty exp2Exact a (scaleOf o.scale) o.clamp)
    ∧ puts (.flog2 o) (frozen o.ty log2Exact a (scaleOf o.scale) o.clamp)
    ∧ PutsG (.fclass o) s o.d (BitVec.ofNat 64 (2 ^ classOf (FFmt.of o.ty) a))
    ∧ puts (.fround o) (roundIntegral (FFmt.of o.ty) a m)

/-! ## Classes 0x3 and 0x4 (R158 to R162, R171 to R183) -/

/-- R89, R171 to R173, R176, R184: an element-wise vector instruction of a type with an 8, 16, 32 or 64-bit element writes the enabled
lanes of v[d] with its lane result and ORs the flags of those lanes into `fflags`, the logical, shift and movement forms none; it
leaves the other lanes, every other register, memory and all else as they were. -/
def Obligations.VectorLanes : Prop :=
  ∀ (o : OpA) (s : State), wholeElement o.ty →
    let m := s.mode o.rnd
    let w := o.ty.width
    let a := s.vsrc o.ty o.a o.ma
    let b := s.vsrc o.ty o.b o.mb
    let c := s.vsrc o.ty o.c o.mc
    let x (j : Nat) := laneOf w (s.readV o.a) j
    let y (j : Nat) := laneOf w (s.readV o.b) j
    let r (f : Nat → Exact × FF) (j : Nat) : Nat × FF := dest o.ty (f j) (scaleOf o.scale) o.clamp m
    let fz (g : Val → Exact × Bool × FF) (j : Nat) : Nat × FF := frozen o.ty g (a j) (scaleOf o.scale) o.clamp
    Lanes (.vadd o) s o (r fun j => addExact m (a j) (b j)) ∧ Lanes (.vsub o) s o (r fun j => subExact m (a j) (b j))
    ∧ Lanes (.vmul o) s o (r fun j => mulExact (a j) (b j)) ∧ Lanes (.vdiv o) s o (r fun j => divExact (a j) (b j))
    ∧ Lanes (.vfma o) s o (r fun j => fmaExact m (a j) (b j) (c j) false)
    ∧ Lanes (.vfms o) s o (r fun j => fmaExact m (a j) (b j) (c j) true)
    ∧ Lanes (.vsqrt o) s o (fun j => let y := r (fun j => sqrtExact (a j)) j; (y.1, { nv := y.2.nv, nx := y.2.nx }))
    ∧ Lanes (.vmin o) s o (fun j => dest o.ty (minMax false (a j) (b j)) 0 false .even)
    ∧ Lanes (.vmax o) s o (fun j => dest o.ty (minMax true (a j) (b j)) 0 false .even)
    ∧ Lanes (.vrcp o) s o (fz rcpExact) ∧ Lanes (.vrsq o) s o (fz rsqExact) ∧ Lanes (.vexp2 o) s o (fz exp2Exact)
    ∧ Lanes (.vlog2 o) s o (fz log2Exact)
    ∧ BitLanes (.vmulh o) s o (fun j => wrapInt w (readInt o.ty (x j) * readInt o.ty (y j) / 2 ^ w))
    ∧ BitLanes (.vand o) s o (fun j => x j &&& y j) ∧ BitLanes (.vor o) s o (fun j => x j ||| y j)
    ∧ BitLanes (.vxor o) s o (fun j => x j ^^^ y j) ∧ BitLanes (.vandn o) s o (fun j => x j &&& (2 ^ w - 1 - y j))
    ∧ BitLanes (.vshl o) s o (fun j => shlBits o.ty o.clamp (x j) (y j % 64))
    ∧ BitLanes (.vshr o) s o (fun j => if w ≤ y j % 64 then 0 else x j / 2 ^ (y j % 64))
    ∧ BitLanes (.vsar o) s o (fun j => sarBits w (x j) (y j % 64))
    ∧ BitLanes (.vbcst o) s o (fun _ => (s.readG o.a).toNat) ∧ BitLanes (.vmov o) s o x
    ∧ BitLanes (.vshuf o) s o (fun j => pairLane w (s.readV o.a) (s.readV o.b) (laneOf w (s.readV o.c) j))
    ∧ (∀ k : BitVec 6, BitLanes (.vperm k o) s o (fun j => laneOf w (s.readV o.a) (j ^^^ k.toNat)))
    ∧ BitLanes (.vslideDn o) s o (fun j => pairLane w (s.readV o.a) (s.readV o.b) (j + (s.readG o.c).toNat))
    ∧ BitLanes (.vslideUp o) s o (fun j =>
        let n := (s.readG o.c).toNat
        if n ≤ j then x (j - n) else if n ≤ j + o.ty.lanes then y (o.ty.lanes + j - n) else 0)

/-- R168, R174, R175, R176, R180 to R182, R184: the vector instructions that write every lane, or by a rule of their own. `vcmp` writes
the whole of k[d], a bit for each enabled lane whose condition holds and zero elsewhere; `vsel` selects by the mask; `vmovi`,
`vpack`, `vcompress` and `vexpand` write every lane; `vins` one lane, or nothing where the index is no lane; `vext` reads one.
The flags of `vcmp` and `vcvt` are those of the lanes they act on, ORed. The core's code table is all that `ctld` writes. -/
def Obligations.VectorWhole : Prop :=
  (∀ (o : OpA) (s : State),
    let w := o.ty.width
    let k := s.readK o.k
    let x (j : Nat) := laneOf w (s.readV o.a) j
    let i := (s.readG o.b).toNat
    PutsV (.vsel o) s o.d (vecAll w fun j => if k.getLsbD j then x j else laneOf w (s.readV o.b) j)
    ∧ (∀ c : Cond, PutsK (.vcmp c o) s (regK o.d) (maskOf o.ty.lanes fun j => k.getLsbD j && (s.vcond c o j).1)
        (laneFlags o.ty.lanes k fun j => (s.vcond c o j).2))
    ∧ (wholeElement o.ty → ∀ (p : BitVec 3) (src : ETy), wholeElement src →
        let l := 512 / max src.width w
        let cv (j : Nat) := convert o.ty src (s.vsrc src o.a o.ma j) (scaleOf o.scale) o.clamp (s.mode o.rnd)
        -- the source lane of a destination lane, for the lanes that are written
        let from_ (j : Nat) : Option Nat :=
          if w ≤ src.width then (if p.toNat * l ≤ j ∧ j < p.toNat * l + l then some (j - p.toNat * l) else none)
          else if j < l then some (p.toNat * l + j) else none
        Runs (.vcvt p src o) s 1 { v := [o.d], flags := true } fun t =>
          (∀ j, j < 512 / w → laneOf w (t.me.getV o.d) j = match from_ j with
            | some i => if k.getLsbD j then (cv i).1 % 2 ^ w else laneOf w (s.readV o.d) j
            | none => laneOf w (s.readV o.d) j)
          ∧ t.me.fflags = s.me.fflags ||| laneFlags (512 / w) k fun j => match from_ j with
            | some i => (cv i).2
            | none => {})
    ∧ PutsV (.vpack o) s o.d (vecAll 64 fun j => packLanes 1 ((List.range 64).map fun e => laneOf 8 (s.readV o.a) e / 2 ^ (7 - j) % 2))
    ∧ (∀ (h : Bool), PutsV (.vlut h o) s o.d (vecMap 8 k (s.readV o.d) fun j =>
        ((s.myCore.codeAt (laneOf 4 (s.readV o.a) (64 * h.toNat + j))).toNat, {})).1)
    ∧ (∀ (c : Bool) (n : BitVec 4), PutsV (.vunpk c n o) s o.d (vecMap 8 k (s.readV o.d) fun e =>
        (centre c n.toNat (planeByte (s.readV o.a) n.toNat e), {})).1)
    ∧ PutsG (.vext o) s o.d (if i < o.ty.lanes then extendTo o.ty (x i) else 0)
    ∧ (i < o.ty.lanes → PutsV (.vins o) s o.d (vecAll w fun j =>
        if j = i then (s.readG o.a).toNat % 2 ^ w else laneOf w (s.readV o.d) j))
    ∧ (o.ty.lanes ≤ i → Runs (.vins o) s 1 {} fun _ => True)
    ∧ PutsV (.vcompress o) s o.d (vecAll w fun j => (((List.range o.ty.lanes).filter k.getLsbD).map x).getD j 0)
    ∧ PutsV (.vexpand o) s o.d (vecAll w fun j => if k.getLsbD j then x (countBelow k j) else 0)
    ∧ Goes (.ctld o) s ((s.modMyCore fun c =>
        { c with code := (List.range 16).map fun n => (n, BitVec.ofNat 8 (laneOf 8 (s.readV o.a) n)) }).retire 1))
  ∧ ∀ (o : OpI) (s : State), PutsV (.vmovi o) s o.d (vecAll o.ty.width fun _ => vmoviLane o.ty o.imm)

/-- R153, R179, R184: a reduction writes its root to lane 0 of v[d] and zero to every other lane, and changes nothing else but flags.
The root is that of the tree of R153 over the lanes, a disabled lane entering as the operation's identity. `fflags` takes the flags
of every node and of the root, of which a minimum or maximum sets NV alone (R184; a choice of the model where R179 and R184 differ, log
109). -/
def Claims.VectorReductions : Prop :=
  ∀ (o : OpA) (s : State), wholeElement o.ty →
    let w := o.ty.width
    let m := s.mode o.rnd
    let leaf (op : ROp) (j : Nat) := if (s.readK o.k).getLsbD j then laneOf w (s.readV o.a) j else op.identity o.ty
    let tree (op : ROp) := treeReduce (op.combine o.ty o.clamp m) o.ty.lanes.log2 ((List.range o.ty.lanes).map (leaf op))
    let root (op : ROp) := convert o.ty o.ty (readVal o.ty (tree op).1) (scaleOf o.scale) o.clamp m
    let flags (op : ROp) : FF :=
      let f := (tree op).2.or (root op).2
      if op = .min ∨ op = .max then { nv := f.nv } else f
    let reduces (i : Instr) (op : ROp) : Prop := Runs i s 1 { v := [o.d], flags := true } fun t =>
      (∀ j, 0 < j → j < 512 / w → laneOf w (t.me.getV o.d) j = 0)
      ∧ laneOf w (t.me.getV o.d) 0 = (root op).1 % 2 ^ w ∧ t.me.fflags = s.me.fflags ||| (flags op).word
    reduces (.vredAdd o) .add ∧ reduces (.vredMin o) .min ∧ reduces (.vredMax o) .max ∧ reduces (.vredAnd o) .and
    ∧ reduces (.vredOr o) .or ∧ reduces (.vredXor o) .xor

/-- R159, R183: the mask instructions write the low L bits of their result to a mask register, the rest zero, or read one; k0 reads
as all ones and keeps no write. -/
def Claims.Masks : Prop :=
  (∀ (o : OpA) (s : State),
    let a := s.readK (regK o.a)
    let b := s.readK (regK o.b)
    let low (x : Word) : Word := BitVec.ofNat 64 (x.toNat % 2 ^ o.ty.lanes)
    PutsK (.kand o) s (regK o.d) (low (a &&& b)) ∧ PutsK (.kor o) s (regK o.d) (low (a ||| b))
    ∧ PutsK (.kxor o) s (regK o.d) (low (a ^^^ b)) ∧ PutsK (.kandn o) s (regK o.d) (low (a &&& ~~~b))
    ∧ PutsK (.knot o) s (regK o.d) (low (~~~a)) ∧ PutsK (.kmovKFromG o) s (regK o.d) (low (s.readG o.a))
    ∧ PutsG (.kmovGFromK o) s o.d (low a) ∧ PutsG (.kpopc o) s o.d (BitVec.ofNat 64 (popFrom a.toNat o.ty.lanes)))
  ∧ ∀ (o : OpI) (s : State), PutsK (.kseti o) s (regK o.d) (maskOf o.ty.lanes fun j => decide (j < o.imm.toNat))

/-- Reductions write one lane; mask instructions write the low lanes of a mask and zero above. -/
def Obligations.ReductionsAndMasks : Prop := Claims.VectorReductions ∧ Claims.Masks

/-! ## Classes 0x5 and 0x6 in the own scratchpad (R256 to R263, R272, R273) -/

/-- R256, R261, R262: a load from the own scratchpad writes the bytes at the address resolved to its register, extended as its type says,
or to one vector register or two, and changes no byte. An ordered access must be aligned to its whole size. -/
def Claims.OwnLoads : Prop :=
  ∀ (o : OpM) (s : State) (off : Nat),
    let loc := scratchLoc s.cur.1 off
    let bs := s.peekBytes loc o.size
    (o.order ≠ .plain → (s.ea o).toNat % o.size = 0) →
    (OwnReady s (OpM.access o .load (s.ea o) o.size) (.g o.data o.ety) off false →
      Performs (.ld o) s { g := [o.data] } loc 0 fun t => gotG t o.data (loadValue o.ety bs))
    ∧ (o.shape = 1 → OwnReady s (OpM.access o .load (s.ea o) o.size) (.v o.data) off false →
        Performs (.vld o) s { v := [o.data] } loc 0 fun t => t.me.getV o.data = lineOfBytes bs)
    ∧ (o.shape = 2 → OwnReady s (OpM.access o .load (s.ea o) o.size) (.pair o.data) off false →
        Performs (.vld o) s { v := [o.data, o.data + 1] } loc 0 fun t =>
          t.me.getV o.data = lineOfBytes (bs.take 64) ∧ t.me.getV (o.data + 1) = lineOfBytes (bs.drop 64))

/-- R256, R261, R262: a store to the own scratchpad writes its bytes at the address resolved, and no other byte, and no register. -/
def Claims.OwnStores : Prop :=
  ∀ (o : OpM) (s : State) (off : Nat), MemoryWf s →
    let loc := scratchLoc s.cur.1 off
    let bs := s.storeData o
    (o.order ≠ .plain → (s.ea o).toNat % o.size = 0) → bs.length = o.size →
    OwnReady s (OpM.access o .store (s.ea o) o.size bs) .none off true →
    Performs (.st o) s {} loc o.size (fun t => ∀ i, i < o.size → t.peek (loc + i) = bs.getD i 0)
    ∧ Performs (.vst o) s {} loc o.size (fun t => ∀ i, i < o.size → t.peek (loc + i) = bs.getD i 0)

/-- R263: a gather from the own scratchpad reads each lane at its own address; a scatter writes the lanes in order. With every lane
in the own scratchpad and checking off; other cases go by messages. -/
def Claims.OwnGatherScatter : Prop :=
  ∀ (o : OpM) (s : State) (off : Nat → Nat), MemoryWf s → s.modeOf s.cur.1 = 0 → wholeElement o.ety →
    Map.get? s.me.progress s.me.level = none → (o.order.releases = true → s.me.failureFor 0 = none) →
    let c := s.cur.1
    let n := laneCount o
    let gets (j : Nat) := OpM.access o .load (s.laneAddr o j) o.bytes [] j
    let data (j : Nat) := leBytes o.bytes (laneOf (8 * o.bytes) (s.readV o.data) j)
    let puts (j : Nat) := OpM.access o .store (s.laneAddr o j) o.bytes (data j) j
    (∀ j, j < n → s.poisonedAt (scratchLoc c (off j)) o.bytes = false) →
    ((∀ j, j < n → s.locate c .read (s.laneAddr o j) o.bytes = .own (off j)) →
      s.mustWait c s.cur.2 ((List.range n).map fun j => want s (gets j) (.lanes o.data o.bytes)) = false →
      Performs (.vgat o) s { v := [o.data] } 0 0 fun t => ∀ j, j < n →
        laneOf (8 * o.bytes) (t.me.getV o.data) j = leNat (s.peekBytes (scratchLoc c (off j)) o.bytes))
    ∧ ((∀ j, j < n → s.locate c .write (s.laneAddr o j) o.bytes = .own (off j)) →
      s.mustWait c s.cur.2 ((List.range n).map fun j => want s (puts j) .none) = false →
      ∃ t, exec (.vsct o) s = .next t ∧ t.me.pc = s.me.pc + 8 ∧ (∀ r, t.me.getG r = s.me.getG r) ∧ (∀ r, t.me.getV r = s.me.getV r)
        ∧ ∀ a, t.peek a = ((List.range n).foldl (fun u j => u.pokeBytes (scratchLoc c (off j)) (data j)) s).peek a)

/-- Loads, stores, gathers and scatters in the own scratchpad complete at once, in their frame. -/
def Obligations.OwnScratchpadAccesses : Prop := Claims.OwnLoads ∧ Claims.OwnStores ∧ Claims.OwnGatherScatter

/-- R272, R273, R276: an atomic on the own scratchpad reads the old value into its register and stores what its operation gives on it
(a `cas` that does not match stores nothing); a reduction stores alike and writes no register and no flag. -/
def Obligations.OwnAtomics : Prop :=
  ∀ (o : OpM) (s : State) (off : Nat), MemoryWf s → (s.baseAddr o).toNat % o.bytes = 0 → wholeElement o.ety →
    let loc := scratchLoc s.cur.1 off
    let old := s.peekBytes loc o.bytes
    let x := (s.readG o.index).toNat
    let y := (s.readG o.data).toNat
    let d : Dest := .g o.data (if o.ety = .i32 then .i32 else .n64)
    let new (op : AOp) := (atomicOp op o.ety x y old).1
    let stores (r : Option (List Byte)) (t : State) : Prop := ∀ i, i < o.bytes → t.peek (loc + i) = (r.getD old).getD i 0
    let amo (i : Instr) (op : AOp) : Prop :=
      OwnReady s (OpM.access o (.amo op o.ety x y) (s.baseAddr o) o.bytes) d off (new op).isSome →
      Performs i s { g := [o.data], flags := true } loc o.bytes fun t =>
        stores (new op) t ∧ gotG t o.data (loadValue (if o.ety = .i32 then .i32 else .n64) old)
        ∧ t.me.fflags = s.me.fflags ||| (atomicOp op o.ety x y old).2
    let red (i : Instr) (op : AOp) : Prop :=
      OwnReady s (OpM.access o (.red op o.ety x) (s.baseAddr o) o.bytes) .none off (atomicOp op o.ety x 0 old).1.isSome →
      Performs i s {} loc o.bytes fun t => stores (atomicOp op o.ety x 0 old).1 t
    amo (.amoAdd o) .add ∧ amo (.amoAnd o) .and ∧ amo (.amoOr o) .or ∧ amo (.amoXor o) .xor ∧ amo (.amoMin o) .min
    ∧ amo (.amoMax o) .max ∧ amo (.amoSwap o) .swap ∧ amo (.amoCas o) .cas
    ∧ red (.redAdd o) .add ∧ red (.redAnd o) .and ∧ red (.redOr o) .or ∧ red (.redXor o) .xor ∧ red (.redMin o) .min
    ∧ red (.redMax o) .max

/-! ## Accesses that leave the core (R241, R245, R256 to R265, R271) -/

/-- A load, store, atomic, reduction or remote load of an address outside the own scratchpad becomes one message to the units that
hold it: at once, or for a release when what came before is answered. A remote load to a mailbox register makes it await. -/
def Obligations.RemoteAccesses : Prop :=
  ∀ (o : OpM) (s : State) (ts : List Target),
    let e := s.ea o
    let b := s.baseAddr o
    let x := (s.readG o.index).toNat
    let y := (s.readG o.data).toNat
    let d : Dest := .g o.data (if o.ety = .i32 then .i32 else .n64)
    let sends (i : Instr) (a : Access) (d : Dest) : Prop := SendReady s a d ts → Sends i s a d ts
    let amo (i : Instr) (op : AOp) : Prop := b.toNat % o.bytes = 0 → sends i (OpM.access o (.amo op o.ety x y) b o.bytes) d
    let red (i : Instr) (op : AOp) : Prop := b.toNat % o.bytes = 0 → sends i (OpM.access o (.red op o.ety x) b o.bytes) .none
    ((o.order ≠ .plain → e.toNat % o.size = 0) →
      sends (.ld o) (OpM.access o .load e o.size) (.g o.data o.ety)
      ∧ sends (.vld o) (OpM.access o .load e o.size) (if o.shape = 1 then .v o.data else .pair o.data)
      ∧ sends (.st o) (OpM.access o .store e o.size (s.storeData o)) .none
      ∧ sends (.vst o) (OpM.access o .store e o.size (s.storeData o)) .none)
    ∧ amo (.amoAdd o) .add ∧ amo (.amoAnd o) .and ∧ amo (.amoOr o) .or ∧ amo (.amoXor o) .xor ∧ amo (.amoMin o) .min
    ∧ amo (.amoMax o) .max ∧ amo (.amoSwap o) .swap ∧ amo (.amoCas o) .cas
    ∧ red (.redAdd o) .add ∧ red (.redAnd o) .and ∧ red (.redOr o) .or ∧ red (.redXor o) .xor ∧ red (.redMin o) .min
    ∧ red (.redMax o) .max
    ∧ (o.shape = 0 → (s.myCore.mail o.data).pres = false → (s.myCore.mail o.data).await = false → e.toNat % 8 = 0 →
        SendReady s (OpM.access o .rld e 8) (.x o.data) ts →
        Sends (.rld o) s (OpM.access o .rld e 8) (.x o.data) ts
        ∧ ∃ t, exec (.rld o) s = .next t ∧ (t.myCore.mail o.data).await = true)
    ∧ (o.shape ≠ 0 → e.toNat % o.size = 0 → sends (.rld o) (OpM.access o .rld e o.size) (if o.shape = 1 then .v o.data else .pair o.data))

/-- R264, R270, R277: a multicast store sends one store to each replica that its mask names, and none with mask 0; `sclose` passes when
the stream's stores are acknowledged and no failure is held, and waits for them otherwise; a prefetch changes no register and
no memory. -/
def Obligations.MulticastCloseAndPrefetch : Prop :=
  ∀ (o : OpM) (s : State) (ts : Nat → List Target),
    let a := s.baseAddr o
    let m := s.readG o.index
    let pkgs := decide (o.scale = 1)
    let acc (j : Nat) := OpM.access o .store (replica pkgs a j) o.size (s.storeData o)
    let js := (List.range 64).filter m.getLsbD
    let ok : Prop := a.toNat / 2 ^ 56 = 0xFD ∧ (pkgs = true ∨ m.toNat < 256) ∧ (o.order ≠ .plain → a.toNat % o.size = 0)
    let casts (i : Instr) : Prop :=
      (m = 0 → s.me.failures = [] → exec i s = .next (s.retire 1))
      ∧ (m ≠ 0 → o.stream = 0 → s.me.failures = [] → Map.get? s.me.progress s.me.level = none →
          s.mustWait s.cur.1 s.cur.2 (js.map fun j => want s (acc j) .none) = false →
          (∀ j ∈ js, ts j ≠ [] ∧ s.locate s.cur.1 .write (replica pkgs a j) o.size = .remote (ts j)) →
          ∃ t ms, exec i s = .next t ∧ t.msgs = s.msgs ++ ms ∧ ms.map (fun k => k.2.body) = js.map (fun j => Body.access (acc j) (ts j))
            ∧ t.me.pc = s.me.pc + 8 ∧ (∀ r, t.me.getG r = s.me.getG r) ∧ ∀ l, t.peek l = s.peek l)
    (ok → casts (.stm o) ∧ casts (.vstm o))
    ∧ (let left := if o.stream = 0 then s.unackedAll s.cur.1 s.cur.2 else s.unacked s.cur.1 s.cur.2 o.stream.toNat
       (left ≠ 0 → Stalls (.sclose o) s)
       ∧ (left = 0 → s.me.failureFor o.stream.toNat = none → Goes (.sclose o) s (s.retire 1)))
    ∧ ∃ t, exec (.pref o) s = .next t ∧ t.me.pc = s.me.pc + 8 ∧ (∀ r, t.me.getG r = s.me.getG r) ∧ (∀ r, t.me.getV r = s.me.getV r)
        ∧ t.msgs = s.msgs ∧ ∀ l, t.peek l = s.peek l

/-! ## Threads (R119 to R121) -/

/-- R119 to R121: `hstart` is for the control context: the lowest Free helper starts at the address with the argument in g3, every
other register zero, at application level, and its number is the result; with none Free the result is 0. `hstop` and `fdone`
end a helper's thread once its loads are complete; in the control context, or in the other kind of thread, they fault. `yield`
goes on and gives up its claim, until the others that are Ready have issued, or for eleven cycles. -/
def Obligations.ThreadsStartAndEnd : Prop :=
  ∀ (o : OpA) (s : State),
    let c := s.cur.1
    let t := s.readG o.a
    (s.cur.2 ≠ 0 → exec (.hstart o) s = .next (s.raise 0x05))
    ∧ (s.cur.2 = 0 → t.toNat % 8 ≠ 0 → exec (.hstart o) s = .next (s.raise 0x03 { addr := t }))
    ∧ (s.cur.2 = 0 → t.toNat % 8 = 0 → s.myCore.freeHelper = none → PutsG (.hstart o) s o.d 0)
    ∧ (∀ h, s.cur.2 = 0 → t.toNat % 8 = 0 → s.myCore.freeHelper = some h → Fires (.hstart o) s fun u =>
        Answered 1 [o.d] s u ∧ gotG u o.d (BitVec.ofNat 64 h)
        ∧ (u.ctx c h).run = .ready ∧ (u.ctx c h).pc = t ∧ (u.ctx c h).level = .app ∧ (u.ctx c h).hown = true
        ∧ (u.ctx c h).getG 3 = s.readG o.b ∧ (∀ r, r ≠ 3 → (u.ctx c h).getG r = 0) ∧ (∀ r, (u.ctx c h).getV r = 0)
        ∧ (∀ k, k ≠ 0 → (u.ctx c h).getK k = 0))
    ∧ ((s.cur.2 = 0 ∨ s.me.firing.isSome) → exec (.hstop o) s = .next (s.raise 0x05))
    ∧ ((s.cur.2 = 0 ∨ s.me.hown = true) → exec (.fdone o) s = .next (s.raise 0x05))
    ∧ (s.cur.2 ≠ 0 → s.me.firing = none →
        (s.loadsDone c s.cur.2 = true → Fires (.hstop o) s fun u => Issued 1 s u ∧ u.me.run = .free ∧ u.me.hown = false)
        ∧ (s.loadsDone c s.cur.2 = false → Stalls (.hstop o) s))
    ∧ (s.cur.2 ≠ 0 → s.me.hown = false →
        (s.loadsDone c s.cur.2 = true → Fires (.fdone o) s fun u => Issued 1 s u ∧ u.me.run = .free ∧ u.me.firing = none)
        ∧ (s.loadsDone c s.cur.2 = false → Stalls (.fdone o) s))
    ∧ Fires (.yield o) s fun u => Issued 1 s u ∧ u.me.run = s.me.run ∧ u.me.yieldFor = s.readyOthers ∧ Frame {} (s.modMe fun x =>
        { x with since := if s.readyOthers = [] then s.cycle else s.cycle + 11, yieldFor := s.readyOthers }) u

/-! ## Mailboxes (R122 to R131, R320) -/

/-- R124 to R128: a `post` becomes one message to the core its register names. The mailbox instructions act after steps 1 to 3 of the
mailbox's cycle, which do nothing where no post is held and nobody waits: `xget` takes a present value and clears the present
bit, faults on an error word and waits for an absent one; `xtry` and `xpeek` say at once what the register holds, and `xtry`
takes it. Nothing else of the context changes. -/
def Obligations.MailboxInstructions : Prop :=
  ∀ (o : OpA) (s : State),
    let c := s.cur.1
    let n := s.readG o.a
    let t := CoreId.virt c.pid n.toNat
    let q := s.mailCycle c
    let m := q.myCore.mail o.a
    let takes (u : State) : Prop := (u.myCore.mail o.a).pres = false ∧ ∀ x, x ≠ o.a → u.myCore.mail x = q.myCore.mail x
    (n.toNat < 2 ^ 20 → c.isVirt = true → s.hasCore t = true → s.hasRoute c.estate t.estate = true →
      (s.fabricHolds c t.estate = false → s.unacked c s.cur.2 0 < 256 → s.unackedAll c s.cur.2 < 1024 →
        Fires (.post o) s fun u => Issued 1 s u ∧ ∃ k, u.msgs = s.msgs ++ [(s.nextId, k)] ∧ k.core = c ∧ k.ctx = s.cur.2
          ∧ k.body = .post t o.d (s.readG o.b) ∧ k.stage = .unsent ∧ k.after = s.before c s.cur.2 0)
      ∧ ((s.fabricHolds c t.estate = true ∨ 256 ≤ s.unacked c s.cur.2 0 ∨ 1024 ≤ s.unackedAll c s.cur.2) → Stalls (.post o) s))
    ∧ ((2 ^ 20 ≤ n.toNat ∨ c.isVirt = false ∨ s.hasCore t = false) → exec (.post o) s = .next (s.raise 0x07 { addr := n }))
    ∧ (s.myCore.hold = [] → s.overflow c = [] → (∀ k a, (s.ctx c k).run ≠ .waiting (.xget a)) → q = s)
    ∧ (m.pres = false →
        exec (.xget o) s = .next (q.modMe fun x => { x with run := .waiting (.xget o), icount := x.icount + 1 })
        ∧ exec (.xtry o) s = .next ((q.writeG o.b 0).retire 1) ∧ exec (.xpeek o) s = .next ((q.writeG o.b 0).retire 1))
    ∧ (m.pres = true → m.err = true → exec (.xget o) s = .next (q.raise 0x12 { r4 := m.value }))
    ∧ (m.pres = true → m.err = false → Fires (.xget o) s fun u => Answered 1 [o.d] q u ∧ gotG u o.d m.value ∧ takes u)
    ∧ (m.pres = true → Fires (.xtry o) s fun u => Answered 1 [o.d, o.b] q u ∧ gotG u o.b (if m.err then 2 else 1)
        ∧ (o.d ≠ o.b → gotG u o.d m.value) ∧ takes u)
    ∧ (m.pres = true → exec (.xpeek o) s = .next (((q.writeG o.d m.value).writeG o.b (if m.err then 2 else 1)).retire 1))

/-- R124 to R126, R320, R396: a post leaves when what it waits for is answered. Once its flits are over the link, at its core it fills a free register, or enters the hold
queue; behind an overflow that is in use, or with the queue full, it enters the overflow or is refused for 64 cycles; a fenced
core discards it. A held post fills its register once that is free. A post held for 1,000,000 cycles is reported once. -/
def Obligations.PostDelivery : Prop :=
  (∀ (s : State) (id : Nat) (m : Msg) (c : CoreId) (x : Reg) (v : Word), Map.get? s.msgs id = some m → m.body = .post c x v →
    let k := s.core c
    let open_ : Prop := s.unitHolds (coreUnit c) = false ∧ s.isFenced c = false
    (m.stage = .unsent → s.cleared m = true → Fires (.postSend id) s fun t => Map.get? t.msgs id = some { m with stage := .sent })
    ∧ (m.stage = .sent → s.flown (.msg id) = false → exec (.postArrival id) s = .next s)
    ∧ (m.stage = .sent → s.flown (.msg id) = true →
      (open_ → s.overflow c = [] → k.mailFree x = true →
        (∀ n o, (s.ctx c n).run = .waiting (.xget o) → o.a ≠ x) →
        Fires (.postArrival id) s fun t => ((t.core c).mail x).pres = true ∧ ((t.core c).mail x).err = false
          ∧ ((t.core c).mail x).value = v ∧ Map.get? t.msgs id = some { m with stage := .done 0 })
      ∧ (open_ → s.overflow c = [] → k.mailFree x = false → k.hold.length < 16 →
        Fires (.postArrival id) s fun t => (t.core c).mail x = k.mail x ∧ ∃ h, (t.core c).hold = k.hold ++ [h]
          ∧ h.x = x ∧ h.value = v ∧ h.since = s.cycle ∧ Map.get? t.msgs id = some { m with stage := .done 0 })
      ∧ (open_ → (s.overflow c ≠ [] ∨ k.takesPost x = false) →
        exec (.postArrival id) s = .next (s.setStage id (if (s.overflow c).length < 64 then .held else .refused (s.cycle + 64))))
      ∧ (s.unitHolds (coreUnit c) = false → s.isFenced c = true → exec (.postArrival id) s = .next ((s.countMet c).setStage id (.done 4)))
      ∧ (s.unitHolds (coreUnit c) = true → exec (.postArrival id) s = .next (s.hold id (coreUnit c))))
    ∧ (∀ n, m.stage = .refused n → n ≤ s.cycle → exec (.overflowPostResend id) s = .next (s.setStage id .sent)))
  ∧ ∀ (s : State) (c : CoreId) (x : Reg) (h : HeldPost),
    let k := s.core c
    ((k.mail x).pres = false → (k.mail x).await = false → (k.hold.find? fun p => p.x == x) = some h → s.overflow c = [] →
      (∀ n o, (s.ctx c n).run = .waiting (.xget o) → o.a ≠ x) →
      Fires (.heldPostApply c x) s fun t => (t.core c).mail x = { value := h.value, pres := true, snap := h.snap }
        ∧ (t.core c).hold = k.hold.erase h)
    ∧ (h ∈ k.hold → h.reported = false → h.since + 1000000 ≤ s.cycle →
      Fires (.mailboxOverrunReport c) s fun t => (t.part c.pid).snotice = (s.part c.pid).snotice ||| 4
        ∧ ∀ p ∈ (t.core c).hold, p.since + 1000000 ≤ s.cycle → p.reported = true)

/-! ## Class 0x8 (R310, R311, R322 to R327) -/

/-- R31, R32, R270, R282, R322 to R325, R400: `ins` reads a tile from the own scratchpad and enters it in the insert buffer with its
home bank and the clocks that its release publishes, the context's vector and counters as they stand, at scope `.dom`; in round mode a
firing's insertions take the places of their thread's share in turn, and one past the share faults. `ins.grant` enters it for the
grant's consumer and estate, and faults without a valid grant that takes its class. A tile of class 0 is illegal. No register changes.
A full insert buffer, or a reconfiguration that holds a legal tile that would go to another estate, makes the context wait at issue;
that a failure record held is delivered first is a choice of the model (log 60). -/
def Obligations.Insertions : Prop :=
  ∀ (o : OpM) (s : State),
    let a := s.ea o
    let p := s.pid
    let img := lineOfBytes (ownBytes s a 64)
    let full := (match s.place s.cur.1 with
      | some q => decide (32 ≤ (s.bufferOf q).length)
      | none => false)
    let n := s.readG o.data
    let g := s.myPart.grants.get 0 n.toNat
    let granted : Prop := n.toNat < 16 ∧ g.getLsbD 22 = true ∧ tileClass img &&& (g.toNat / 2 ^ 48) = g.toNat / 2 ^ 32 % 65536
    let to_ := (s.bankAt p (s.homeOf p (tileKey0 img))).map fun b => b.2.2
    let dest := g.toNat / 65536 % 64
    let held (e : Nat) := s.fabricHolds s.cur.1 e
    let insHeld : Prop := tileClass img ≠ 0 ∧ to_.any held = true
    let grantHeld : Prop := tileClass img ≠ 0 ∧ granted ∧ held dest = true
    -- the state once the tile has been read
    let q := (s.ownRead a 64).2.2
    let enters (i : Instr) (ok : Insert → Prop) : Prop := Fires i s fun u => Issued 1 s u
      ∧ (u.part p).insflight = ((s.part p).insflight + 1) % 2 ^ 32
      ∧ ∃ id x, u.inserts = s.inserts ++ [(id, x)] ∧ x.core = s.cur.1 ∧ x.ctx = s.cur.2 ∧ x.buf = s.place s.cur.1
        ∧ x.keep = (o.ty == 1) ∧ x.stage = .waiting ∧ x.after = s.before s.cur.1 s.cur.2 0
        ∧ x.snap = some { pid := p, who := partyOf s.cur.1 s.cur.2, ents := s.me.clk, own := s.counters s.cur.1 s.cur.2, scope := .dom }
        ∧ ok x
    (a.toNat / 2 ^ 19 ≠ 0xFC * 2 ^ 37 → exec (.ins o) s = .next (s.raise 0x06 { addr := a })
      ∧ exec (.insGrant o) s = .next (s.raise 0x06 { addr := a }))
    ∧ (a.toNat / 2 ^ 19 = 0xFC * 2 ^ 37 → a.toNat % 64 ≠ 0 → exec (.ins o) s = .next (s.raise 0x0A { addr := a })
      ∧ exec (.insGrant o) s = .next (s.raise 0x0A { addr := a }))
    ∧ (a.toNat / 2 ^ 19 = 0xFC * 2 ^ 37 → a.toNat % 64 = 0 →
        (full = true ∨ insHeld → Stalls (.ins o) s)
        ∧ (full = true ∨ grantHeld → Stalls (.insGrant o) s)
        ∧ ∀ f, full = false → s.me.failureFor 0 = some f →
          (¬insHeld → exec (.ins o) s = .next (s.deliverFailure f))
          ∧ (¬grantHeld → exec (.insGrant o) s = .next (s.deliverFailure f)))
    ∧ (ReadsOwn s a 64 → full = false → s.me.failureFor 0 = none →
        (tileClass img = 0 → exec (.ins o) s = .next (q.raise 0x16 { addr := a, r4 := tileHead0 img })
          ∧ exec (.insGrant o) s = .next (q.raise 0x16 { addr := a, r4 := tileHead0 img }))
        ∧ (tileClass img ≠ 0 → to_.any held = false →
          (s.roundFiring = none → enters (.ins o) fun x => x.img = tileMarks img false false ∧ x.pid = p
            ∧ x.home = some (s.homeOf p (tileKey0 img)) ∧ x.rank = .other)
          ∧ (∀ f, s.roundFiring = some f → s.me.inserted < (s.share f).2 → enters (.ins o) fun x =>
            x.img = tileMarks img false false ∧ x.pid = p ∧ x.home = some (s.homeOf p (tileKey0 img))
            ∧ x.rank = .firing f.bank f.fnum ((s.share f).1 + s.me.inserted))
          ∧ (∀ f, s.roundFiring = some f → (s.share f).2 ≤ s.me.inserted →
            exec (.ins o) s = .next (q.raise 0x17 { addr := a, r4 := tileHead0 img })))
        ∧ (tileClass img ≠ 0 → ¬granted → exec (.insGrant o) s = .next (q.raise 0x18 { addr := a, r4 := n }))
        ∧ (tileClass img ≠ 0 → granted → held dest = false →
          (s.hasRoute s.cur.1.estate dest = true → enters (.insGrant o) fun x =>
            x.img = tileMarks img true true ∧ x.pid = g.toNat % 65536 ∧ x.home = none ∧ x.dest = dest)
          ∧ (s.hasRoute s.cur.1.estate dest = false → exec (.insGrant o) s = .next (q.raise 0x09 { addr := a }))))

/-- R326, R327: outside a round-mode firing, `probe` and `take` send their pattern and key to the home bank of the key under a
request tag; a `probe`'s result registers are pending, and a `take` holds its context until it is answered. They wait where no
tag is free, a `take` also for an older access to its image (R235), and in a round-mode firing they fault. -/
def Obligations.BankRequests : Prop :=
  ∀ (o : OpA) (s : State) (e : Nat × Nat × Nat),
    let p := s.readG o.d
    let key := s.readG o.b
    let room : Prop := s.fabricHolds s.cur.1 e.2.2 = false ∧ s.loadsOut s.cur.1 s.cur.2 < 16 ∧ s.freeTags s.cur.1 ≠ []
    let sends (i : Instr) (b : Body) (ok : State → Prop) : Prop := Fires i s fun u => Issued 1 s u ∧ ok u
      ∧ ∃ m, u.msgs = s.msgs ++ [(s.nextId, m)] ∧ m.core = s.cur.1 ∧ m.ctx = s.cur.2 ∧ m.body = b ∧ m.stage = .sent
        ∧ m.tag = (s.freeTags s.cur.1).head?
    let slot : Prop := p.toNat / 2 ^ 19 = 0xFC * 2 ^ 37 ∧ p.toNat % 64 = 0
    (s.roundFiring.isSome → exec (.probe o) s = .next (s.raise 0x19) ∧ (slot → exec (.take o) s = .next (s.raise 0x19)))
    ∧ (p.toNat / 2 ^ 19 ≠ 0xFC * 2 ^ 37 → exec (.take o) s = .next (s.raise 0x06 { addr := p }))
    ∧ (s.roundFiring = none → s.bankAt s.pid (s.homeOf s.pid (key.toNat % 2 ^ 32)) = some e →
        s.hasRoute s.cur.1.estate e.2.2 = true →
        (room → sends (.probe o) (.probe (s.readG o.a) key o.d o.c) fun u =>
            u.me.pend = s.me.pend ++ (probeRefs o.d o.c).map fun r => (r, s.nextId))
        ∧ (¬room → Stalls (.probe o) s)
        ∧ (slot → room → s.ownBusy p 64 = false → sends (.take o) (.take (s.readG o.a) key p) fun u => u.me.holdOn = s.me.holdOn ++ [s.nextId])
        ∧ (slot → (¬room ∨ s.ownBusy p 64 = true) → Stalls (.take o) s))

/-- R308 to R311: `rset` above application level writes a rule entry from 64 bytes of the own scratchpad: 0 when it does, 1 for an
image that is not well formed and 2 for an index past the table, with nothing written; at application level it faults. `rget`
stores an entry's image and answers its valid bit. -/
def Obligations.RuleTable : Prop :=
  ∀ (o : OpA) (s : State),
    let q := (s.readG o.a).toNat
    let p := s.readG o.b
    let img := lineOfBytes (ownBytes s p 64)
    let entry := s.myPart.rules.get 0 q
    let loc := scratchLoc s.cur.1 (p.toNat % 2 ^ 19)
    let slot : Prop := p.toNat / 2 ^ 19 = 0xFC * 2 ^ 37 ∧ p.toNat % 64 = 0
    (s.me.level = .app → exec (.rset o) s = .next (s.raise 0x02))
    ∧ (¬slot → exec (.rget o) s = .next (s.raise 0x06 { addr := p }))
    ∧ (s.me.level ≠ .app → ¬slot → exec (.rset o) s = .next (s.raise 0x06 { addr := p }))
    ∧ (s.me.level ≠ .app → ReadsOwn s p 64 →
        (256 ≤ q → Fires (.rset o) s fun u => Answered 1 [o.d] s u ∧ gotG u o.d 2 ∧ (u.part s.pid).rules = s.myPart.rules)
        ∧ (q < 256 → Rule.v img = true → Rule.ok img = false → Fires (.rset o) s fun u => Answered 1 [o.d] s u ∧ gotG u o.d 1
          ∧ (u.part s.pid).rules = s.myPart.rules)
        ∧ (q < 256 → (Rule.v img = true → Rule.ok img = true) → Fires (.rset o) s fun u => Answered 1 [o.d] s u ∧ gotG u o.d 0
          ∧ (u.part s.pid).rules.get 0 q = img ∧ ∀ n, n ≠ q → (u.part s.pid).rules.get 0 n = s.myPart.rules.get 0 n))
    ∧ (slot → 256 ≤ q → PutsG (.rget o) s o.d 2)
    ∧ (slot → q < 256 → MemoryWf s → s.ownBusy p 64 = false → ownQuiet s { kind := .store, addr := p, size := 64, data := lineBytes entry } true →
        Fires (.rget o) s fun u => gotG u o.d (if Rule.v entry then 1 else 0) ∧ u.me.pc = s.me.pc + 8
          ∧ (∀ r, r ≠ o.d → u.me.getG r = s.me.getG r) ∧ (∀ i, i < 64 → u.peek (loc + i) = (lineBytes entry).getD i 0)
          ∧ ∀ l, l < loc ∨ loc + 64 ≤ l → u.peek l = s.peek l)

/-! ## Class 0x9: commands are queued (R329 to R341) -/

/-- R96 to R99, R329, R330, R334 to R341: a copy-engine instruction whose checks pass enters one command in the core's queue, with its
operands read and its wait clause pending, and changes no register and no byte; a full queue makes the context wait at issue; a
command past its limits faults and queues nothing, but that a route to another estate is not looked up while a reconfiguration runs
(R400). A linked pair is one instruction of four words whose `mmac` waits with its copy, and whose checks fault and wait as those of
the two do. -/
def Obligations.CopyCommands : Prop :=
  ∀ (o : OpE) (s : State),
    let c := s.cur.1
    let d := s.readG o.d
    let a := s.readG o.a
    let n := (s.readG o.b).toNat
    let room : Prop := s.myCore.queued < 96
    let queues (i : Instr) (words : Nat) (kind : CKind) (dst src : Word) (len : Nat) (link : Option MReq → Prop) : Prop :=
      Fires i s fun u => Issued words s u ∧ ∃ id y, u.myCore.cmds = s.myCore.cmds ++ [(id, y)] ∧ y.ctx = s.cur.2 ∧ y.kind = kind
        ∧ y.dst = dst ∧ y.src = src ∧ y.len = len ∧ y.w = o.w ∧ y.passed = (o.w.wThr == 0) ∧ y.running = false ∧ link y.link
    let none_ : Option MReq → Prop := (· = none)
    let faults (i : Instr) (f : Nat) (x : Word) : Prop :=
      if f = 0x09 ∧ s.fabricHolds c (x.toNat / 2 ^ 42 % 64) = true then Stalls i s else exec i s = .next (s.raise f { addr := x })
    let checked (i : Instr) (bad : Bool) (rs : List (Word × Nat)) (go : Prop) : Prop :=
      (bad = true → exec i s = .next (s.raise 0x1E))
      ∧ (∀ f x, bad = false → s.rangesFault c rs = some (f, x) → faults i f x)
      ∧ (bad = false → s.rangesFault c rs = none → (room → go) ∧ (¬room → Stalls i s))
    checked (.cpy o) (decide (2 ^ 40 ≤ n)) [(a, n), (d, n)] (queues (.cpy o) 2 .cpy d a n none_)
    ∧ checked (.cpyFill o) (decide (2 ^ 40 ≤ n)) [(d, n)] (queues (.cpyFill o) 2 .fill d 0 n none_)
    ∧ (let src := if o.a = 0 then d else a
       checked (.cpyStamp o) (decide (2 ^ 24 < n ∨ d.toNat % 64 ≠ 0 ∨ src.toNat % 64 ≠ 0)) [(src, 64 * n), (d, 64 * n)]
        (queues (.cpyStamp o) 2 .stamp d src (64 * n) none_))
    ∧ (room → queues (.cnop o) 2 .nop 0 0 0 none_) ∧ (¬room → Stalls (.cnop o) s)
    ∧ (let own : Prop := d.toNat / 2 ^ 19 = 0xFC * 2 ^ 37
       let p := s.me.cdealpat
       let bad : Prop := 2 ^ 40 ≤ n ∨ dealMembers p = [] ∨ 10 < (p.extractLsb' 16 4).toNat ∨ p.extractLsb' 20 44 ≠ 0
       let out : Prop := ¬own ∨ 2 ^ 19 < dealTop p d n
       let ok : Prop := n < 2 ^ 40 ∧ dealMembers p ≠ [] ∧ (p.extractLsb' 16 4).toNat ≤ 10 ∧ p.extractLsb' 20 44 = 0 ∧ own
         ∧ dealTop p d n ≤ 2 ^ 19 ∧ s.rangesFault c [(a, n)] = none ∧ c.block.isSome
       (bad → exec (.cpyDeal o) s = .next (s.raise 0x1E))
       ∧ (¬bad → out → exec (.cpyDeal o) s = .next (s.raise 0x06 { addr := d }))
       ∧ (∀ f x, ¬bad → ¬out → s.rangesFault c [(a, n)] = some (f, x) → faults (.cpyDeal o) f x)
       ∧ (¬bad → ¬out → s.rangesFault c [(a, n)] = none → c.block = none → exec (.cpyDeal o) s = .next (s.raise 0x1E))
       ∧ (ok → room → queues (.cpyDeal o) 2 (.deal p) d a n none_) ∧ (ok → ¬room → Stalls (.cpyDeal o) s))
    ∧ (let own : Prop := d.toNat / 2 ^ 19 = 0xFC * 2 ^ 37
       let m := s.readG o.c
       let bad : Prop := 2 ^ 19 < n ∨ m = 0 ∨ 2 ^ 16 ≤ m.toNat
       let out : Prop := ¬own ∨ 2 ^ 19 < d.toNat % 2 ^ 19 + n
       let ok : Prop := n ≤ 2 ^ 19 ∧ m ≠ 0 ∧ m.toNat < 2 ^ 16 ∧ own ∧ d.toNat % 2 ^ 19 + n ≤ 2 ^ 19
         ∧ s.rangesFault c [(a, n)] = none ∧ c.block.isSome
       (bad → exec (.cpyMc o) s = .next (s.raise 0x1E))
       ∧ (¬bad → out → exec (.cpyMc o) s = .next (s.raise 0x06 { addr := d }))
       ∧ (∀ f x, ¬bad → ¬out → s.rangesFault c [(a, n)] = some (f, x) → faults (.cpyMc o) f x)
       ∧ (¬bad → ¬out → s.rangesFault c [(a, n)] = none → c.block = none → exec (.cpyMc o) s = .next (s.raise 0x1E))
       ∧ (ok → room → queues (.cpyMc o) 2 (.mc m.toNat) d a n none_) ∧ (ok → ¬room → Stalls (.cpyMc o) s))
    ∧ (let rec_ (r : Word) : Prop := r.toNat / 2 ^ 19 = 0xFC * 2 ^ 37 ∧ r.toNat % 128 = 0
       let src := shapeOf (ownBytes s (s.readG o.b) 128)
       let dst := shapeOf (ownBytes s (s.readG o.c) 128)
       -- the state once the records have been read
       let q := (s.ownRead (s.readG o.b) 128).2.2
       let q2 := (q.ownRead (s.readG o.c) 128).2.2
       let stops (u : State) (f : Nat) (x : Word) : Prop :=
         exec (.cpyt o) s = .next (if f = 0x09 ∧ u.fabricHolds u.cur.1 (x.toNat / 2 ^ 42 % 64) = true then u.stall else u.raise f { addr := x })
       let ends (u : State) (far : Word × Nat) (misfit : Prop) : Prop :=
         (misfit → exec (.cpyt o) s = .next (u.raise 0x1E))
         ∧ (∀ f x, ¬misfit → u.rangesFault u.cur.1 [walkRange src a, far] = some (f, x) → stops u f x)
         ∧ (¬misfit → u.rangesFault u.cur.1 [walkRange src a, far] = none → 96 ≤ u.myCore.queued → exec (.cpyt o) s = .next u.stall)
       (¬rec_ (s.readG o.b) ∨ (o.c ≠ 0 ∧ ¬rec_ (s.readG o.c)) → exec (.cpyt o) s = .next (s.raise 0x1E))
       ∧ (ReadsOwn s (s.readG o.b) 128 → (o.c ≠ 0 → rec_ (s.readG o.c) ∧ s.ownBusy (s.readG o.c) 128 = false) →
         (shapeOk (ownBytes s (s.readG o.b) 128) = false → exec (.cpyt o) s = .next (q.raise 0x1E))
         ∧ (shapeOk (ownBytes s (s.readG o.b) 128) = true →
           (o.c = 0 → ends q (d, src.length) (2 ^ 40 ≤ src.length))
           ∧ (o.c ≠ 0 → ReadsOwn q (s.readG o.c) 128 →
             (shapeOk (ownBytes s (s.readG o.c) 128) = false → exec (.cpyt o) s = .next (q2.raise 0x1E))
             ∧ (shapeOk (ownBytes s (s.readG o.c) 128) = true →
               ends q2 (walkRange dst d) (2 ^ 40 ≤ src.length ∨ dst.length ≠ src.length))))))
    ∧ (let src := shapeOf (ownBytes s (s.readG o.b) 128)
       ReadsOwn s (s.readG o.b) 128 → shapeOk (ownBytes s (s.readG o.b) 128) = true → o.c = 0 → src.length < 2 ^ 40 →
       s.rangesFault c [walkRange src a, (d, src.length)] = none → room →
       queues (.cpyt o) 2 (.cpyt src none) d a src.length none_)
    ∧ (let src := shapeOf (ownBytes s (s.readG o.b) 128)
       let dst := shapeOf (ownBytes s (s.readG o.c) 128)
       ReadsOwn s (s.readG o.b) 128 → shapeOk (ownBytes s (s.readG o.b) 128) = true → o.c ≠ 0 →
       s.ownBusy (s.readG o.c) 128 = false →
       ReadsOwn (s.ownRead (s.readG o.b) 128).2.2 (s.readG o.c) 128 → shapeOk (ownBytes s (s.readG o.c) 128) = true →
       src.length < 2 ^ 40 → dst.length = src.length → s.rangesFault c [walkRange src a, walkRange dst d] = none → room →
       queues (.cpyt o) 2 (.cpyt src (some dst)) d a src.length none_)
    ∧ (∀ f x, s.slotFault o = some (f, x) → faults (.cpySlot o) f x)
    ∧ (s.slotFault o = none → room → queues (.cpySlot o) 2 (.slot (slotNo o)) 0 a 8192 none_)
    ∧ (s.slotFault o = none → ¬room → Stalls (.cpySlot o) s)
    ∧ ∀ (m : OpE) (set : Bool),
        (∀ f x, s.slotFault o = some (f, x) → faults (.cpySlotLink o m set) f x)
        ∧ ∀ b : BlockId, s.slotFault o = none → c.block = some b →
          let idle : Prop := ∀ x ∈ s.myCore.pendingAccs, x ≠ accOf m ∧ (fmtPair s.myCore.mfctx = true → x ≠ accOf m + 1)
          (s.holdsBoth b m = false → exec (.cpySlotLink o m set) s = .next (s.raise 0x1A))
          ∧ (s.holdsBoth b m = true → s.oddPair (accOf m) = true → exec (.cpySlotLink o m set) s = .next (s.raise 0x1B))
          ∧ (s.holdsBoth b m = true → s.oddPair (accOf m) = false →
            (¬idle ∨ ¬room → Stalls (.cpySlotLink o m set) s)
            ∧ (idle → room → queues (.cpySlotLink o m set) 4 (.slot (slotNo o)) 0 a 8192 fun l => ∃ r, l = some r
                ∧ r.op = .mmac set (aSlot m) (bSlot m) ∧ r.acc = accOf m ∧ r.w = m.w ∧ r.linked = true))

/-! ## Class 0xA (R186 to R206) -/

/-- R187, R200, R201: a claim takes the whole range of slots for the core, exclusive or shared, where each slot is free, held by the core
alone, or for a shared claim held shared; otherwise nothing is claimed, and the claim faults with the slot's number or, for a
`try`, answers 0. `mrel` gives the range back, and waits for what still uses it. -/
def Obligations.SlotClaims : Prop :=
  ∀ (o : OpE) (s : State) (b : BlockId), s.cur.1.block = some b →
    let m := numCore s.cur.1.num
    let ns := slotRange o.cmd
    let own (n : Nat) := (s.block b).claim n
    let can (sh : Bool) (c : Claim) : Bool := match c with
      | .free => true
      | .excl n => n == m
      | .shared ms => sh || ms == [m]
    let claimed (sh : Bool) (c : Claim) : Claim := if sh then .shared (match c with
      | .shared ms => if ms.contains m then ms else ms ++ [m]
      | _ => [m]) else .excl m
    let takes (sh : Bool) (u : State) : Prop := ∀ n, (u.block b).claim n = if n ∈ ns then claimed sh (own n) else own n
    let busy (sh : Bool) : Bool := sh && s.myCore.filling (ns.filter fun n => own n == .excl m) false
    let claims (i : Instr) (sh try_ : Bool) : Prop :=
      ((∀ n ∈ ns, can sh (own n) = true) → busy sh = false →
        Fires i s fun u => Answered 2 (if try_ then [o.d] else []) s u ∧ takes sh u ∧ (try_ = true → gotG u o.d 1))
      ∧ ((∀ n ∈ ns, can sh (own n) = true) → busy sh = true → Stalls i s)
      ∧ ∀ n, ns.find? (fun n => !can sh (own n)) = some n →
        if try_ then PutsG i s o.d 0 2 else exec i s = .next (s.raise 0x1F { r4 := BitVec.ofNat 64 n })
    claims (.mclaim o) false false ∧ claims (.mclaimSh o) true false ∧ claims (.mclaimTry o) false true
    ∧ claims (.mclaimShtry o) true true
    ∧ ((∃ n ∈ ns, (own n).holds m = false) → exec (.mrel o) s = .next (s.raise 0x1A))
    ∧ ((∀ n ∈ ns, (own n).holds m = true) →
        let used := s.myCore.filling ns true || s.myCore.reading ns
        (used = true → Stalls (.mrel o) s)
        ∧ (used = false → Fires (.mrel o) s fun u => Issued 2 s u
            ∧ ∀ n, (u.block b).claim n = if n ∈ ns then (own n).drop m else own n))

/-- R190, R191, R199, R202 to R206: on a core of a block, `mfmt` loads a valid format context; `mmac`, `mmac.set`, `mzero` and `mst` enter one
request with the accumulator, slots or addresses named and wait while the accumulator is pending; `macc` copies 64 bytes of an
accumulator to a vector register and answers how many steps it shows. A loose core faults. -/
def Obligations.MatrixRequests : Prop :=
  ∀ (o : OpE) (s : State),
    let c := s.cur.1
    let k := s.myCore
    let acc := accOf o
    let f := k.mfctx
    let idle (p : Bool) : Prop := ∀ x ∈ k.pendingAccs, x ≠ acc ∧ (p = true → x ≠ acc + 1)
    let asks (i : Instr) (op : MOp) (pair : Bool) : Prop := Fires i s fun u => Issued 2 s u ∧ ∃ r, u.myCore.mreqs = k.mreqs ++ [r]
      ∧ r.ctx = s.cur.2 ∧ r.op = op ∧ r.acc = acc ∧ r.pair = pair ∧ r.w = o.w ∧ r.passed = (if o.w.wThr = 0 then some s.cycle else none)
      ∧ r.started = false
    let base := s.readG o.d
    let st : Word := if o.a = 0 then BitVec.ofNat 64 (64 * ((fmtOut f).width / 8)) else s.readG o.a
    let w := if fmtPair f then 64 else 32
    let q := (s.readG o.b).toNat
    (c.block = none → ∀ i ∈ [Instr.mclaim o, .mclaimSh o, .mclaimTry o, .mclaimShtry o, .mrel o, .mfmt o, .mzero o, .mmac o,
        .mmacSet o, .macc o, .mst o], exec i s = .next (s.raise 0x1D))
    ∧ ∀ b, c.block = some b →
      (s.holdsBoth b o = false → exec (.mmac o) s = .next (s.raise 0x1A) ∧ exec (.mmacSet o) s = .next (s.raise 0x1A))
      ∧ (s.holdsBoth b o = true → s.oddPair acc = false →
          (idle (fmtPair f) → asks (.mmac o) (.mmac false (aSlot o) (bSlot o)) (fmtPair f)
            ∧ asks (.mmacSet o) (.mmac true (aSlot o) (bSlot o)) (fmtPair f))
          ∧ (¬idle (fmtPair f) → Stalls (.mmac o) s ∧ Stalls (.mmacSet o) s))
      ∧ (idle false → asks (.mzero o) .zero false) ∧ (¬idle false → Stalls (.mzero o) s)
      ∧ (s.oddPair acc = false → base.toNat % 64 = 0 → st.toNat % 64 = 0 → 64 * ((fmtOut f).width / 8) ≤ st.toNat → st.toNat < 2 ^ 32 →
          (idle (fmtPair f) → asks (.mst o) (.st base st) (fmtPair f)) ∧ (¬idle (fmtPair f) → Stalls (.mst o) s))
      ∧ (let x : Word := BitVec.ofNat 64 (leNat ((ownBytes s base 64).take 8))
         ReadsOwn s base 64 → (∀ r ∈ k.mreqs, r.started = true ∨ r.linked = true) → leNat ((ownBytes s base 64).drop 8) = 0 →
         fmtOk x = true → Fires (.mfmt o) s fun u => Issued 2 s u ∧ u.myCore.mfctx = x)
      ∧ (s.oddPair acc = false → q < (if fmtPair f then 512 else 256) → (∀ p ∈ k.mpoison, p ≠ acc ∧ (fmtPair f = true → p ≠ acc + 1)) →
          Runs (.macc o) s 2 { g := [o.a], v := [o.d] } fun u => gotG u o.a (BitVec.ofNat 64 (k.stepsSeen acc))
            ∧ ∀ t, t < 512 / w → laneOf w (u.me.getV o.d) t = s.peekNat (accLoc c acc (64 * q + t * (w / 8))) (w / 8))

/-! ## Class 0xB (R343 to R358) -/

/-- R344, R346 to R348, with nothing else waiting on the core's semaphores: `swait` takes its units when they are there and waits
otherwise; `stry` takes them or answers 0; `smrd` reads the count and `smset` sets its low 16 bits; `ssig` sends its signal, a
release once every earlier access is answered. -/
def Claims.SemaphoreInstructions : Prop :=
  ∀ (o : OpS) (s : State), SemQuiet s s.cur.1 → Awake s s.cur.1 s.cur.2 →
    let i := o.idx.toNat
    let n := o.count.toNat
    let count := (s.myCore.semOf i).count
    let others (u : State) : Prop := ∀ j, j ≠ i → u.myCore.semOf j = s.myCore.semOf j
    let left (u : State) (k : Nat) : Prop := (u.myCore.semOf i).count = k ∧ others u
    (n ≤ count → Fires (.swait o) s fun u => Issued 1 s u ∧ u.me.run = .ready ∧ left u (count - n))
    ∧ (count < n → Waits (.swait o) s)
    ∧ (n ≤ count → Fires (.stry o) s fun u => Answered 1 [o.d] s u ∧ gotG u o.d 1 ∧ left u (count - n))
    ∧ (count < n → Fires (.stry o) s fun u => Answered 1 [o.d] s u ∧ gotG u o.d 0 ∧ left u count)
    ∧ (Fires (.smrd o) s fun u => Answered 1 [o.d] s u ∧ gotG u o.d (BitVec.ofNat 64 count) ∧ left u count)
    ∧ (Fires (.smset o) s fun u => Issued 1 s u ∧ left u ((s.readG o.a).toNat % 65536)
        ∧ (u.myCore.semOf i).vec = (s.myCore.semOf i).vec)
    ∧ (o.order.releases = false → Fires (.ssig o) s fun u => Issued 1 s u
        ∧ u.myCore.sigs = [{ sm := i, inc := n, port := 2 }])
    ∧ (o.order.releases = true →
        (s.before s.cur.1 s.cur.2 0 ≠ [] → Stalls (.ssig o) s)
        ∧ (s.before s.cur.1 s.cur.2 0 = [] → s.me.failures = [] → Fires (.ssig o) s fun u => Issued 1 s u
            ∧ u.myCore.sigs = [{ sm := i, inc := n, port := 2, vec := some (s.snapshot s.cur.1 s.cur.2 o.scope) }]))

/-- R77, R343, R344: in a semaphore cycle every signal is added, a sum past 0xFFFF staying there; then a command's wait clause, and then
a waiting context, takes its units if they are there. -/
def Claims.SemaphoreCycle : Prop :=
  ∀ (s : State) (c : CoreId), s.blockHolds c.block = false →
    let k := s.core c
    (SemQuiet (s.modCore c fun k => { k with sigs := [] }) c → (∀ g ∈ k.sigs, g.port ≤ 2) →
      Fires (.semaphoreCycle c) s fun t => (t.core c).sigs = []
        ∧ ∀ i, ((t.core c).semOf i).count
            = if k.sigs.all (·.sm != i) then (k.semOf i).count
              else min 0xFFFF ((k.semOf i).count + ((k.sigs.filter (·.sm == i)).map (·.inc)).sum))
    ∧ (∀ id x, k.cmds = [(id, x)] → x.passed = false → k.mreqs = [] → k.sigs = [] → (∀ n o, (s.ctx c n).run ≠ .waiting (.swait o)) →
        s.isResident c = true → s.isFenced c = false →
        let i := x.w.wIdx.toNat
        (x.w.wThr ≠ 0 → x.w.wThr.toNat ≤ (k.semOf i).count → Fires (.semaphoreCycle c) s fun t =>
          (∃ y, (t.core c).cmds = [(id, y)] ∧ y.passed = true) ∧ ((t.core c).semOf i).count = (k.semOf i).count - x.w.wThr.toNat)
        ∧ ((k.semOf i).count < x.w.wThr.toNat → Fires (.semaphoreCycle c) s fun t => (t.core c).cmds = k.cmds
            ∧ (t.core c).semOf i = k.semOf i))
    ∧ ∀ n o, k.sigs = [] → k.cmds = [] → k.mreqs = [] → (s.ctx c n).run = .waiting (.swait o) →
        (∀ m p, m ≠ n → (s.ctx c m).run ≠ .waiting (.swait p)) → Awake s c n → o.count.toNat ≤ (k.semOf o.idx.toNat).count →
        Fires (.semaphoreCycle c) s fun t => (t.ctx c n).run = .ready ∧ (t.ctx c n).pc = (s.ctx c n).pc + 8
          ∧ ((t.core c).semOf o.idx.toNat).count = (k.semOf o.idx.toNat).count - o.count.toNat

/-- Semaphore instructions and the semaphore cycle. -/
def Obligations.Semaphores : Prop := Claims.SemaphoreInstructions ∧ Claims.SemaphoreCycle

/-- R350 to R353: `bar` counts its thread's arrival and waits; the arrival that completes the generation lets every member go on, and
the generation counts up. A thread that is no member, or one arrival too many, faults. `barcfg` sets members and arrivals while
the barrier is idle: 0 when it does, 1 while a generation has arrivals, 2 for a mask it may not hold. -/
def Obligations.Barriers : Prop :=
  ∀ (fld : Bool) (o : OpS) (s : State) (k : BarId), barOf s.cur.1 fld o.idx.toNat = some k → s.cur.1.isVirt = true →
    let b := s.barrier k
    let m := memberOf s.cur.1 fld
    let mine : Prop := b.per ≠ 0 ∧ b.mask.getLsbD m = true ∧ b.arr.get 0 m ≠ b.per
    let free : Prop := s.before s.cur.1 s.cur.2 0 = [] ∧ s.me.failures = []
    let same (u : State) : Prop := (∀ r, u.me.getG r = s.me.getG r) ∧ (∀ r, u.me.getV r = s.me.getV r) ∧ ∀ l, u.peek l = s.peek l
    (s.me.arrived = none →
      (¬mine → exec (.bar fld o) s = .next (s.raise 0x15 (b.excess k m)))
      ∧ (mine → s.before s.cur.1 s.cur.2 0 ≠ [] → Stalls (.bar fld o) s)
      ∧ (mine → free → b.total + 1 ≠ b.need → Fires (.bar fld o) s fun u => same u ∧ u.me.run = .waiting (.bar fld o)
          ∧ u.me.pc = s.me.pc ∧ u.me.arrived = some { fld := fld, idx := k.idx, gen := b.gen }
          ∧ (u.barrier k).total = b.total + 1 ∧ (u.barrier k).arr.get 0 m = b.arr.get 0 m + 1 ∧ (u.barrier k).gen = b.gen)
      ∧ (mine → free → b.mask ≠ 0 → b.total + 1 = b.need → Awake s s.cur.1 s.cur.2 → Fires (.bar fld o) s fun u => same u
          ∧ u.me.run = .ready ∧ u.me.pc = s.me.pc + 8 ∧ u.me.arrived = none ∧ (u.barrier k).total = 0
          ∧ (u.barrier k).gen = (b.gen + 1) % 65536))
    ∧ (∀ g, s.me.arrived = some { fld := fld, idx := k.idx, gen := g } → Waits (.bar fld o) s)
    ∧ (∀ g j, s.me.arrived = some { fld := fld, idx := k.idx, gen := g, done := some j } →
        Fires (.bar fld o) s fun u => Issued 1 s u ∧ u.me.arrived = none)
    ∧ (let mask := s.readG o.a
       let bad : Prop := mask = 0 ∨ (fld = false ∧ 2 ^ 16 ≤ mask.toNat) ∨ (fld = true ∧ ∃ u, mask.getLsbD u = true
         ∧ s.noSuchUnit s.pid (numEstate s.cur.1.num) (numField s.cur.1.num) u = true)
       (b.total ≠ 0 → PutsG (.barcfg fld o) s o.d 1)
       ∧ (b.total = 0 → bad → PutsG (.barcfg fld o) s o.d 2)
       ∧ (b.total = 0 → ¬bad → Fires (.barcfg fld o) s fun u => Answered 1 [o.d] s u ∧ gotG u o.d 0
           ∧ u.barrier k = { b with mask := mask, per := o.count.toNat }))

/-- R41, R42, R48, R354, R356 to R358: the Levee takes a first sample of an idle lane and drops it when the lane is busy; at the
second, with nothing in flight and no barrier or partial set waiting, a free-mode partition is stable, and its designated control
context passes `wstill` with 1, at once or when it next asks; one that waits while its block is out of the machine has the release
recorded, and passes when it issues again. Every other context waits there. A barrier that waits as long as the watchdog allows
is reported. -/
def Claims.LeveeAndStability : Prop :=
  (∀ (s : State) (p : Nat), p ∈ s.activeParts →
    let x := s.part p
    let c := s.dcc p
    let calm : Prop := s.laneIdle p = true ∧ s.settled p = true ∧ s.roundHolds p = false ∧ s.unbegun p = false ∧ x.disturbed = true
      ∧ s.countedInserts p = 0 ∧ (∀ k ∈ s.barriersOf p, (s.barrier k).total = 0) ∧ s.partialSets p = []
    (s.laneIdle p = false → Fires (.leveeSample p) s fun t => (t.part p).sampled = none ∧ (t.part p).stable = x.stable)
    ∧ (s.laneIdle p = true → x.sampled = none → Fires (.leveeSample p) s fun t => (t.part p).sampled = some s.cycle)
    ∧ (calm → (∀ o, (s.ctx c 0).run ≠ .waiting (.wstill o)) →
        Fires (.leveeSample p) s fun t => (t.part p).stable = true ∧ (t.part p).pend = true ∧ (t.part p).disturbed = false)
    ∧ (∀ o, calm → (s.ctx c 0).run = .waiting (.wstill o) → Awake s c 0 →
        Fires (.leveeSample p) s fun t => (t.part p).stable = true ∧ (t.ctx c 0).run = .ready
          ∧ (t.ctx c 0).pc = (s.ctx c 0).pc + 8 ∧ (t.ctx c 0).getG o.d = (if o.d = 0 then 0 else 1) ∧ (t.ctx c 0).exempt = true)
    ∧ (∀ o, calm → (s.ctx c 0).run = .waiting (.wstill o) → s.isResident c = false →
        Fires (.leveeSample p) s fun t => (t.part p).stable = true ∧ (t.ctx c 0).released = true)
    ∧ ∀ blk e f i, let k : BarId := match blk with
        | some b => .blk b i
        | none => .fld p e f i
      x.barwd ≠ 0 → s.starving k = true → (s.barrier k).since + x.barwd.toNat ≤ s.cycle → (∀ b, blk = some b → b.pid = p) →
      Fires (.barrierWatchdog p blk e f i) s fun t => (t.part p).snotice = x.snotice ||| 8 ∧ (t.barrier k).reported = true)
  ∧ ∀ (o : OpS) (s : State),
    let me : Prop := s.cur.2 = 0 ∧ s.cur.1.isVirt = true ∧ s.cur.1 = s.dcc s.pid
    let owed : Prop := s.myPart.pend = true ∨ s.me.released = true
    (me → owed → Fires (.wstill o) s fun u => Answered 1 [o.d] s u ∧ gotG u o.d (if s.myPart.rlimit then 3 else 1)
      ∧ (u.part s.pid).pend = false ∧ u.me.released = false)
    ∧ (¬(me ∧ owed) → Waits (.wstill o) s)

/-- R36, R43, R364: a round closes when its firings have retired, its groups have left and no insertion but the held ones is in flight:
the round number counts up, and its products become matchable. -/
def Claims.RoundsClose : Prop :=
  ∀ (s : State) (p : Nat), s.roundHolds p = true → s.laneIdle p = true → s.settled p = true → s.closable p = true →
    Fires (.roundClose p) s fun t => (t.part p).round = (s.part p).round + 1
      ∧ ((∀ x ∈ s.inserts, x.2.stage ≠ .held) → ∀ i, i < (s.part p).banks.length → ∀ u ∈ (t.bank p i).tiles, u.matchable = true)

/-- The Levee declares stability after the settle interval; rounds close. -/
def Obligations.Levee : Prop := Claims.LeveeAndStability ∧ Claims.RoundsClose

/-! ## Exceptions (R369 to R378) -/

/-- R370 to R373: a fault goes to the faulting context's own level where `tdeleg` sends it there, else to the supervisor, else to
firmware: the first that has a vector and is not BUSY. One that reaches firmware from a lower level, and is not of firmware's own
codes, becomes code 0x23 with the fault's code as ORIG; one that finds firmware BUSY stops the block. -/
def Obligations.FaultDelivery : Prop :=
  ∀ (s : State) (code : Nat) (info : Info), info.race = none → code < 256 →
    let x := s.me
    let own : Bool := code == 0x22 || code == 0x23
    let toA : Bool := x.level == .app && delegable code && s.myPart.tdeleg.getLsbD code && x.avec != 0 && !x.busyA
    let toS : Bool := x.level != .fw && s.myPart.svec != 0 && !x.busyS && !own
    let nest (t : Level) : Nat := if (s.idealTarget code).code < t.code then 1 else 0
    let cause (c : Nat) (t : Level) (orig : Nat) : Word :=
      BitVec.ofNat 64 (c + 256 * x.level.code + 1024 * (s.tlen % 8) + 8192 * nest t + 16384 * orig)
    let u := s.raise code info
    (toA = true → Entered s u .app (cause code .app 0) info.addr info.r4)
    ∧ (toA = false → toS = true → Entered s u .sup (cause code .sup 0) info.addr info.r4)
    ∧ (toA = false → toS = false → x.busyF = false →
        (x.level = .fw ∨ own = true → Entered s u .fw (cause code .fw 0) info.addr info.r4)
        ∧ (x.level ≠ .fw → own = false → Entered s u .fw (cause 0x23 .fw code) info.addr x.escalated))
    ∧ (toA = false → toS = false → x.busyF = true → u.isFenced s.cur.1 = true ∧ u.me.pc = x.pc ∧ u.me.level = x.level
        ∧ (∀ r, u.me.getG r = x.getG r) ∧ ∀ a, u.peek a = s.peek a)

/-- R374: `trap` enters the next level up with code 0x20 and its operand in the record: the supervisor from application level, firmware
where there is no supervisor vector or from the supervisor; at firmware level it is an illegal instruction. -/
def Claims.ServiceTraps : Prop :=
  ∀ (n : BitVec 16) (s : State),
    let t : Level := if s.me.level = .app ∧ s.myPart.svec ≠ 0 then .sup else .fw
    let nest := if s.me.level = .app ∧ t = .fw then 1 else 0
    (s.me.level = .fw → exec (.trap n) s = .next (s.raise 0x01))
    ∧ (s.me.level ≠ .fw → s.me.busy t = false →
        Traps (.trap n) s t (BitVec.ofNat 64 (0x20 + 256 * s.me.level.code + 1024 * (s.tlen % 8) + 8192 * nest)) 0 (n.zeroExtend 64))
    ∧ (s.me.level ≠ .fw → s.me.busy t = true → Fires (.trap n) s fun u => u.isFenced s.cur.1 = true ∧ u.me.pc = s.me.pc)

/-- R103, R376, R377: `brk` halts its context where the debug unit asks for it, with the PC at the `brk`, and else raises the
breakpoint fault; a word of class 0xF enters firmware with code 0x22, whatever the level, and stops the block where firmware is BUSY.
That the HALT bit of `dbgctl` shows the halt is the model's reading (log 70), and that a core without a block is stopped by its own mark
(log 20). -/
def Claims.BreakpointAndDeferredWords : Prop :=
  ∀ (s : State) (w : Word),
    (s.myCore.dbgctl.getLsbD 12 = true → Fires .brk s fun u => u.me = s.me ∧ s.cur.2 ∈ u.myCore.halted
      ∧ u.myCore.dbgctl = s.myCore.dbgctl ||| BitVec.ofNat 64 (2 ^ s.cur.2) ∧ ∀ a, u.peek a = s.peek a)
    ∧ (s.myCore.dbgctl.getLsbD 12 = false → exec .brk s = .next (s.raise 0x21))
    ∧ (s.me.busyF = false → Traps (.deferredEncoding w) s .fw
        (BitVec.ofNat 64 (0x22 + 256 * s.me.level.code + 1024 * (s.tlen % 8))) 0 0)
    ∧ (s.me.busyF = true → Fires (.deferredEncoding w) s fun u => u.isFenced s.cur.1 = true ∧ u.me.pc = s.me.pc)

/-- trap, brk and class-0xF words take their exceptions; two clauses are the model's choice (logs 70, 20). -/
def Obligations.TrapsAndBreakpoints : Prop := Claims.ServiceTraps ∧ Claims.BreakpointAndDeferredWords

/-- R375: `tret` and `tret.next` from a BUSY level clear its BUSY bit and go to the saved PC, for `tret.next` past the instruction that
trapped, at the level saved in FROM, which is never above the level returned from. From a level that is not BUSY they are
illegal. -/
def Obligations.TrapReturns : Prop :=
  ∀ (s : State),
    let x := s.me
    let t := x.trap x.level
    let from_ := Level.ofCode (t.cause.toNat / 256 % 4)
    let back (i : Instr) (n : Nat) : Prop := Fires i s fun u => u.me.pc = t.pc + BitVec.ofNat 64 n
      ∧ u.me.level = (if from_.code ≤ x.level.code then from_ else x.level) ∧ u.me.busy x.level = false
      ∧ (∀ l, l ≠ x.level → u.me.busy l = x.busy l) ∧ (∀ l, u.me.trap l = x.trap l) ∧ (∀ r, u.me.getG r = x.getG r)
      ∧ (∀ r, u.me.getV r = x.getV r) ∧ u.me.fflags = x.fflags ∧ ∀ a, u.peek a = s.peek a
    (x.busy x.level = true → back .tret 0 ∧ back .tretNext (8 * (t.cause.toNat / 1024 % 8)))
    ∧ (x.busy x.level = false → exec .tret s = .next (s.raise 0x01) ∧ exec .tretNext s = .next (s.raise 0x01))

/-- R132, R224, R225, R310, R382: at application level an instruction for the supervisor or firmware, and a special register of a higher
level, raises the privilege fault, and has no other effect. -/
def Claims.PrivilegeFaults : Prop :=
  ∀ (s : State) (a b d : Reg) (o : OpA) (n : BitVec 12) (dir : BitVec 2),
    (s.me.level = .app → ∀ i ∈ [Instr.tlbiAsid b, .tlbiPage a b, .tlbiAll, .pgdone d a b, .gstop d, .gstopGo d, .rset o, .hostirq a],
      exec i s = .next (s.raise 0x02))
    ∧ (s.me.level ≠ .fw → ∀ i ∈ [Instr.preempt a, .ptcommit a, .dbgctlHalt a, .pwrlimWrite a, .nbpost dir a, .cwgo a, .cmapvalWrite a],
      exec i s = .next (s.raise 0x02))
    ∧ (s.mayUse n.toNat = false → exec (.sget d n) s = .next (s.raise 0x02) ∧ exec (.sset n a) s = .next (s.raise 0x02))

/-- R378: a pending notice that the mask lets through enters the supervisor at context 0 of the notice core, with code 0x30 and TLEN 0,
at an instruction boundary. -/
def Claims.SupervisorNotices : Prop :=
  ∀ (s : State) (p : Nat),
    let x := s.part p
    let c := CoreId.virt p x.sncore.toNat
    let k := s.ctx c 0
    (x.snotice &&& x.snmask ≠ 0 → s.hasCore c = true → s.takesNotice c = true → Fires (.supervisorNotice p) s fun t =>
      (t.ctx c 0).pc = x.svec ∧ (t.ctx c 0).level = .sup ∧ (t.ctx c 0).busyS = true ∧ (t.ctx c 0).run = .ready
        ∧ (t.ctx c 0).trapS.pc = k.pc ∧ (t.ctx c 0).trapS.cause = BitVec.ofNat 64 (0x30 + 256 * k.level.code)
        ∧ (∀ r, (t.ctx c 0).getG r = k.getG r) ∧ t.cur = s.cur ∧ ∀ a, t.peek a = s.peek a)
    ∧ ((x.snotice &&& x.snmask = 0 ∨ s.takesNotice c = false) → exec (.supervisorNotice p) s = .next s)

/-- Privileged instructions fault below their level; notices enter the supervisor. -/
def Obligations.PrivilegeAndNotices : Prop := Claims.PrivilegeFaults ∧ Claims.SupervisorNotices

/-! ## Class 0xC (R108, R132 to R138, R224, R225, R382 to R384) -/

/-- R132 to R138, R361, R387: `sget` reads a register at its level or below and changes nothing but its destination. -/
def Obligations.SpecialRegisterReads : Prop :=
  ∀ (s : State) (d : Reg),
    let c := s.cur.1
    let x := s.me
    let reads (n : BitVec 12) (v : Word) : Prop := s.mayUse n.toNat = true → PutsG (.sget d n) s d v
    reads 0x000 (BitVec.ofNat 64 s.cur.2) ∧ reads 0x001 (BitVec.ofNat 64 c.num) ∧ reads 0x003 x.fieldsize ∧ reads 0x004 x.firinfo
    ∧ reads 0x005 x.rmode ∧ reads 0x006 x.fflags ∧ reads 0x007 s.myPart.round ∧ reads 0x00D (s.tbaseOf c.estate)
    ∧ reads 0x00E (BitVec.ofNat 64 s.cycle) ∧ reads 0x100 s.myPart.bvmode ∧ reads 0x180 s.myCore.mfctx
    ∧ reads 0x200 s.myPhys.smovf ∧ reads 0x203 (BitVec.ofNat 64 (s.myPart.insflight % 2 ^ 32)) ∧ reads 0x300 x.trapA.pc
    ∧ reads 0x301 x.trapA.cause ∧ reads 0x303 x.avec ∧ reads 0x310 x.trapS.pc ∧ reads 0x311 x.trapS.cause ∧ reads 0x313 s.myPart.svec
    ∧ reads 0xF00 x.trapF.pc ∧ reads 0xF01 x.trapF.cause ∧ reads 0xF03 s.myCore.fvec ∧ reads 0x321 s.myPart.tdeleg
    ∧ reads 0x322 s.myPart.snotice ∧ reads 0x400 s.myPart.ttroot ∧ reads 0x550 (s.estate c.estate).pwrlim
    ∧ (∀ n : BitVec 12, n ≠ 0x551 → reads n (s.sread n.toNat))
    ∧ (s.mayUse 0x551 = true → Fires (.sget d 0x551) s fun u => Answered 1 [d] s u ∧ ∃ w : Word, gotG u d w ∧ w.toNat < 2 ^ 21
        ∧ w.getLsbD 20 = (s.estate c.estate).gating)

/-- R108, R132 to R135, R226, R227, R303, R361, R372, R387, R403, R411, R416, R418: `sset` writes a register at its level or below as
its row says: W1C bits clear, bits that are no bits of the register stay zero, a read-only register keeps its value. FROM of a cause
register is held at the level's own; room in the page-request ring after drops is told to the supervisor; a channel mode of 3 is
stored as 2; the Causeway tree and `cmapsel` are written in boot mode alone. -/
def Obligations.SpecialRegisterWrites : Prop :=
  ∀ (s : State) (a : Reg),
    let v := s.readG a
    let c := s.cur.1
    let writes (n : BitVec 12) (ok : State → Prop) : Prop := s.mayUse n.toNat = true → Fires (.sset n a) s fun u =>
      ok u ∧ u.me.pc = s.me.pc + 8 ∧ (∀ r, u.me.getG r = s.me.getG r) ∧ (∀ r, u.me.getV r = s.me.getV r) ∧ ∀ l, u.peek l = s.peek l
    let p (u : State) : Part := u.part s.pid
    let q := s.myPart
    let die (u : State) : Die := u.die (s.dieOf c)
    let es (u : State) : Estate := u.estate c.estate
    let keeps (n : BitVec 12) : Prop := s.mayUse n.toNat = true → exec (.sset n a) s = .next (s.retire 1)
    -- the trap registers of a level from number n on
    let traps (l : Level) (n : Nat) : Prop :=
      let at_ (i : Nat) : BitVec 12 := BitVec.ofNat 12 (n + i)
      writes (at_ 0) (fun u => (u.me.trap l).pc = v &&& ~~~7#64)
      ∧ writes (at_ 1) (fun u => (u.me.trap l).cause &&& 0x3FFCFF = v &&& 0x3FFCFF ∧ (u.me.trap l).cause.toNat < 2 ^ 22
          ∧ (u.me.trap l).cause.toNat / 256 % 4 = min l.code (v.toNat / 256 % 4))
      ∧ writes (at_ 2) (fun u => (u.me.trap l).addr = v) ∧ writes (at_ 4) (fun u => (u.me.trap l).scr0 = v)
      ∧ writes (at_ 5) (fun u => (u.me.trap l).scr1 = v)
      ∧ ∀ i, i < 8 → writes (at_ (8 + i)) fun u => Map.get 0 (u.me.trap l).trec (BitVec.ofNat 3 i) = v
    traps .app 0x300 ∧ traps .sup 0x310 ∧ traps .fw 0xF00
    ∧ writes 0x303 (fun u => u.me.avec = v &&& ~~~7#64) ∧ writes 0x313 (fun u => (p u).svec = v &&& ~~~7#64)
    ∧ writes 0xF03 (fun u => u.myCore.fvec = v &&& ~~~7#64)
    -- of the context
    ∧ writes 0x006 (fun u => u.me.fflags = s.me.fflags &&& ~~~v) ∧ writes 0x105 (fun u => u.me.bvsel = v &&& 0x3F07)
    ∧ writes 0x1C0 (fun u => u.me.cdealpat = v) ∧ writes 0x206 (fun u => u.me.barsel = v &&& 0x3F)
    ∧ writes 0x2C0 (fun u => u.me.salsel = v &&& 0x1FF) ∧ writes 0x503 (fun u => u.me.lnksel = v &&& 0x7FF)
    -- of the partition
    ∧ writes 0x101 (fun u => (p u).rlogbase.toNat = v.toNat % 2 ^ 52) ∧ writes 0x102 (fun u => (p u).rloghead = v)
    ∧ writes 0x104 (fun u => (p u).rlogdrop = q.rlogdrop &&& ~~~v) ∧ writes 0x205 (fun u => (p u).barwd = v)
    ∧ writes 0x214 (fun u => (p u).polfull = q.polfull &&& ~~~v) ∧ writes 0x321 (fun u => (p u).tdeleg = v)
    ∧ writes 0x322 (fun u => (p u).snotice = q.snotice &&& ~~~v) ∧ writes 0x323 (fun u => (p u).snmask = v &&& 0x3F)
    ∧ writes 0x324 (fun u => (p u).sncore = v &&& 0xFFFFF)
    ∧ writes 0x32A (fun u => (p u).haltbase.toNat = v.toNat % 2 ^ 52 / 128 * 128)
    ∧ writes 0x400 (fun u => (p u).ttroot.toNat = v.toNat % 2 ^ 52 / 2 ^ 16 * 2 ^ 16)
    ∧ writes 0x402 (fun u => (p u).preqbase.toNat = v.toNat % 2 ^ 52)
    ∧ writes 0x403 (fun u => (p u).preqhead = v
        ∧ (q.preqDropped = true → ringFull (ringSize q.preqbase) v q.preqtail = false →
            (p u).preqDropped = false ∧ (p u).snotice = q.snotice ||| BitVec.ofNat 64 noticePreq)
        ∧ (q.preqDropped = false → (p u).snotice = q.snotice))
    ∧ writes 0x405 (fun u => (p u).preqlost = q.preqlost &&& ~~~v)
    ∧ writes 0x510 (fun u => (p u).inletvb.toNat = v.toNat % 2 ^ 56 / 2 ^ 36 * 2 ^ 36)
    ∧ writes 0x511 (fun u => (p u).inleterr = q.inleterr &&& ~~~v)
    -- of the core, physical or virtual
    ∧ writes 0x1C4 (fun u => u.myCore.cerrcnt = s.myCore.cerrcnt &&& ~~~v)
    ∧ writes 0x200 (fun u => u.myPhys.smovf = s.myPhys.smovf &&& ~~~v)
    ∧ writes 0x210 (fun u => u.myPhys.latereply = s.myPhys.latereply &&& ~~~v)
    ∧ writes 0x211 (fun u => u.myPhys.fetchdrop = s.myPhys.fetchdrop &&& ~~~v)
    ∧ (∀ i, i < 64 → writes (BitVec.ofNat 12 (0x240 + i)) fun u =>
        Map.get 0 u.myPhys.lat i = Map.get 0 s.myPhys.lat i &&& ~~~v)
    -- of the die and of the package
    ∧ writes 0x212 (fun u => (die u).eccfix = (die s).eccfix &&& ~~~v) ∧ writes 0x213 (fun u => (die u).weirref = (die s).weirref &&& ~~~v)
    ∧ writes 0x540 (fun u => (die u).evrsel = v &&& 0xFFF) ∧ writes 0x502 (fun u => (es u).fabxb = v)
    ∧ writes 0x506 (fun u => (es u).fecthr = v &&& 0x3FFF) ∧ writes 0x508 (fun u => (es u).fabfail = v)
    ∧ writes 0x507 (fun u => ∀ i, i < 4 →
        let modes := if s.selRx then (u.linkOf s.selLink).modeR else (u.linkOf s.selLink).modeT
        modes.toNat < 256 ∧ modes.toNat / 4 ^ i % 4 = min 2 (v.toNat / 4 ^ i % 4))
    ∧ (s.mayUse 0x535 = true → ((bootAt c).isSome = true ∧ cwBusy s.myCore.cwstat = false →
          writes 0x535 fun u => u.myCore.cwtree = v &&& 0x7F)
        ∧ (¬((bootAt c).isSome = true ∧ cwBusy s.myCore.cwstat = false) → keeps 0x535))
    ∧ ((bootAt c).isSome = true → writes 0x538 fun u => (die u).cmapsel = v &&& 0x3F) ∧ ((bootAt c).isSome = false → keeps 0x538)
    ∧ ∀ n ∈ [0x000#12, 0x001#12, 0x003#12, 0x004#12, 0x007#12, 0x00D#12, 0x00E#12, 0x00F#12, 0x103#12, 0x10B#12, 0x201#12, 0x203#12,
        0x204#12, 0x207#12, 0x320#12, 0x401#12, 0x404#12], keeps n

/-- R104, R135, R300, R313, R317, R383, R384, R409, R421: the registers whose write is an instruction of its own. `rmode` keeps a
mode from 1 to 4, and 1 for any other; `bvmode` that leaves mode 0 starts with no record of the partition; `dbgctl` halts
the contexts it names; `pwrlim` is held between 400 and 3200; `cmapval` writes the entry chosen, in boot mode, with BLOCK only where every
core of the cluster is HEALTHY; `hostirq` raises a vector of the partition's slot; `preempt` stops a block, with a slot for its image, or reports that there is none; `ptcommit`
commits an image with no fault in it, and else says why not. That `preempt` names a block of the writer's partition is the model's
reading (log 122), and that `hostirq` changes nothing where the partition has no slot (log 125). -/
def Obligations.OwnRegisterWrites : Prop :=
  ∀ (s : State) (a : Reg),
    let v := s.readG a
    let c := s.cur.1
    let m := (v &&& 7).toNat
    let goes (i : Instr) (ok : State → Prop) : Prop := Fires i s fun u => ok u ∧ u.me.pc = s.me.pc + 8
      ∧ (∀ r, u.me.getG r = s.me.getG r) ∧ ∀ r, u.me.getV r = s.me.getV r
    let fw : Prop := s.me.level = .fw
    (s.mayUse 0x012 = true → goes (.cmpqWrite a) fun u => u.me.cmpq = v)
    ∧ (s.mayUse 0x005 = true → goes (.rmodeWrite a) fun u => u.me.rmode = if 1 ≤ m ∧ m ≤ 4 then v &&& 7 else 1)
    ∧ (s.mayUse 0x100 = true → goes (.bvmodeWrite a) fun u => (u.part s.pid).bvmode = (if v &&& 3 = 3 then 2 else v &&& 3)
        ∧ (s.myPart.bvmode = 0 → v &&& 3 ≠ 0 → ∀ d, ∀ r ∈ (u.die d).recs, r.1.1 ∉ s.asidsOf s.pid))
    ∧ (s.mayUse 0xF10 = true → Fires (.dbgctlHalt a) s fun u => u.myCore.dbgctl = v &&& 0x1FFF
        ∧ (∀ n, n < 11 → (n ∈ u.myCore.halted ↔ v.getLsbD n = true)) ∧ u.me.pc = s.me.pc + 8)
    ∧ (fw → goes (.pwrlimWrite a) fun u => (u.estate c.estate).pwrlim.toNat = max 400 (min 3200 v.toNat))
    ∧ (fw → (∀ e d q, c = .phys e d q → goes (.cmapvalWrite a) fun u =>
          let w := (u.die (e, d)).cmap.get 0 ((s.die (e, d)).cmapsel.toNat % 64)
          ∀ i, i < 64 → w.getLsbD i = (decide (i < 19) && v.getLsbD i && (i != 16 || v.toNat % 65536 == 65535)))
        ∧ (c.isVirt = true → exec (.cmapvalWrite a) s = .next (s.retire 1)))
    ∧ (s.me.level ≠ .app → (∀ n, s.myPart.slot = some n → (s.estate (s.homeEstate s.pid)).host = true → goes (.hostirq a) fun u =>
          u.irqs = s.irqs ++ [(s.homeEstate s.pid, n, v.toNat % 8)])
        ∧ (s.myPart.slot = none → exec (.hostirq a) s = .next (s.retire 1)))
    ∧ (let b := coordsOf s.pid v
       fw → v.getLsbD 0 = true → s.comates b = [b] → (s.block b).swap = .none → s.mayBegin b = true → (s.block b).slotless = false →
        (∀ i, s.freeSlot b.pid b.estate = some i → goes (.preempt a) fun u => (u.block b).swap = .stopping true
          ∧ (u.block b).slot = some i ∧ (u.block b).valid = false)
        ∧ (s.freeSlot b.pid b.estate = none → goes (.preempt a) fun u => (u.block b).swap = .none ∧ (u.block b).preempt = true
          ∧ (u.part b.pid).sswap.toNat % 16 = 1))
    ∧ (fw → v.getLsbD 0 = false → exec (.preempt a) s = .next (s.retire 1))
    ∧ (let r : Record := BitVec.ofNat 1024 (s.peekNat (physLoc c.estate (v.toNat % 2 ^ 52)) 128)
       let st := s.commitStatus c.estate r
       fw → (st = 1 → goes (.ptcommit a) fun u => (u.estate c.estate).ptstat = 1 ∧ u.record (Record.pid r) c.estate = r)
        ∧ (st ≠ 1 → goes (.ptcommit a) fun u => (u.estate c.estate).ptstat = BitVec.ofNat 64 st ∧ u.parts = s.parts ∧ u.mem = s.mem))

/-- R413, R414: in boot mode `nbpost` posts to the mailbox that faces its core at a live neighbour, and counts a post towards none; `cwgo`
starts a transfer, or sets ERR for one that may not start. -/
def Claims.BootInstructions : Prop :=
  ∀ (s : State) (a : Reg) (dir : BitVec 2) (q : Nat × Nat × Nat), bootAt s.cur.1 = some q → s.me.level = .fw →
    let v := s.readG a
    let off := v.toNat % 2 ^ 19
    let count := v.toNat / 2 ^ 19 % 2 ^ 20
    (s.neighbour q dir.toNat = none → Fires (.nbpost dir a) s fun u => Issued 1 s u
      ∧ (u.physCore q).nblink.toNat / 65536 = ((s.physCore q).nblink.toNat / 65536 + 1) % 2 ^ 32)
    ∧ (∀ t, s.neighbour q dir.toNat = some t →
        (s.unacked s.cur.1 s.cur.2 0 < 256 → s.unackedAll s.cur.1 s.cur.2 < 1024 → Fires (.nbpost dir a) s fun u => Issued 1 s u
          ∧ ∃ m, u.msgs = s.msgs ++ [(s.nextId, m)] ∧ m.body = .post t (BitVec.ofNat 5 (28 + (dir.toNat + 2) % 4)) v
            ∧ m.stage = .unsent)
        ∧ ((256 ≤ s.unacked s.cur.1 s.cur.2 0 ∨ 1024 ≤ s.unackedAll s.cur.1 s.cur.2) → Stalls (.nbpost dir a) s))
    ∧ (s.cwRefuses s.cur.1 q off count = true → Fires (.cwgo a) s fun u => Issued 1 s u
        ∧ u.myCore.cwstat = s.myCore.cwstat ||| cwErrBit ∧ u.myCore.cwImage = s.myCore.cwImage)
    ∧ (s.cwRefuses s.cur.1 q off count = false → Fires (.cwgo a) s fun u => Issued 1 s u
        ∧ u.myCore.cwstat = cwBusyBit ∧ u.myCore.cwImage = some (off, count))

/-! ## Reset, bring-up, host and management (R108, R217, R405 to R421) -/

/-- R414: the root sends the image line by line: each line is stored where it stands in the image, and goes on to every live child. A core
takes the next line from its parent; a line from elsewhere, or at the root, sets ERR. A child that is DONE with what it was sent
reports once to a core that has sent the whole image, and a core that has heard from every child is DONE. -/
def Claims.Causeway : Prop :=
  ∀ (s : State) (e d m : Nat),
    let c := CoreId.phys e d m
    let k := s.core c
    let q := (e, d, m)
    let sends (t : State) (off count at_ : Nat) (bs : List Byte) : Prop := cwBytes (t.core c).cwstat = at_ + 64
      ∧ ∀ dir n, dir ∈ cwChildren k.cwtree → s.neighbour q dir = some n →
          (t.core n).cwq = (s.core n).cwq ++ [{ from_ := (dir + 2) % 4, off := off, count := count, line := at_ / 64, bytes := bs }]
    (∀ off count, cwRoot k.cwtree = true → k.cwq = [] → k.cwImage = some (off, count) → cwBusy k.cwstat = true → cwBytes k.cwstat < count →
      count ≤ 2 ^ 19 → MemoryWf s → Fires (.causewayLine c) s fun t =>
        sends t off count (cwBytes k.cwstat) (s.peekBytes (scratchLoc c (off + cwBytes k.cwstat)) 64) ∧ ∀ l, t.peek l = s.peek l)
    ∧ (∀ l ls, k.cwq = l :: ls →
        (cwRoot k.cwtree = true ∨ l.from_ ≠ cwParent k.cwtree → Fires (.causewayLine c) s fun t => (t.core c).cwq = ls
          ∧ (t.core c).cwstat = k.cwstat ||| cwErrBit ∧ ∀ a, t.peek a = s.peek a)
        ∧ (let at_ := if l.line = 0 then 0 else cwBytes k.cwstat
           cwRoot k.cwtree = false → l.from_ = cwParent k.cwtree → l.line = at_ / 64 → at_ < 2 ^ 19 → l.bytes.length = 64 → MemoryWf s →
            Fires (.causewayLine c) s fun t => (t.core c).cwq = ls ∧ sends t l.off l.count at_ l.bytes
              ∧ (∀ i, i < 64 → t.peek (scratchLoc c (l.off + at_ + i)) = l.bytes.getD i 0)
              ∧ ∀ a, a < scratchLoc c (l.off + at_) ∨ scratchLoc c (l.off + at_) + 64 ≤ a → t.peek a = s.peek a))
    ∧ ∀ (dir : BitVec 2) (n : CoreId), s.neighbour q dir.toNat = some n → dir.toNat ∈ cwChildren k.cwtree →
        (s.core n).cwstat.getLsbD 20 = true → dir.toNat ∉ k.cwDone → cwRoot (s.core n).cwtree = false →
        cwParent (s.core n).cwtree = (dir.toNat + 2) % 4 →
        (cwImageSent k = false ∨ (s.core n).cwq ≠ [] ∨ (s.core n).cwTold = true → exec (.causewayDone c dir) s = .next s)
        ∧ (cwImageSent k = true → (s.core n).cwq = [] → (s.core n).cwTold = false → Fires (.causewayDone c dir) s fun t =>
          dir.toNat ∈ (t.core c).cwDone ∧ (t.core n).cwTold = true
          ∧ (cwBusy k.cwstat = true → (∀ x ∈ cwChildren k.cwtree, x = dir.toNat ∨ x ∈ k.cwDone) →
              (t.core c).cwstat.getLsbD 20 = true ∧ (t.core c).cwstat.getLsbD 22 = false ∧ (t.core c).cwImage = none))

/-- Boot-mode posts and the Causeway transfer. Three clauses are the model's choice: a neighbour out of boot mode counts as absent (log
85); BUSY clears when DONE sets, and a refused `cwgo` sets ERR alone (log 86). -/
def Obligations.BootAndCauseway : Prop := Claims.BootInstructions ∧ Claims.Causeway

/-! ## Fences and errors (R209, R317, R321, R379 to R381, R417, R420) -/

/-- R209, R211, R321, R379, R381: a fence stops a block that is in the machine: no context of it issues again, its engines' work and its
waiting insertions are abandoned, its slots and accumulators are poisoned, and the fence record and notice tell the supervisor. An
absent block is not affected. An error in a scratchpad or in a core's state fences its block; one in a slot, an accumulator or a line
of memory poisons it. That `fence_propagate` changes nothing is the model's choice (log 33): one remap entry is read at every interface. -/
def Claims.Fences : Prop :=
  ∀ (s : State) (b : BlockId) (cause : Nat), 1 ≤ cause → cause ≤ 5 → InRange b →
    let fences (i : Instr) (cause : Nat) : Prop := Fires i s fun t => (t.block b).fenced = true
      ∧ (∀ m, m < 16 → (t.core (b.core m)).cmds = [] ∧ (t.core (b.core m)).mreqs = [] ∧ (t.core (b.core m)).mpoison = List.range 8
          ∧ ∀ n, t.canIssue (b.core m) n = false)
      ∧ (t.block b).spoison = List.range 64 ∧ (t.part b.pid).snotice.getLsbD 4 = true
      ∧ (∀ id x, (id, x) ∈ t.inserts → ¬(x.core.block = some b ∧ x.buf.isSome = true ∧ x.stage = .waiting))
      ∧ ∃ fir, (t.part b.pid).sfence0 = fenceWord b cause
          (s.inserts.filter fun x => x.2.core.block == some b && x.2.buf.isSome && x.2.stage == .waiting).length fir
    (∀ k, (s.block b).residence = .resident k → (s.block b).fenced = false → fences (.fence b cause) cause
      ∧ (∀ m n, m < 16 → fences (.uncorrectableError (b.core m) 0 n) 1 ∧ fences (.uncorrectableError (b.core m) 1 n) 2)
      ∧ (∀ m n, m < 16 → Fires (.uncorrectableError (b.core m) 0 n) s fun t => scratchLoc (b.core m) (64 * n % 2 ^ 19) / 64 ∈ t.poison)
      ∧ Fires (.fence b cause) s fun t => (t.cluster k).testing = true)
    ∧ ((∀ k, (s.block b).residence ≠ .resident k) → exec (.fence b cause) s = .next s)
    ∧ exec (.fencePropagate b) s = .next s
    ∧ ∀ m n, m < 16 →
      (Fires (.uncorrectableError (b.core m) 2 n) s fun t => n % 64 ∈ (t.block b).spoison)
      ∧ (Fires (.uncorrectableError (b.core m) 3 n) s fun t => n % 8 ∈ (t.core (b.core m)).mpoison)
      ∧ Fires (.uncorrectableError (b.core m) 4 n) s fun t => physLoc (b.core m).estate (64 * n % 2 ^ 52) / 64 ∈ t.poison

/-- R380, R386: `blkcmd` thaws a block that a failed spill froze, whose waiting contexts issue again, and revives a fenced one: absent,
not fenced, its registers at reset and its scratchpads zero. -/
def Claims.ThawAndRevive : Prop :=
  ∀ (s : State) (b : BlockId),
    (InRange b → (s.block b).swap = .frozen → Fires (.blkcmdThaw b) s fun t => t.block b = { s.block b with swap := .none }
      ∧ t.mem = s.mem ∧ (∀ c, c.block ≠ some b → t.core c = s.core c)
      ∧ ∀ m n, m < 16 → n < 11 → (t.ctx (b.core m) n).g = (s.ctx (b.core m) n).g
        ∧ ∀ i, (s.ctx (b.core m) n).run = .waiting i → (t.ctx (b.core m) n).run = .ready)
    ∧ ((s.block b).swap ≠ .frozen → exec (.blkcmdThaw b) s = .next s)
    ∧ ((s.block b).fenced = true → Fires (.blkcmdRevive b) s fun t => (t.block b).residence = .absent ∧ (t.block b).fenced = false
        ∧ (t.block b).blank = true ∧ (∀ c, c.block = some b → t.core c = {})
        ∧ (∀ m off, m < 16 → off < 2 ^ 19 → b.vblock < 64 → t.peek (scratchLoc (b.core m) off) = 0)
        ∧ ∀ c, c.block ≠ some b → t.core c = s.core c)
    ∧ ((s.block b).fenced = false → exec (.blkcmdRevive b) s = .next s)

/-- A fence stops a block and poisons its engines; blkcmd thaws and revives. -/
def Obligations.FencesAndRevival : Prop := Claims.Fences ∧ Claims.ThawAndRevive

/-- R224: `tlbi` removes from every TLB the entries of an address space, those of it that hold a page, or every one of its estate, keeps
the others, and completes when no access that used one, nor one that a walk in progress serves for a page so named, is on its way;
such a walk fills no TLB. An operand that is no ASID is illegal. Tried again while its removal is open, it removes nothing more and
waits for what is left. Where the walks go on under way, and that one which parks is waited for no longer, is the model's reading
(logs 24, 95). -/
def Claims.TlbRemoval : Prop :=
  ∀ (s : State) (a b : Reg), s.me.level ≠ .app →
    let asid := (s.readG b).toNat
    let va := (s.readG a).toNat
    let removed (u : State) (hit : Nat → TlbEntry → Bool) : Prop :=
      (∀ q, (u.physCore q).itlb = (s.physCore q).itlb.filter (fun x => !hit q.1 x)
        ∧ (u.physCore q).dtlb = (s.physCore q).dtlb.filter fun x => !hit q.1 x)
      ∧ ∀ k, (u.clusters.get {} k).tlb = (s.clusters.get {} k).tlb.filter fun x => !hit k.1 x
    let under (id : Nat) : Bool := match Map.get? s.msgs id with
      | some m => m.stage != .parked
      | none => false
    let does (i : Instr) (hit : Nat → TlbEntry → Bool) (all : Bool) : Prop :=
      let ends (left : List Nat) (leaves : State → Prop) : Prop :=
        (left = [] → Fires i s fun u => Issued 1 s u ∧ u.me.shootdown = none ∧ leaves u)
        ∧ (left ≠ [] → Fires i s fun u => u.me.run = .stalled ∧ u.me.pc = s.me.pc ∧ u.me.shootdown = some (s.me.pc, left) ∧ leaves u)
      ((∀ p ids, s.me.shootdown = some (p, ids) → p ≠ s.me.pc) → ends ((s.dependents hit all ++ s.walksHit hit).filter under)
        fun u => removed u hit ∧ ∀ id ∈ s.walksHit hit, ∃ m, Map.get? u.msgs id = some m ∧ m.noFill = true)
      ∧ ∀ ids, s.me.shootdown = some (s.me.pc, ids) → ends (ids.filter under) fun u => u.phys = s.phys ∧ u.clusters = s.clusters
          ∧ u.msgs = s.msgs
    (asid < 16384 → does (.tlbiAsid b) (fun _ x => x.asid == asid) false
      ∧ does (.tlbiPage a b) (fun _ x => x.asid == asid && x.page.has va) false)
    ∧ (16384 ≤ asid → exec (.tlbiAsid b) s = .next (s.raise 0x01) ∧ exec (.tlbiPage a b) s = .next (s.raise 0x01))
    ∧ does .tlbiAll (fun e _ => e == s.cur.1.estate) true

/-- R65, R225: `pgdone` waits for the context's own writes, then frees every context and command of the address space that awaits the
page: each loses the page; a context that awaits no other and whose block is in the machine is ready, and its parked accesses go to the
walkers again; a command goes on. The result counts the contexts, commands and requests that awaited it. -/
def Claims.PageResolution : Prop :=
  ∀ (s : State) (d a b : Reg), s.me.level ≠ .app →
    let asid := (s.readG b).toNat
    let va := (s.readG a).toNat
    (16384 ≤ asid → exec (.pgdone d a b) s = .next (s.raise 0x01))
    ∧ (asid < 16384 → s.writesDone s.cur.1 s.cur.2 = false → Stalls (.pgdone d a b) s)
    ∧ (asid < 16384 → s.writesDone s.cur.1 s.cur.2 = true →
        let waiting (c : CoreId) : Nat := ((List.range 11).filter fun n => (s.ctx c n).waitPages.any (·.has va)).length
          + ((s.core c).cmds.filter fun x => onPage va x.2.park).length + ((s.core c).mreqs.filter fun r => onPage va r.park).length
        Fires (.pgdone d a b) s fun u => Answered 1 [d] s u
        ∧ gotG u d (BitVec.ofNat 64 ((s.coresOfAsid asid).dedup.map waiting).sum)
        ∧ ∀ c, c ∈ s.coresOfAsid asid →
          (u.core c).cmds = (s.core c).cmds.map (fun x => if onPage va x.2.park then (x.1, { x.2 with park := none, resume := true }) else x)
          ∧ (u.core c).mreqs = (s.core c).mreqs.map (fun r => if onPage va r.park then { r with park := none } else r)
          ∧ ∀ n, n < 11 → (∃ p ∈ (s.ctx c n).waitPages, p.has va = true) →
            (u.ctx c n).waitPages = (s.ctx c n).waitPages.filter (fun p => !p.has va)
            ∧ ((∀ p ∈ (s.ctx c n).waitPages, p.has va = true) → s.isResident c = true → (u.ctx c n).run = .ready
              ∧ ∀ id m, Map.get? s.msgs id = some m → m.core = c → m.ctx = n → m.stage = .parked →
                Map.get? u.msgs id = some { m with stage := .walk, replayed := true }))

/-- tlbi removes TLB entries; pgdone resolves a page. -/
def Obligations.TranslationMaintenance : Prop := Claims.TlbRemoval ∧ Claims.PageResolution

/-- R382: `gstop` stops the partition, once, and says so; the halt reaches a core as a step of its own once it has come to the core's
package, which writes the core's halt record
where there is a place for it; `gstop.go` lets every core of the partition go on. -/
def Obligations.GangStop : Prop :=
  (∀ (s : State) (d : Reg), s.me.level ≠ .app →
    (s.myPart.stopped = none → Fires (.gstop d) s fun u => Answered 1 [d] s u ∧ gotG u d 0 ∧ (u.part s.pid).stopped = some s.cur)
    ∧ (s.myPart.stopped ≠ none → PutsG (.gstop d) s d 1)
    ∧ (s.myPart.stopped = none → PutsG (.gstopGo d) s d 1)
    ∧ (s.myPart.stopped ≠ none → Fires (.gstopGo d) s fun u => gotG u d 0 ∧ u.me.pc = s.me.pc + 8 ∧ (u.part s.pid).stopped = none
        ∧ (∀ c, c.pid = s.pid → (u.core c).gang = false) ∧ ∀ l, u.peek l = s.peek l))
  ∧ ∀ (s : State) (c : CoreId), c.isVirt = true → s.hasCore c = true → (s.part c.pid).stopped ≠ none → (s.core c).gang = false →
    s.onWire (.halt c.pid c.estate) = false → Fires (.haltArrival c) s fun t => (t.core c).gang = true
      ∧ ((s.part c.pid).haltbase = 0 → ∀ l, t.peek l = s.peek l)
      ∧ ((s.part c.pid).haltbase ≠ 0 → MemoryWf s →
          let loc := physLoc (s.homeEstate c.pid) ((s.part c.pid).haltbase.toNat + c.num * 128)
          (∀ i, i < 128 → t.peek (loc + i) = (wordBytes (s.haltRecord c)).getD i 0)
          ∧ ∀ l, l < loc ∨ loc + 128 ≤ l → t.peek l = s.peek l)

/-! ## The fabric (R391 to R404) -/

/-- R400, R401, R403: a circuit reconfiguration goes through its phases: OPEN starts it from phase 0; when nothing crosses, the drain
begins; when every link up has its four markers, nothing to send and an empty replay buffer, the links go dark; CLOSE takes an image's address in
phase 3, and the image read brings training; training ends it: a link comes up with a far end that trains in phase 4 too, one that finds light and none stays down and sets
TRAINERR; the route map is the image's, an entry naming a link that is down not valid, the own estate's entry valid by RVALID alone
(R425); and the count of reconfigurations is one higher. A command in another phase changes nothing. -/
def Obligations.Reconfiguration : Prop :=
  ∀ (s : State) (e addr : Nat) (l : LinkId) (vc : BitVec 2) (bad : Bool) (rs : List TrainResult),
    let x := s.estate e
    let at_ := addr % 2 ^ 52 / 4096 * 4096
    (x.phase = 0 → Fires (.fabcmdOpen e) s fun t => (t.estate e).phase = 1 ∧ (t.estate e).links = x.links ∧ t.mem = s.mem)
    ∧ (x.phase ≠ 0 → exec (.fabcmdOpen e) s = .next s)
    ∧ (x.phase = 3 → s.physBacked e at_ = true → Fires (.fabcmdClose e addr) s fun t => (t.estate e).imgAddr = some at_
        ∧ (t.estate e).phase = 3)
    ∧ (x.phase = 3 → s.physBacked e at_ = false → Fires (.fabcmdClose e addr) s fun t => (t.estate e).imgErr = true
        ∧ (t.estate e).phase = 3)
    ∧ (x.phase ≠ 3 → exec (.fabcmdClose e addr) s = .next s ∧ exec (.routeImageRead e bad) s = .next s)
    ∧ (∀ a, x.phase = 3 → x.imgAddr = some a →
        (bad = true ∨ s.poisonedAt (physLoc e a) 128 = true → Fires (.routeImageRead e bad) s fun t =>
          (t.estate e).imgErr = true ∧ (t.estate e).phase = 3)
        ∧ (bad = false → s.poisonedAt (physLoc e a) 128 = false → Fires (.routeImageRead e bad) s fun t =>
          (t.estate e).phase = 4 ∧ (t.estate e).imgErr = false
            ∧ (∀ i, i < 64 → (t.estate e).image.getD i 0 = BitVec.ofNat 16 (s.peekNat (physLoc e (a + 2 * i)) 2))))
    ∧ (x.phase = 1 → s.crossing e = false → Fires (.reconfigQuiesceEnd e) s fun t => (t.estate e).phase = 2)
    ∧ (s.crossing e = true → exec (.reconfigQuiesceEnd e) s = .next s)
    ∧ ((s.linkOf l).st = .up → Fires (.drainMarker l vc) s fun t => vc.toNat ∈ (t.linkOf l).markers
        ∧ (t.linkOf l).allow = (s.linkOf l).allow)
    ∧ (x.phase = 2 → (∀ k ∈ x.links, k.2.st ≠ .up ∨ (k.2.replay = [] ∧ k.2.sendq = [] ∧ ∀ v, v < 4 → v ∈ k.2.markers)) →
        Fires (.reconfigDark e) s fun t => (t.estate e).phase = 3 ∧ ∀ k ∈ (t.estate e).links, k.2.st = .dark)
    ∧ (x.phase = 4 → (∀ r ∈ rs, s.trains r = true ∧ r.link < 128 ∧ r.farEstate ≠ e) →
        rs.Pairwise (fun a b => (a.farEstate, a.farLink) ≠ (b.farEstate, b.farLink)) → Fires (.linkTrainComplete e rs) s fun t =>
        let up (n : Nat) : Prop := (∃ r ∈ rs, r.link = n) ∨ (s.linkOf { estate := e, link := n }).st = .up
        (t.estate e).phase = 0 ∧ (t.estate e).reconfs = x.reconfs + 1
          ∧ (∀ n, (t.linkOf { estate := e, link := n }).st = .up ↔ up n)
          ∧ (t.estate e).ownRoute = (x.image.getD e 0).getLsbD 0
          ∧ ∀ i n, i < x.image.length → i ≠ e → (Map.get? (t.estate e).routes i = some n ↔
              (x.image.getD i 0).getLsbD 0 = true ∧ n = (x.image.getD i 0).toNat / 2 % 128 ∧ up n))
    ∧ ∀ r, x.phase = 4 → r.link < 128 → r.light = true → s.trains r = false → (s.linkOf { estate := e, link := r.link }).st ≠ .up →
        Fires (.linkTrainComplete e [r]) s fun t => (t.estate e).trainErr = true ∧ (t.linkOf { estate := e, link := r.link }).st = .down
          ∧ (t.estate e).phase = 0

/-- R392 to R399: a packet goes out in one flit, two or three by its data bytes, each with the next sequence number, its channel, the
packet's bytes in order and a CRC that is good, over the lanes in service, if the channel has the allowance; each lowers it by one and is
kept for a resend. A receiver on a link that is up takes a data flit of which no beat was lost with a good CRC, a tag that fits its key
where the channel is secured, and the sequence number expected; any other data flit it discards, and asks for the first it has not
accepted; at the sixteenth bad tag in a row the channel stops. A packet for another package goes on by this one's route map. A resend
sends the flits again, eight beats each, and counts them; an acknowledgement frees the replay buffer up to the flit it names; an
allowance returns, up to 1023; a loaded key is kept for the next close. The header's bytes, the place of the tag in a payload and what a
stopped channel does with the flits still to come are the model's (log 35). -/
def Claims.LinkTraffic : Prop :=
  ∀ (s : State) (l : LinkId) (f : Line) (lost : List Nat) (key : LinkKey) (vc : BitVec 2) (lseq : BitVec 12) (n : Nat),
    let k := s.linkOf l
    let v := flitVc f
    let far : LinkId := (s.farOf l).getD l
    let live : Prop := k.st = .up ∧ (s.estate l.estate).phase < 3 ∧ flitType f = 0
    let whole : Prop := ∀ j x, s.farOf l = some j → (s.linkOf j).replay.find? (·.out) = some x → 
      ∀ w ∈ x.uses, w ∈ k.inService true ∧ w ∉ lost
    let tagOk : Prop := modeOfVc k.liveR v = 0
      ∨ tagFits (modeOfVc k.liveR v) (k.keys.get 0 (true, v)).toNat (flitNonce far l v (k.rcounts.get 0 v)) f = true
    let discards (t : State) : Prop := (t.linkOf l).rxSeq = k.rxSeq ∧ (t.linkOf l).asked = true ∧ (t.linkOf l).taken = k.taken
    (∀ p, k.st = .up → k.sendq = [p] → p.sent = 0 → p.vc < 4 → k.txSeq < 4096 →
      let m := if p.data.length ≤ 32 then 1 else if p.data.length ≤ 64 then 2 else 3
      m ≤ k.allowance p.vc → k.replay.length + m ≤ 512 →
      let t := k.pump l m
      t.sendq = [] ∧ t.allowance p.vc = k.allowance p.vc - m ∧ (∀ w, w ≠ p.vc → t.allowance w = k.allowance w)
        ∧ t.txSeq = (k.txSeq + m) % 4096 ∧ t.beat = k.beat + 8 * m
        ∧ ∃ fs, t.replay = k.replay ++ fs ∧ fs.length = m
          ∧ ∀ i g, fs[i]? = some g → g.seq = (k.txSeq + i) % 4096 ∧ flitSeq g.flit = g.seq ∧ flitVc g.flit = p.vc ∧ flitType g.flit = 0
            ∧ flitOk g.flit = true ∧ g.pkt = { p with sent := i + 1 } ∧ g.out = true ∧ g.lanes = k.inService false
            ∧ g.beat = k.beat + 8 * i
            ∧ (modeOfVc k.liveT p.vc = 0 → ∀ j, j < 56 → (lineBytes g.flit).getD j 0 = p.bytes.getD (56 * i + j) 0)
            ∧ (modeOfVc k.liveT p.vc = 1 → ∀ j, j < 48 → (lineBytes g.flit).getD j 0 = p.bytes.getD (48 * i + j) 0))
    ∧ (live → whole → flitOk f = true → v ∉ k.stopped → tagOk → flitSeq f = k.rxSeq → Fires (.flitReceive l f lost) s fun t =>
      (t.linkOf l).rxSeq = (k.rxSeq + 1) % 4096 ∧ (t.linkOf l).asked = false ∧ (t.linkOf l).taken = k.taken ++ [(v, f)]
      ∧ ∀ j x h, s.farOf l = some j → (s.linkOf j).replay.find? (·.out) = some x → x.seq = k.rxSeq → x.pkt.dest ≠ l.estate →
          x.pkt.sent = flitsOf x.pkt.data.length → s.cut l.estate x.pkt.dest x.pkt.vc = false →
          Map.get? (s.estate l.estate).routes x.pkt.dest = some h → (s.linkOf { estate := l.estate, link := h }).st = .up →
          ∃ q ∈ (t.linkOf { estate := l.estate, link := h }).sendq, q.cargo = x.pkt.cargo ∧ q.dest = x.pkt.dest ∧ q.vc = x.pkt.vc
            ∧ q.data = x.pkt.data ∧ q.sent = 0)
    ∧ (live → whole → flitOk f = true → v ∈ k.stopped → flitSeq f = k.rxSeq → Fires (.flitReceive l f lost) s fun t =>
      (t.linkOf l).rxSeq = (k.rxSeq + 1) % 4096 ∧ (t.linkOf l).taken = k.taken)
    ∧ (live → ¬whole ∨ flitOk f = false ∨ flitSeq f ≠ k.rxSeq → Fires (.flitReceive l f lost) s discards)
    ∧ (live → whole → flitOk f = true → flitSeq f = k.rxSeq → v ∉ k.stopped → ¬tagOk → Fires (.flitReceive l f lost) s fun t =>
      discards t ∧ (t.linkOf l).tagFails.get 0 v = k.tagFails.get 0 v + 1
        ∧ (v ∈ (t.linkOf l).stopped ↔ 16 ≤ k.tagFails.get 0 v + 1))
    ∧ (k.st ≠ .up → exec (.flitReceive l f lost) s = .next s)
    ∧ (k.st = .up → (s.estate l.estate).phase < 3 → flitType f = 1 → flitOk f = true → Fires (.flitReceive l f lost) s fun t =>
      (∀ w, w < 4 → (t.linkOf l).allowance w = min 1023 (k.allowance w + lineBits f (32 + 16 * w) 16))
        ∧ (t.linkOf l).rxSeq = k.rxSeq)
    ∧ (Fires (.resendRequest l lseq) s fun t =>
        let again := (k.fromSeq lseq.toNat).length
        (t.linkOf l).resent = (k.resent + again) % 2 ^ 28 ∧ (t.linkOf l).beat = k.beat + 8 * again
        ∧ (t.linkOf l).replay.map (fun x => (x.seq, x.flit, x.pkt)) = k.replay.map (fun x => (x.seq, x.flit, x.pkt))
        ∧ ∀ x ∈ (t.linkOf l).fromSeq lseq.toNat, x.out = true ∧ x.lanes = k.inService false)
    ∧ (∀ p g r, k.replay = p ++ g :: r → g.seq = lseq.toNat → (∀ x ∈ p, x.seq ≠ lseq.toNat) →
        Fires (.cumulativeAck l lseq) s fun t => (t.linkOf l).replay = r)
    ∧ (Fires (.allowanceReturn l vc n) s fun t => (t.linkOf l).allowance vc.toNat = min 1023 (k.allowance vc.toNat + n)
        ∧ ∀ w, w ≠ vc.toNat → (t.linkOf l).allowance w = k.allowance w)
    ∧ Fires (.linkKeyLoad l vc key) s fun t => (t.linkOf l).newKeys.get 0 (key.rx, vc.toNat) = key.bits ∧ (t.linkOf l).keys = k.keys

/-- R393, R395, R402, R404: a lane above the correction threshold, or with an uncorrectable codeword or no light, leaves service for
retraining, and may come back; a receiving lane above the threshold leaves at a flit that both ends agree on; a link with fewer than two
lanes in a direction goes down, and a request or answer of which it holds a flit that is not accepted completes with code 4, a store with
cause 1; a package whose links have all been lost for the fault interval, or whose firmware says so, is declared failed to every other,
and what is on its way to it is abandoned. When a retrain is counted, and that the interval must have passed on every estate linked to
the package, is the model's reading (log 123); what a link that goes down completes is log 35. -/
def Claims.LanesLinksAndPackages : Prop :=
  ∀ (s : State) (l : LinkId) (rx cw : Bool) (lane count e : Nat), lane < 8 →
    let k := s.linkOf l
    let x := k.lane rx lane
    let out (t : State) : Prop := ((t.linkOf l).lane rx lane).st = .retraining ∧ ((t.linkOf l).lane rx lane).retrains = x.retrains + 1
      ∧ (k.st = .up → (((t.linkOf l).inService rx).length < 2 ↔ (t.linkOf l).st = .down))
    ((s.estate l.estate).fecthr.toNat < count → x.st = .inService →
      (rx = false ∨ s.farOf l = none → Fires (.fecWindowEnd l rx lane count) s fun t => out t
        ∧ ((t.linkOf l).lane rx lane).corrected = count)
      ∧ (rx = true → s.farOf l ≠ none → Fires (.fecWindowEnd l rx lane count) s fun t => (∃ y ∈ (t.linkOf l).leaving, y.1 = lane)
        ∧ (t.linkOf l).lane rx lane = { x with corrected := count }))
    ∧ (count ≤ (s.estate l.estate).fecthr.toNat → Fires (.fecWindowEnd l rx lane count) s fun t =>
        (t.linkOf l).lane rx lane = { x with corrected := count } ∧ (t.linkOf l).st = k.st)
    ∧ (x.st = .inService → Fires (.laneLoss l rx lane cw) s fun t => out t
        ∧ ((t.linkOf l).lane rx lane).uncorrectable = x.uncorrectable + (if cw then 1 else 0))
    ∧ (x.st = .retraining → s.farOf l ≠ some l → Fires (.laneRejoin l rx lane) s fun t =>
        ((t.linkOf l).lane rx lane).st = .inService ∧ (t.linkOf l).beat = (if rx then k.beat else 0)
        ∧ ∀ f, s.farOf l = some f → ((s.linkOf f).lane (!rx) lane).st = .retraining →
            ((t.linkOf f).lane (!rx) lane).st = .inService)
    ∧ (k.st = .up → Fires (.linkDown l) s fun t => (t.linkOf l).st = .down ∧ (t.linkOf l).replay = [] ∧ (t.linkOf l).sendq = []
        ∧ ∀ f, s.farOf l = some f → s.farOf f = some l → (t.linkOf f).st ≠ .up)
    ∧ (∀ id m, k.st = .up → Map.get? s.msgs id = some m → m.stage = .sent ∨ (∃ c, m.stage = .done c) →
        k.carries (s.expects k) (.msg id) = true →
        Fires (.linkDown l) s fun t => Map.get? t.msgs id = some { m with wire := 2, stage := .done (if m.isStore then 1 else match m.body with
          | .close .. => 0
          | _ => 4) })
    ∧ (k.st ≠ .up → exec (.linkDown l) s = .next s)
    ∧ (∀ r, (r = true ∨ (s.linkedTo e ≠ [] ∧ ∀ u ∈ s.linkedTo e, s.lostFor u e = true)) → Fires (.packageFailure e r) s fun t =>
        (∀ u, u ≠ e → u < 64 → e ∈ (t.estate u).failed)
        ∧ ∀ id m, Map.get? s.msgs id = some m → m.stage = .sent → s.msgEstate m = e → m.core.estate ≠ e → m.core.estate < 64 →
            Map.get? t.msgs id = some m.lost)

/-- Flits, resends, allowances, lanes, links and packages. -/
def Obligations.Links : Prop := Claims.LinkTraffic ∧ Claims.LanesLinksAndPackages

/-! ## Banks, firings, inlets (R17 to R57, R61, R323 to R328, R405 to R408) -/

/-- R22, R26, R31, R32, R323, R364, R396: an insertion leaves its buffer in its thread's order when what it waits for is answered, and is
discarded if a store before it has failed; at its bank, behind no older one of its source, it commits as a tile, with the arrival
number of the bank in free mode, or is refused for 64 cycles where the region is full; the acknowledgement frees its entry and lowers
the in-flight count, which an inlet's tile has left as it committed (R356). A bank that refuses for 1,000,000 cycles is reported once.
That an insertion behind a failed store is discarded and counted in the record is the model's reading (log 60). -/
def Obligations.InsertionsTravel : Prop :=
  ∀ (s : State) (id : Nat) (x : Insert), Map.get? s.inserts id = some x →
    (∀ e c, x.stage = .waiting → s.insertEstate x = some e → s.allGone x.after = true → s.firstInLine id x = true →
        s.fabricHolds x.core e = false →
        ((s.ctx x.core x.ctx).failureFor 0 = none →
          Fires (.insertionSend c id) s fun t => Map.get? t.inserts id = some { x with stage := .sent })
        ∧ ((s.ctx x.core x.ctx).failureFor 0 ≠ none → Fires (.insertionSend c id) s fun t => Map.get? t.inserts id = none
          ∧ (t.part x.core.pid).insflight = ((s.part x.core.pid).insflight - 1) % 2 ^ 32))
    ∧ (∀ n c, x.stage = .refused n → n ≤ s.cycle → s.firstInLine id x = true →
        Fires (.insertionRetry c id) s fun t => Map.get? t.inserts id = some { x with stage := .sent })
    ∧ (∀ c, x.stage = .done → s.flown (.insert id) = true → Fires (.insertionAck c id) s fun t => Map.get? t.inserts id = none
        ∧ (t.part x.pid).insflight = (if x.home.isSome ∧ x.rank ≠ .inlet then ((s.part x.pid).insflight - 1) % 2 ^ 32
            else (s.part x.pid).insflight))
    ∧ (∀ c i, s.flown (.insert id) = false → exec (.insertionAck c id) s = .next s
        ∧ exec (.bankCommitInsertions x.pid i [id]) s = .next s)
    ∧ (∀ i, s.behind id x = true → exec (.bankCommitInsertions x.pid i [id]) s = .next s)
    ∧ (∀ i fld e b, x.home = some i → x.stage = .sent → s.bankAt x.pid i = some (b, fld, e) → s.bankMoves x.pid i = false →
        s.roundMode x.pid = false → s.behind id x = false → s.flown (.insert id) = true →
        let k := s.bank x.pid i
        (k.tiles.length < s.regionCap x.pid e → Fires (.bankCommitInsertions x.pid i [id]) s fun t =>
          Map.get? t.inserts id = some { x with stage := .done } ∧ (t.bank x.pid i).ctr = k.ctr + 1
            ∧ (t.part x.pid).inletq = (if x.rank = .inlet then (s.part x.pid).inletq.drop 1 else (s.part x.pid).inletq)
            ∧ (t.part x.pid).insflight = (if x.rank = .inlet then ((s.part x.pid).insflight - 1) % 2 ^ 32 else (s.part x.pid).insflight)
            ∧ ∃ u, (t.bank x.pid i).tiles = insertTile u k.tiles ∧ u.seq = k.ctr ∧ u.matchable = true ∧ u.age = 0
              ∧ u.img = (if x.keep then x.img else tileStamped x.img ((s.tbaseOf e).toNat % 2 ^ 32)))
        ∧ (s.regionCap x.pid e ≤ k.tiles.length → Fires (.bankCommitInsertions x.pid i [id]) s fun t =>
          Map.get? t.inserts id = some { x with stage := .refused (s.cycle + 64) } ∧ (t.bank x.pid i).tiles = k.tiles
            ∧ (t.part x.pid).polfull = satInc (s.part x.pid).polfull))
    ∧ ∀ p i n, (s.bank p i).refusing = some n → n + 1000000 ≤ s.cycle → (s.bank p i).reported = false →
        Fires (.polderFullReport p i) s fun t => (t.part p).snotice = (s.part p).snotice ||| 2 ∧ (t.bank p i).reported = true

/-- R24 to R29, R52: in free mode a sluice decision forms groups by the rules that have reached it over the matchable tiles, up to four
and to the room of its output buffer: each becomes a firing of the rule with its tiles, and those tiles leave the bank. With a full
buffer, or in a bank that moves, it forms none. Where no change of the rules is under way they are the partition's. -/
def Claims.SluiceDecisions : Prop :=
  ∀ (s : State) (p i : Nat),
    let k := s.bank p i
    let lim := min 4 (8 - (s.outBuffer p i).length)
    let d := decideGroups ((s.reachRules p i).rulesAt p i) lim (k.tiles.filter (·.matchable)) k.rot
    (k.lag = [] → s.reachRules p i = s ∧ s.rulesAt p i = validRules (s.part p).rules)
    ∧ (lim ≠ 0 → s.bankMoves p i = false → s.roundMode p = false → Fires (.sluiceDecision p i) s fun t =>
      (∃ fs : List (Nat × Firing), t.firings = s.firings ++ fs ∧ fs.map (fun f => (f.2.rule, f.2.img, f.2.tiles.map (·.img)))
          = d.groups.map (fun g => (g.rule, g.img, g.tiles.map (·.img)))
        ∧ ∀ f ∈ fs, f.2.pid = p ∧ f.2.bank = i ∧ f.2.place = .out ∧ f.2.roundM = false)
      ∧ (t.bank p i).rot = d.rot
      ∧ ∀ u, u ∈ (t.bank p i).tiles ↔ ∃ v ∈ k.tiles, u = { v with age := v.age + 1 } ∧ ∀ g ∈ d.groups, ∀ w ∈ g.tiles, w.seq ≠ v.seq)
    ∧ (lim = 0 ∨ s.bankMoves p i = true → exec (.sluiceDecision p i) s = .next (s.reachRules p i))

/-- R26, R34, R326 to R328: a bank answers a `probe` with the number of matchable tiles of the key and class pattern and the header of the
oldest, and a `take` with the oldest, which it removes, or 64 bytes of zero; the cycle's decision comes first, so that a tile the
sluice wants goes to the sluice; while a round is in progress the bank keeps the request. -/
def Claims.BankAnswers : Prop :=
  ∀ (s : State) (p i id : Nat) (m : Msg), Map.get? s.msgs id = some m → m.core.pid = p → m.stage = .sent →
    m.bankKey.map (s.homeOf p) = some i → s.bankMoves p i = false → s.flown (.msg id) = true →
    let d := s.decision p i
    let k := d.bank p i
    let serve := Instr.polderRequestServe p i [id]
    let answered (t : State) (bs : List Byte) : Prop := ∃ n, Map.get? t.msgs id = some n ∧ n.stage = .done 0 ∧ n.reply = bs ∧ n.body = m.body
    (s.roundHolds p = true → Fires serve s fun t => (∃ n, Map.get? t.msgs id = some n ∧ n.stage = .held) ∧ t.banks = d.banks)
    ∧ (s.roundHolds p = false →
      (∀ pat key r c, m.body = .probe pat key r c → Fires serve s fun t => t.banks = d.banks
        ∧ answered t (wordBytes (match matching pat key k.tiles with
          | [] => [0, 0, 0]
          | u :: us => [BitVec.ofNat 64 (us.length + 1), tileHead0 u.img, tileHead1 u.img])))
      ∧ ∀ pat key a, m.body = .take pat key a →
        (matching pat key k.tiles = [] → Fires serve s fun t => answered t (List.replicate 64 0) ∧ t.banks = d.banks)
        ∧ ∀ u us, matching pat key k.tiles = u :: us → Fires serve s fun t => answered t (lineBytes u.img)
            ∧ (t.bank p i).tiles = k.tiles.filter fun w => w.seq != u.seq)

/-- A sluice decision forms firings; a bank answers probe and take. -/
def Obligations.SluicesAndBankAnswers : Prop := Claims.SluiceDecisions ∧ Claims.BankAnswers

/-- R30, R33, R50 to R57, R61: a firing leaves its bank for the queue of R53, or waits for room. It starts when every core that it
needs has a helper reserved: the helper is Ready at the rule's entry, at application level, with the tiles' headers in g20 to g27,
the tiles' copies in its binding area, the addresses of their payloads in g28 to g31 and its member index. A coreside firing goes to the holding area, and a set of them starts at
once. -/
def Obligations.FiringsStart : Prop :=
  (∀ (s : State) (p i id : Nat) (f : Firing) (fs : List (Nat × Firing)), s.outBuffer p i = (id, f) :: fs → Map.get? s.firings id = some f →
    (∀ q ptr, s.target53 f = some (q, ptr) → Fires (.firingDispatch p i) s fun t =>
      Map.get? t.firings id = some { f with place := q, ord := s.nextId } ∧ (t.bank p i).tie = ptr)
    ∧ (s.target53 f = none → exec (.firingDispatch p i) s = .next s))
  ∧ ∀ (s : State) (id : Nat) (f : Firing), f.tiles.length ≤ 4 →
    let starts (i : Instr) (size : Nat) (cs : List CoreId) : Prop := Map.get? s.offer.firings id = some f → cs.Nodup → cs ≠ [] →
      (∀ c ∈ cs, ((s.offer.core c).reservedFor id).isSome) → (∀ c ∈ cs, s.modeOf c = 0) →
      Fires i s fun t => Map.get? t.firings id = some { f with place := .running }
        ∧ ∀ c ∈ cs, ∀ n, (s.offer.core c).reservedFor id = some n → let x := t.ctx c n
          x.run = .ready ∧ x.pc = Rule.entry f.img ∧ x.level = .app ∧ x.firing = some id ∧ x.reserved = none
          ∧ x.member = (if Rule.span f.img = 1 then 0 else numCore c.num) ∧ x.firinfo = f.info ∧ x.fieldsize = BitVec.ofNat 64 size
          ∧ ∀ j u, j < 4 → f.tiles[j]? = some u →
            let area := 0x7F000 + (n - 1) * 0x100 + j * 0x40
            x.getG (regNo (20 + 2 * j)) = tileHead0 u.img ∧ x.getG (regNo (21 + 2 * j)) = tileHead1 u.img
            ∧ x.getG (regNo (28 + j)) = BitVec.ofNat 64 (0xFC * 2 ^ 56 + area + 16)
            ∧ (MemoryWf s → (∀ d ∈ cs, d.isVirt = true ∧ d.num < 2 ^ 20 ∧ s.isResident d = true) →
                ∀ k, k < 64 → t.peek (scratchLoc c (area + k)) = (lineBytes u.img).getD k 0)
    (∀ c q, s.offer.liveAt c = some q → (s.offer.queue (.core q)).find? (fun g => ((s.offer.core c).reservedFor g.1).isSome) = some (id, f) →
      starts (.firingStart c) 0 [c])
    ∧ (∀ b k, s.offer.runs b = true → s.offer.clusterAt b = some k → s.offer.qhead (.cluster k) = some (id, f) →
      (Rule.coreside f.img = 0 → starts (.blockFiringStart b) 0 b.cores)
      ∧ (Rule.coreside f.img ≠ 0 → Map.get? s.offer.firings id = some f →
          (s.offer.firings.filter fun g => g.2.place == .coreside && g.2.pid == f.pid).length < 64 →
          Fires (.blockFiringStart b) s fun t => Map.get? t.firings id = some { f with place := .coreside, ord := s.offer.nextId }))
    ∧ (∀ e d bs, s.offer.qhead (.die (e, d)) = some (id, f) → f.blocks = some bs → bs ≠ [] →
      starts (.fieldFiringStart f.pid e d) bs.length (bs.flatMap BlockId.cores))
    ∧ ∀ p rule b, s.heldFor p rule = [(id, f)] → Map.get? s.firings id = some f → Rule.coreside f.img = 1 → Rule.span f.img = 2 →
        s.blocksOf p = [b] → s.runs b = true → s.runsRule b rule = false →
        (∀ c ∈ b.cores, (s.core c).freeHelper.isSome ∧ (s.core c).reservedFor id = none) →
        Fires (.coresideSetStart p rule) s fun t => Map.get? t.firings id = some { f with place := .running, set := some s.nextId }

/-- R44 to R46, R320, R325, R405 to R408: in a partition with a slot of a host endpoint a 64-byte tile written in the tile area enters the
inlet queue; any other write there is counted. A payload write that the tables allow is stored and counted in `inletpc`, and
discarded and counted else; a read gives the bytes, or is aborted. The first tile of the queue is sent to its home bank once its gate is
met, one at a time and with its GATE bit as it is, and leaves the queue when the bank takes it; an insertion under a grant enters the
queue, or is refused where it is full. That a tile of class 0 is discarded with the malformed writes is the model's reading (logs 62,
125). -/
def Obligations.Inlets : Prop :=
  ∀ (s : State) (p : Nat),
    let x := s.part p
    (∀ off n (tile : Line) relaxed, s.hasHost p = true → off < 0x80000 →
      let ok : Prop := n = 64 ∧ off % 64 = 0 ∧ tileClass tile ≠ 0
      (ok → x.inletq.length < 256 → Fires (.inletTileWrite p off n tile relaxed) s fun t =>
        (t.part p).inletq = x.inletq ++ [{ img := tile, gate := tileGate tile }] ∧ (t.part p).insflight = (x.insflight + 1) % 2 ^ 32)
      ∧ (ok → 256 ≤ x.inletq.length → exec (.inletTileWrite p off n tile relaxed) s = .next s)
      ∧ (¬ok → Fires (.inletTileWrite p off n tile relaxed) s fun t => (t.part p).inletq = x.inletq
          ∧ (t.part p).inleterr = satHalf x.inleterr true))
    ∧ (∀ off (data : List Byte), s.hasHost p = true → off + data.length ≤ 2 ^ 36 →
      (∀ u, s.apertureWrite p off data = some u → Fires (.inletPayloadWrite p off data) s fun t => t.mem = u.mem
        ∧ (t.part p).inletpc = (u.part p).inletpc + BitVec.ofNat 64 data.length)
      ∧ (s.apertureWrite p off data = none → Fires (.inletPayloadWrite p off data) s fun t => t.mem = s.mem
          ∧ (t.part p).inletpc = x.inletpc ∧ (t.part p).inleterr = satHalf x.inleterr false))
    ∧ (∀ off n, s.hasHost p = true → off + n ≤ 2 ^ 36 →
      (∀ bs u, s.apertureRead p off n = some (bs, u) → Fires (.inletApertureRead p off n) s fun t =>
        t.reply = 1 :: bs.map (·.zeroExtend 64))
      ∧ (s.apertureRead p off n = none → Fires (.inletApertureRead p off n) s fun t => t.reply = [0] ∧ t.mem = s.mem))
    ∧ (∀ u us, x.inletq = u :: us → x.banks ≠ [] →
      ((u.gate = false ∨ gateMet x.inletpc u.img = true) → s.inletSends p = false →
        Fires (.inletInsert p) s fun t => (t.part p).inletq = x.inletq
          ∧ ∃ k, t.inserts = s.inserts ++ [(s.nextId, k)] ∧ k.pid = p ∧ k.home = some (s.homeOf p (tileKey0 u.img))
            ∧ k.img = setLineBits (setLineBits u.img 17 1 1) 19 1 (if u.xpart then 1 else 0) ∧ k.stage = .sent ∧ k.keep = u.keep
            ∧ k.rank = .inlet ∧ k.snap = u.snap)
      ∧ (u.gate = true → gateMet x.inletpc u.img = false → exec (.inletInsert p) s = .next s)
      ∧ (s.inletSends p = true → exec (.inletInsert p) s = .next s))
    ∧ (∀ id c k, Map.get? s.inserts id = some k → k.pid = p → k.home = none → k.stage = .sent → s.behind id k = false →
      s.flown (.insert id) = true →
      (x.inletq.length < 256 → Fires (.inletAccept p c id) s fun t => Map.get? t.inserts id = some { k with stage := .done }
        ∧ (t.part p).inletq = x.inletq ++ [{ img := k.img, keep := k.keep, xpart := true, snap := k.snap }]
        ∧ (k.core.pid ≠ p → (t.part p).insflight = (x.insflight + 1) % 2 ^ 32
            ∧ (t.part k.core.pid).insflight = ((s.part k.core.pid).insflight - 1) % 2 ^ 32))
      ∧ (256 ≤ x.inletq.length → Fires (.inletAccept p c id) s fun t =>
          Map.get? t.inserts id = some { k with stage := .refused (s.cycle + 64) } ∧ (t.part p).inletq = x.inletq))
    ∧ (∀ i w, i < 16 → Fires (.inletGrantChange p i w) s fun t =>
        ((t.part p).grants.get 0 i).toNat = w.toNat - w.toNat / 2 ^ 23 % 512 * 2 ^ 23)
    ∧ ∀ n, n < 64 → Fires (.inletSlotAssign p n) s fun t => (t.part p).slot = some n ∧ (t.part p).inletpc = 0

/-! ## Messages of the memory system (R63, R220 to R226, R245 to R278, R297) -/

/-- R70, R231, R237, R266, R268, R272, R274: at its unit, once its flits are over the link, a load reads its bytes and changes none; a
store of stream 0, or the next of an ordered stream, writes its data there, and in the image of a block out of the machine, and
nothing elsewhere; an ordered store that is early is held; behind a failed one it fails alike. An access that is not single-copy
atomic may be performed part by part: in parts of what sizes is the model's choice (log 13). An atomic reads the old value and writes what
its operation gives; one that has timed out writes nothing. Each is then answered. -/
def Obligations.AccessesPerformed : Prop :=
  ∀ (s : State) (id : Nat) (m : Msg) (a : Access) (t : Target), Map.get? s.msgs id = some m → m.body = .access a [t] → m.stage = .sent →
    s.flown (.msg id) = true → m.pos = 0 → m.void = false → m.seqUnit = none → MemoryWf s → a.size = t.len → t.loc % 64 = t.va % 64 →
    (∀ l, s.mirrorLoc t.loc = some l → l + t.len ≤ 2 ^ 90) →
    let old := s.peekBytes t.loc t.len
    let answered (u : State) (ok : Msg → Prop) : Prop := ∃ n, Map.get? u.msgs id = some n ∧ n.stage = .done 0 ∧ n.race = none ∧ ok n
    let stands (l : Nat) : Prop := l = t.loc ∨ s.mirrorLoc t.loc = some l
    let writesTo (n : Nat) (u : State) (bs : List Byte) : Prop := (∀ l i, stands l → i < n → u.peek (l + i) = bs.getD i 0)
      ∧ ∀ x, (∀ l, stands l → x < l ∨ l + n ≤ x) → u.peek x = s.peek x
    let writes := writesTo t.len
    let key : WeirKey := { core := m.core, ctx := m.ctx, stream := a.stream, unit := t.unit }
    ((a.kind = .load ∨ a.kind = .rld) → m.detached = false → a.grain = a.size → AtUnit s m a [t] false →
      Fires (.loadPerform id) s fun u => answered u (fun n => n.reply = old) ∧ ∀ l, u.peek l = s.peek l)
    ∧ (a.kind = .store → a.data.length = t.len → a.grain = a.size → AtUnit s m a [t] true →
        (a.stream = 0 → Fires (.storeArrival id) s fun u => answered u (fun _ => True) ∧ writes u a.data)
        ∧ (∀ e, a.stream ≠ 0 → Map.get? s.weirs key = some e → e.failed = 0 → m.seq = e.expected →
            Fires (.storeArrival id) s fun u => answered u (fun _ => True) ∧ writes u a.data
              ∧ Map.get? u.weirs key = some { expected := (e.expected + 1) % 65536, last := s.cycle, failed := 0 })
        ∧ (∀ e, a.stream ≠ 0 → Map.get? s.weirs key = some e → m.seq = e.expected → e.failed ≠ 0 →
            Fires (.storeArrival id) s fun u => Map.get? u.msgs id = some { m with stage := .done e.failed } ∧ u.mem = s.mem)
        ∧ (∀ e, a.stream ≠ 0 → Map.get? s.weirs key = some e → m.seq ≠ e.expected → s.weirHeld t.unit < 512 →
            Fires (.storeArrival id) s fun u => Map.get? u.msgs id = some { m with stage := .held } ∧ u.mem = s.mem))
    ∧ (a.kind = .store → a.data.length = t.len → a.grain ≠ a.size → 0 < t.len → a.stream = 0 → AtUnit s m a [t] true →
        Fires (.storeArrival id) s fun u => ∃ k n, 0 < k ∧ k ≤ t.len ∧ (k = t.len ∨ k % a.grain = 0) ∧ writesTo k u a.data
          ∧ Map.get? u.msgs id = some n ∧ n.pos = k ∧ n.stage = (if k = t.len then .done 0 else .sent))
    ∧ (∀ op ty x y, a.kind = .amo op ty x y → wholeElement ty → t.len = ty.width / 8 →
        let r := atomicOp op ty x y old
        AtUnit s m a [t] r.1.isSome →
        (m.detached = false → Fires (.atomicPerform id) s fun u =>
          answered u (fun n => n.reply = old ∧ n.flags = r.2.toNat) ∧ writes u (r.1.getD old))
        ∧ (m.detached = true → Fires (.atomicPerform id) s fun u =>
          Map.get? u.msgs id = some { m with stage := .done 0 } ∧ u.mem = s.mem ∧ u.dies = s.dies))
    ∧ (∀ op ty x, a.kind = .red op ty x → wholeElement ty → t.len = ty.width / 8 → a.stream = 0 →
        let r := atomicOp op ty x 0 old
        AtUnit s m a [t] r.1.isSome → Fires (.atomicPerform id) s fun u =>
          answered u (fun n => n.flags = 0) ∧ writes u (r.1.getD old))

/-- R257, R258, R260, R271, R326, R327: an answer writes the registers its access names and clears their pending marks; one with an error
marks them instead where the check does not enforce; a remote load makes its mailbox register present; a tile that is taken is written to its
image, or the error is a fault of the next instruction; the message is gone. A late answer is discarded and counted. -/
def Claims.AnswersArrive : Prop :=
  ∀ (s : State) (id : Nat) (m : Msg), Map.get? s.msgs id = some m → m.race = none → (s.ctx m.core m.ctx).owed = none →
    s.flown (.msg id) = true →
    let x (t : State) : Ctx := t.ctx m.core m.ctx
    let gone (t : State) : Prop := Map.get? t.msgs id = none ∧ ∀ p ∈ (x t).pend, p.2 ≠ id
    (∀ a ts r ty, m.body = .access a ts → m.dst = .g r ty → m.detached = false → (a.kind = .load ∨ ∃ op et p q, a.kind = .amo op et p q) →
      (m.stage = .done 0 → Fires (.loadReply id) s fun t => gone t ∧ (x t).getG r = (if r = 0 then 0 else loadValue ty m.reply)
        ∧ (∀ q, q ≠ r → (x t).getG q = (s.ctx m.core m.ctx).getG q) ∧ ∀ l, t.peek l = s.peek l)
      ∧ (∀ e, m.stage = .done (e + 1) → m.mode ≠ 2 → a.own = false → Fires (.loadReply id) s fun t => gone t
        ∧ (∀ q, (x t).getG q = (s.ctx m.core m.ctx).getG q)
        ∧ ((if r = 0 then none else some (.g r)), errorWord (e + 1) a.addr, a.addr) ∈ (x t).errs))
    ∧ (∀ a ts r, m.body = .access a ts → a.kind = .load → m.dst = .v r → m.detached = false → m.stage = .done 0 →
      Fires (.loadReply id) s fun t => gone t ∧ (x t).getV r = lineOfBytes m.reply)
    ∧ (∀ a ts r, m.body = .access a ts → a.kind = .rld → m.dst = .v r → m.detached = false → m.stage = .done 0 →
      Fires (.rldReply id) s fun t => gone t ∧ (x t).getV r = lineOfBytes m.reply)
    ∧ (∀ a ts r, m.body = .access a ts → a.kind = .rld → m.dst = .x r → m.detached = false →
      (∀ n o, (s.ctx m.core n).run = .waiting (.xget o) → o.a ≠ r) →
      (m.stage = .done 0 → Fires (.rldReply id) s fun t => Map.get? t.msgs id = none
        ∧ (t.core m.core).mail r = { value := BitVec.ofNat 64 (leNat m.reply), pres := true })
      ∧ (∀ e, m.stage = .done (e + 1) → Fires (.rldReply id) s fun t => Map.get? t.msgs id = none
        ∧ (t.core m.core).mail r = { value := errorWord (e + 1) a.addr, pres := true, err := true }))
    ∧ (∀ pat key d c, m.body = .probe pat key d c → m.detached = false → m.stage = .done 0 → Fires (.loadReply id) s fun t => gone t
        ∧ ∀ q, q ≠ 0 →
          let w (i : Nat) : Word := BitVec.ofNat 64 (leNat ((m.reply.drop (8 * i)).take 8))
          (x t).getG q = (if c ≠ 0 ∧ q = c + 1 then w 2 else if c ≠ 0 ∧ q = c then w 1 else if q = d then w 0
            else (s.ctx m.core m.ctx).getG q))
    ∧ (∀ pat key p, m.body = .take pat key p → m.detached = false →
      let loc := scratchLoc m.core (p.extractLsb' 0 19).toNat
      (m.stage = .done 0 → m.mode = 0 → m.reply.length = 64 → MemoryWf s → (∀ b, m.core.block = some b → s.absentImage b = none) →
        Fires (.loadReply id) s fun t => Map.get? t.msgs id = none ∧ id ∉ (x t).holdOn
          ∧ (∀ q, (x t).getG q = (s.ctx m.core m.ctx).getG q) ∧ (∀ i, i < 64 → t.peek (loc + i) = m.reply.getD i 0)
          ∧ ∀ l, l < loc ∨ loc + 64 ≤ l → t.peek l = s.peek l)
      ∧ ∀ e, e < 65535 → m.stage = .done (e + 1) → Fires (.loadReply id) s fun t => Map.get? t.msgs id = none ∧ t.mem = s.mem
          ∧ ∃ o, (x t).owed = some o ∧ o.site = none ∧ o.code = if e = 1 then 0x10 else 0x0F)
    ∧ (∀ e, m.stage = .done e → m.detached = true → Fires (.lateReply id) s fun t =>
        Map.get? t.msgs id = none ∧ (∀ r, (x t).getG r = (s.ctx m.core m.ctx).getG r)
        ∧ ∀ q, s.place m.core = some q → (t.physCore q).latereply = satInc (s.physCore q).latereply)

/-- R249: a request that is not answered within its partition's timeout completes with code 0x0001, its tag's generation is kept out of use
for another, and its answer will be late. -/
def Claims.RequestTimeouts : Prop :=
  ∀ (s : State) (id : Nat) (m : Msg) (a : Access) (ts : List Target) (tag g : Nat) (r : Reg) (ty : ETy), Map.get? s.msgs id = some m →
    m.body = .access a ts → m.tag = some (tag, g) → m.translating = false → m.detached = false → m.dst = .g r ty → m.mode ≠ 2 →
    a.own = false → id < s.nextId → m.issued + s.timeout m.core ≤ s.cycle → (s.ctx m.core m.ctx).owed = none →
    Fires (.remoteRequestTimeout id) s fun t =>
      (tag, g, s.cycle + s.timeout m.core) ∈ (t.core m.core).quarantine
      ∧ ((if r = 0 then none else some (.g r)), errorWord 1 a.addr, a.addr) ∈ (t.ctx m.core m.ctx).errs
      ∧ (∀ p ∈ (t.ctx m.core m.ctx).pend, p.2 ≠ id) ∧ ∃ n k, (k, n) ∈ t.msgs ∧ n.detached = true ∧ n.tag = none ∧ n.body = m.body

/-- Answers write the registers their access names; timeouts complete with code 1. -/
def Obligations.AnswersArrive : Prop := Claims.AnswersArrive ∧ Claims.RequestTimeouts

/-- R245, R248, R265 to R270, R320: an acknowledged store is gone; a failed one leaves a record at its context, and in an ordered stream
the later stores to its unit are discarded and counted in that record, its slot fails and may not open for one timeout; a close marker in sequence deletes its Weir entry, and its acknowledgement frees the slot; an idle
entry of a stream with no open slot goes after one timeout; a refused message is sent again after 64 cycles; a release leaves, with
every replica of a multicast, when what it waits for is answered, and behind a failed store goes without effect, so that later stores
there are next in sequence (the model's choice, log 127); a hold ends. -/
def Obligations.StoresAnswered : Prop :=
  ∀ (s : State) (id : Nat) (m : Msg), Map.get? s.msgs id = some m → id < s.nextId → m.race = none →
    (s.ctx m.core m.ctx).owed = none → s.flown (.msg id) = true →
    let x (t : State) : Ctx := t.ctx m.core m.ctx
    (∀ a ts, m.body = .access a ts → a.kind.isStore = true → m.stage = .done 0 → Fires (.storeAck id) s fun t =>
      Map.get? t.msgs id = none ∧ (∀ r, (x t).getG r = (s.ctx m.core m.ctx).getG r) ∧ ∀ l, t.peek l = s.peek l)
    ∧ (∀ a ts e, m.body = .access a ts → a.kind.isStore = true → m.stage = .done (e + 1) → m.detached = false → m.mode ≠ 2 →
        (s.ctx m.core m.ctx).failures = [] → a.stream = 0 → Fires (.storeFailureNotice id) s fun t => Map.get? t.msgs id = none
          ∧ (x t).failures = [{ stream := 0, cause := e + 1, addr := a.addr, units := [firstUnit ts] }])
    ∧ (∀ a ts e u, m.body = .access a ts → a.kind.isStore = true → m.stage = .done (e + 1) → m.detached = false → m.mode ≠ 2 →
        (s.ctx m.core m.ctx).failures = [] → a.stream ≠ 0 → m.unit = some u → s.olderFailed id m = false →
        Fires (.storeFailureNotice id) s fun t =>
          (∃ f, (x t).failures = [f] ∧ f.stream = a.stream ∧ f.cause = e + 1 ∧ f.addr = a.addr ∧ f.units = [u] ∧ f.more = false)
          ∧ (∀ i k, (i, k) ∈ s.msgsOf m.core m.ctx → id < i → k.isStore = true → k.streamOf = a.stream → k.unit = some u → k.stage = .sent →
              Map.get? t.msgs i = none)
          ∧ { stream := a.stream, unit := u, until_ := s.cycle + s.timeout m.core } ∈ (x t).holds
          ∧ (∀ k ∈ (x t).slots, k.stream = a.stream → k.unit = u → k.failed = true)
          ∧ t.slotOk m.core m.ctx a.stream u = false ∧ Map.get? t.msgs id = none ∧ t.mem = s.mem)
    ∧ (∀ st u, m.body = .close st u → s.unitHolds u = false → m.stage = .sent →
        let key : WeirKey := { core := m.core, ctx := m.ctx, stream := st, unit := u }
        ∀ e, Map.get? s.weirs key = some e → e.expected = m.seq → Fires (.closeMarkerCommit id) s fun t =>
          Map.get? t.weirs key = none ∧ Map.get? t.msgs id = some { m with stage := .done 0 })
    ∧ (∀ st u e, m.body = .close st u → m.stage = .done e → Fires (.storeAck id) s fun t => Map.get? t.msgs id = none
        ∧ ∀ k ∈ (x t).slots, ¬(k.stream = st ∧ k.unit = u))
    ∧ (∀ n, m.stage = .refused n → n ≤ s.cycle → exec (.readmissionHoldResend id) s = .next (s.setStage id .sent)
        ∧ (m.isStore = true → exec (.weirResend id) s = .next (s.setStage id .sent)))
    ∧ (∀ a ts, m.body = .access a ts → m.stage = .unsent → s.cleared m = true → a.own = false → m.detached = false →
        (a.order.releases = true → (s.ctx m.core m.ctx).failureFor a.stream = none ∧ ∀ k ∈ s.together id m, s.cleared k.2 = true) →
        Fires (.releaseSend id) s fun t => Map.get? t.msgs id = some { m with stage := .sent, issued := s.cycle }
          ∧ (a.order.releases = true → ∀ k ∈ s.together id m, ∃ n, Map.get? t.msgs k.1 = some n ∧ n.stage = .sent))
    ∧ (∀ a ts f, m.body = .access a ts → m.stage = .unsent → s.cleared m = true → a.own = false → m.detached = false → m.mode ≠ 2 →
        a.order.releases = true → a.kind.isStore = true → a.stream ≠ 0 → (s.ctx m.core m.ctx).failureFor a.stream = some f →
        (∀ k ∈ s.together id m, s.cleared k.2 = true) → Fires (.releaseSend id) s fun t =>
          Map.get? t.msgs id = some { m with stage := .sent, void := true, issued := s.cycle } ∧ t.mem = s.mem)
    ∧ (∀ c n st u, Fires (.slotReopenHoldEnd c n st u) s fun t =>
        (∀ h ∈ (t.ctx c n).holds, h.stream = st → h.unit.number = u → s.cycle < h.until_)
        ∧ ∀ h ∈ (s.ctx c n).holds, s.cycle < h.until_ → h ∈ (t.ctx c n).holds)
    ∧ (∀ c n, Fires (.tagQuarantineEnd c n) s fun t => (∀ q ∈ (t.core c).quarantine, q.1 = n → s.cycle < q.2.2)
        ∧ ∀ q ∈ (s.core c).quarantine, s.cycle < q.2.2 → q ∈ (t.core c).quarantine)
    ∧ ∀ (key : WeirKey) (e : WeirEntry), s.weirs = [(key, e)] → e.last + s.timeout key.core ≤ s.cycle →
        (s.ctx key.core key.ctx).slotOpen key.stream key.unit = false →
        Fires (.weirEntryTimeout key.core key.ctx key.stream key.unit.number) s fun t => t.weirs = []

/-- R63, R73, R220 to R226: the walk of the access that is the next of its context and of its core's replay queue, and has a walker,
gives it its leaf, with A set, and D for a write; a load, or a store of stream 0, that this translates whole is sent to the location
that the leaf gives; a page that is not present parks the context, which then awaits that page; a fault, or an uncorrectable error at an
entry that the walk reads, is taken at the access, with that entry's level and word. -/
def Claims.PageWalks : Prop :=
  ∀ (s : State) (id va : Nat) (m : Msg) (a : Access), Map.get? s.msgs id = some m → m.body = .access a [] → s.walksNext id m = true →
    s.hasWalker id m = true → s.locate m.core a.kind.xkind a.addr a.size m.leafs = .walk va →
    let x := s.ctx m.core m.ctx
    let faults (bad : Bool) (code : Nat) (at_ : Word → Word → Prop) : Prop :=
      m.detached = false → x.level = .app → (s.part m.core.pid).tdeleg = 0 → (s.part m.core.pid).svec ≠ 0 → x.busyS = false →
      Fires (.pageWalkComplete id bad) s fun t => (t.ctx m.core m.ctx).trapS.pc = m.pc
        ∧ (t.ctx m.core m.ctx).trapS.cause.toNat % 256 = code ∧ (t.ctx m.core m.ctx).trapS.addr = a.addr
        ∧ at_ ((t.ctx m.core m.ctx).trapS.trec.get 0 4) ((t.ctx m.core m.ctx).trapS.trec.get 0 5)
        ∧ (t.ctx m.core m.ctx).pc = (s.part m.core.pid).svec ∧ Map.get? t.msgs id = none
    (∀ p mig, s.walk m.core va a.kind.xkind = .park p mig → Fires (.pageWalkComplete id false) s fun t =>
      (t.ctx m.core m.ctx).run = .parked ∧ p ∈ (t.ctx m.core m.ctx).waitPages
        ∧ (p ∉ x.waitPages → ringFull (ringSize (s.part m.core.pid).preqbase) (s.part m.core.pid).preqhead
            (s.part m.core.pid).preqtail = false → (t.part m.core.pid).preqtail = (s.part m.core.pid).preqtail + 1))
    ∧ (∀ w p loc, s.walk m.core va a.kind.xkind = .leaf w p loc → MemoryWf s → m.noFill = false →
        (∀ k ∈ s.walking m.core m.ctx, k.1 = id) → Fires (.pageWalkComplete id false) s fun t =>
        t.peek loc = (w ||| (if a.kind.writes then 0xC0 else 0x40)).truncate 8
          ∧ (∀ q, s.place m.core = some q → ∃ e ∈ (t.physCore q).dtlb, e.page = p ∧ e.asid = s.asidOf m.core)
          ∧ (a.kind = .load ∧ m.tag.isSome = true ∨ a.kind = .store ∧ a.stream = 0 ∧ x.failures = [] → a.order.releases = false →
              m.core.isVirt = true → m.detached = false → m.after = [] → m.leafs = [] → a.addr.toNat / 2 ^ 56 = 0 →
              a.addr.toNat % 65536 + a.size ≤ 65536 → 0 < a.size → (∀ k ∈ s.msgsOf m.core m.ctx, k.1 = id) →
              s.fabricHolds m.core (pteEstate w) = false → s.hasRoute m.core.estate (pteEstate w) = true →
              ∃ n, Map.get? t.msgs id = some n ∧ n.stage = .sent ∧ n.issued = s.cycle
                ∧ n.body = .access a [pagedTarget m.core.estate (pteEstate w) va (pteAddr w + (va - p.va)) a.size (pteNT w)]))
    ∧ (∀ code l w, s.walk m.core va a.kind.xkind = .fault code l w → code < 256 → code ≠ 0x22 → code ≠ 0x23 →
        faults false code fun r4 r5 => r4 = BitVec.ofNat 64 l ∧ r5 = w)
    ∧ faults true 0x0E fun r4 r5 =>
        ∃ y ∈ s.readsFrom m.core.estate va [1, 2, 3, 4] (s.root m.core.pid), r4 = BitVec.ofNat 64 y.1 ∧ r5 = y.2.2

/-! ## Fences and errors (R209, R317, R321, R379 to R381, R417, R420) -/

/-- R58: fetching ahead, at a context's turn, changes no message, partition, block or other core, and of its own core only whose turn
is next and what has been fetched; a fetch error that no instruction reaches is only counted, and a fetch of a context that is not
Ready, Halted or kept to a round's close is dropped. -/
def Claims.FetchesAhead : Prop :=
  ∀ (s : State) (c : CoreId) (n : Nat) (bad : Bool),
    let turn : Prop := s.fetchTurn c = some n ∧ s.isResident c = true
    let line := nextLine (s.ctx c n).pc
    let idle : Prop := (s.ctx c n).run ≠ .ready ∨ s.isHalted c n = true ∨ s.keptRequest c n = true
    (¬turn → exec (.fetchLine c n bad) s = .next s)
    ∧ (Fires (.fetchLine c n bad) s fun t => t.msgs = s.msgs ∧ t.parts = s.parts ∧ t.blocks = s.blocks
        ∧ (∀ d, d ≠ c → t.core d = s.core d) ∧ { coreRest (t.core c) with rotF := 0 } = { coreRest (s.core c) with rotF := 0 }
        ∧ ∀ m, { t.ctx c m with fetched := none } = { s.ctx c m with fetched := none })
    ∧ (turn → Fires (.fetchLine c n bad) s fun t =>
        (idle → t.mem = s.mem ∧ t.phys = s.phys ∧ t.clusters = s.clusters)
        ∧ (¬idle → bad = true → t.mem = s.mem ∧ ∀ q, s.place c = some q →
            (t.physCore q).fetchdrop = satInc (s.physCore q).fetchdrop)
        ∧ (¬idle → bad = false → ∀ w u,
            (s.modCore c fun k => { k with rotF := (n + 1) % 11 }).fetchWord c n line = .ok (w, u) → (t.ctx c n).fetched = some line))

/-- A page walk fills the TLB, parks or faults; fetching ahead changes nothing visible. -/
def Obligations.WalksAndFetches : Prop := Claims.PageWalks ∧ Claims.FetchesAhead

/-! ## Messages of the memory system (R63, R220 to R226, R245 to R278, R297) -/

/-- R297, R303: when a counter is held at 0xFFF0, its sweep sets every entry of its unit in the live clock files, in the line records of
its partition and in the held vectors to 0 and restarts it at 1, and is counted on the unit's die, an estate's on each of the estate's;
no counter that is not held is swept. -/
def Claims.RolloverSweeps : Prop :=
  ∀ (s : State) (level n : Nat),
    let u := rollUnit level n
    (s.rollCounter u ≠ sweeping → exec (.rolloverSweepComplete level n) s = .next s)
    ∧ (s.rollCounter u = sweeping → Fires (.rolloverSweepComplete level n) s fun t => t.rollCounter u = 1
        ∧ (∀ c m, c.isVirt = true → u.of c.pid = true → s.isResident c = true → sameUnit (u.level + 1) u.who (partyOf c m) = true →
            Map.get 0 (t.ctx c m).clk (u.level, u.who.idx u.level) = 0)
        ∧ (∀ d, (t.die d).bvroll = if d ∈ s.rollDies u then
            BitVec.ofNat 64 (((s.die d).bvroll.toNat / 65536 + 1) % 2 ^ 32 * 65536) else (s.die d).bvroll)
        ∧ (∀ d, ∀ r ∈ (t.die d).recs, (∀ p, u.pid = some p → r.1.1 ∈ s.asidsOf p) →
            let zero (who : Party) (clk : List Nat) : Prop := u.has who = true → clk.getD (u.level - 1) 0 = 0
            zero r.2.who r.2.clk ∧ (∀ y, r.2.reads = .one y → zero y.who y.clk)
              ∧ ∀ y z, r.2.reads = .two y z → zero y.who y.clk ∧ zero z.who z.clk)
        ∧ (∀ d, ∀ h ∈ (t.die d).sv, u.of h.2.pid = true → sameUnit (u.level + 1) u.who h.2.anchor = true →
            Map.get 0 h.2.ents (u.level, u.who.idx u.level) = 0)
        ∧ ∀ l, t.peek l = s.peek l)

/-! ## Fences and errors (R209, R317, R321, R379 to R381, R417, R420) -/

/-- R317, R380, R417, R420: a fenced block's empty cluster that passes its test is free again; one that fails is retired in the core map
and belongs to no partition. Gating is recorded as it begins and ends. -/
def Claims.ClusterTestsAndGating : Prop :=
  ∀ (s : State) (e d k : Nat),
    ((s.cluster (e, d, k)).testing = true → (∀ x ∈ s.blocks, s.clusterAt x.1 ≠ some (e, d, k)) →
      (Fires (.clusterServiceTest e d k true) s fun t => (t.cluster (e, d, k)).testing = false
        ∧ (t.cluster (e, d, k)).owner = (s.cluster (e, d, k)).owner ∧ (t.cluster (e, d, k)).freed = s.cycle)
      ∧ Fires (.clusterServiceTest e d k false) s fun t => (t.cluster (e, d, k)).testing = false
        ∧ (t.cluster (e, d, k)).owner = none ∧ ((t.die (e, d)).cmap.get 0 k).getLsbD 18 = true
        ∧ ((t.die (e, d)).cmap.get 0 k).getLsbD 16 = false)
    ∧ ∀ on, (Fires (.powerThrottle e on) s fun t => (t.estate e).gating = on ∧ t.cores = s.cores ∧ t.mem = s.mem)
      ∧ ((s.estate e).gating = on → exec (.powerThrottle e on) s = .next s)

/-- Rollover sweeps, the test of a fenced cluster, and power gating. -/
def Obligations.SweepsAndTests : Prop := Claims.RolloverSweeps ∧ Claims.ClusterTestsAndGating

/-! ## Blocks leave and enter the machine (R66 to R75, R384 to R388) -/

/-- R66, R67, R74, R315, R386: a block that has had a parked member for more than the threshold, or which has one and nothing Ready, or
whose cluster goes, stops, with a slot for its image at an address that stays its own; with no free slot it goes on, the failure is
recorded and noticed, and it is tried again when a slot frees; so does a block to pre-empt, at its engines' next boundary (R384). That
such a report's slot number is 0 is the model's choice (log 78). A stopped block that has drained switches in 64 cycles, with the oldest
ready block behind it; its last state is spilled, and its image is valid when every byte of the slot is written: scratchpads, slots,
each context and the header stand at their places (R385; inside a context's part the PC's place is the model's, log 34). One line of an
image is exchanged at a time, and the slot is free after the last. A spill that fails freezes the block on its cluster, and one that
was coming in goes back to its slot; an error in the incoming block's own slot fences it (log 34). -/
def Obligations.SwapOut : Prop :=
  ∀ (s : State) (b : BlockId), s.comates b = [b] →
    let x := s.block b
    let begins (i : Instr) (pre : Bool) : Prop := s.mayBegin b = true →
      (∀ n, x.slotless = false → s.freeSlot b.pid b.estate = some n → Fires i s fun t => (t.block b).swap = .stopping pre
        ∧ (t.block b).slot = some n ∧ (t.block b).image = s.oraBase b.pid b.estate + n * 0xC00000
        ∧ (t.block b).valid = false ∧ (t.part b.pid).oraUsed = (b.estate, n) :: (s.part b.pid).oraUsed ∧ t.cores = s.cores)
      ∧ (x.slotless = false → s.freeSlot b.pid b.estate = none → Fires i s fun t => t.block b = { x with slotless := true }
          ∧ (t.part b.pid).sswap = BitVec.ofNat 64 (1 + b.vblock * 2 ^ 4 + b.field * 2 ^ 10)
          ∧ (t.part b.pid).snotice = (s.part b.pid).snotice ||| 32)
      ∧ (x.slotless = true → exec i s = .next s)
    let thr := Record.swapthr (s.record b.pid b.estate)
    (thr ≠ 0 → (∃ p, x.parkedSince = some p ∧ p + thr < s.cycle) → begins (.swapThresholdExpiry b) false)
    ∧ (x.preempt = true → begins (.swapOut b) true)
    ∧ (x.preempt = false → s.mustLeave b = true ∨ (s.parks b = true ∧ s.anyRuns b = false) → begins (.swapOut b) false)
    ∧ ((thr = 0 ∨ ∀ p, x.parkedSince = some p → s.cycle ≤ p + thr) → exec (.swapThresholdExpiry b) s = .next s)
    ∧ (∀ pre k, x.swap = .stopping pre → x.residence = .resident k → s.drained b pre = true →
        (s.readyBlocks b.pid (k.1, k.2.1) = [] ∨ (s.cluster k).leaving = true →
          Fires (.swapOut b) s fun t => (t.block b).swap = .leaving (s.cycle + 64) none)
        ∧ ∀ c cs, s.readyBlocks b.pid (k.1, k.2.1) = c :: cs → s.comates c = [c] → (s.cluster k).leaving = false →
          Fires (.swapOut b) s fun t => (t.block b).swap = .leaving (s.cycle + 64) (some c) ∧ (t.block c).held = true
            ∧ (t.block c).swap = .entering k (s.cycle + 64))
    ∧ (∀ at_ k, x.swap = .leaving at_ none → at_ ≤ s.cycle → x.residence = .resident k →
        Fires (.shadowSwitchComplete b) s fun t => (t.block b).residence = .absent ∧ (t.block b).spill = some k ∧ (t.block b).swap = .none
          ∧ (t.cluster k).freed = s.cycle ∧ (∀ c n r, (t.ctx c n).getG r = (s.ctx c n).getG r) ∧ ∀ l, t.peek l = s.peek l)
    ∧ (∀ k n, x.spill = some k → x.slot = some n → x.array = none → MemoryWf s → s.imageBacked b = true →
        (∀ c ∈ b.cores, ∀ y ∈ (s.core c).ctxs, y.1 < 11 ∧ ∀ e ∈ y.2.clk, e.1.2 < 64) →
        let base := physLoc b.estate x.image
        Fires (.imageValid b) s fun t => (t.block b).spill = none ∧ (t.block b).valid = true ∧ t.peekNat base 8 = 3
          ∧ (∀ l, l < base ∨ base + 0xC00000 ≤ l → t.peek l = s.peek l)
          ∧ t.peekNat (base + 0x10) 8 = 0xB90000
          ∧ (InRange b →
              (∀ off, off < 2 ^ 19 → t.peek (base + 0x10000 + off) = s.peek (slotLoc b 0 off))
              ∧ ∀ m, m < 16 →
                (∀ off, off < 2 ^ 19 → t.peek (base + 0x90000 + 0xB0000 * m + off) = s.peek (scratchLoc (b.core m) off))
                ∧ ∀ n, n < 11 → (Map.get? (s.core (b.core m)).ctxs n).isSome = true →
                  t.peekNat (base + 0x90000 + 0xB0000 * m + 0xA0000 + 0x1000 * n + 0x100) 8 = (s.ctx (b.core m) n).pc.toNat)
          ∧ ((s.blocks.map Prod.fst).Nodup → (s.cluster k).leaving = true → s.occupied k = false →
              (∀ y ∈ s.blocks, y.1 ≠ b → y.2.spill ≠ some k) → (t.cluster k).owner = none))
    ∧ (∀ k n, x.residence = .resident k → x.fill = n + 2 → Fires (.imageLineExchange b) s fun t => (t.block b).fill = n + 1)
    ∧ (∀ k, x.residence = .resident k → x.fill = 1 → (∀ y ∈ s.blocks, y.2.spill ≠ some k) →
        Fires (.imageLineExchange b) s fun t => (t.block b).fill = 0 ∧ (t.block b).slot = none)
    ∧ (∀ k o, x.spill = none → x.residence = .resident k → s.spillerOf k = some o → o ≠ b →
        (x.fenced = true ∨ x.fill = 0 → exec (.spillFailure b) s = .next s)
        ∧ (x.fenced = false → x.fill ≠ 0 → Fires (.spillFailure b) s fun t => (t.block o).residence = .resident k
            ∧ (t.block o).swap = .frozen ∧ (t.block o).spill = none ∧ (t.block b).residence = .absent ∧ (t.block b).fenced = true))
    ∧ ∀ k, x.spill = some k →
      let back (t : State) : Prop := (t.block b).residence = .resident k ∧ (t.block b).swap = .frozen ∧ (t.block b).spill = none
        ∧ (t.block b).slot = none
      ((∀ y ∈ s.blocks, s.clusterAt y.1 ≠ some k) → Fires (.spillFailure b) s fun t => back t
        ∧ (t.part b.pid).sswap = BitVec.ofNat 64 (2 + b.vblock * 2 ^ 4 + b.field * 2 ^ 10 + (x.slot.getD 0) % 2 ^ 32 * 2 ^ 32))
      ∧ ∀ c y, s.blocks.find? (fun y => s.clusterAt y.1 == some k) = some (c, y) → c ≠ b →
        (y.fenced = true ∨ y.fill = 0 → exec (.spillFailure b) s = .next s)
        ∧ (y.fenced = false → y.fill ≠ 0 → (s.block c).slot.isSome = true → s.imageBacked c = true → Fires (.spillFailure b) s fun t =>
            back t ∧ (t.block c).residence = .absent ∧ (t.block c).swap = .none ∧ (t.block c).valid = true)

/-- R48, R68, R71 to R73, R388: the block that became ready first is admitted to the cluster free the longest, and its remap entry is held;
when the switch ends, and the cluster is in service (R380), it stands there, nothing is held for it any more, its contexts that await no
page run, as its image has them (the state's place in a context's part is the model's, log 34), and a block that has never run starts
its control contexts at the run entry. -/
def Obligations.Readmission : Prop :=
  ∀ (s : State) (b : BlockId), s.comates b = [b] →
    let d := s.fieldDie b.pid b.estate b.field
    (∀ k, s.isReadyBlock b = true → (s.readyBlocks b.pid d).head? = some b → (s.freeClusters b.pid d).head? = some k →
      Fires (.readmission b) s fun t => (t.block b).swap = .entering k (s.cycle + 64) ∧ (t.block b).held = true)
    ∧ (s.freeClusters b.pid d = [] → exec (.readmission b) s = .next s)
    ∧ ∀ k at_, (s.block b).swap = .entering k at_ →
      (s.cycle < at_ → exec (.shadowSwitchComplete b) s = .next s)
      ∧ ((s.cluster k).testing = true → exec (.shadowSwitchComplete b) s = .next s)
      ∧ (at_ ≤ s.cycle → (s.cluster k).testing = false → (∀ x ∈ s.blocks, s.clusterAt x.1 ≠ some k) →
        Fires (.shadowSwitchComplete b) s fun t =>
        (t.block b).residence = .resident k ∧ (t.block b).swap = .none ∧ (t.block b).held = false ∧ (t.block b).fill = 0xB90000 / 64
        ∧ ((∀ x ∈ s.msgs, x.2.unit = some (.block b) → x.2.seqUnit = none ∧ fieldOf x.2.targets = none) →
            ∀ id m, Map.get? t.msgs id = some m → m.unit = some (.block b) → m.stage ≠ .rehold)
        ∧ ((s.block b).blank = false → InRange b → MemoryWf s → ∀ i n, i < 16 → n < 11 → (s.ctx (b.core i) n).run = .parked →
            (s.ctx (b.core i) n).waitPages = [] →
            (∀ base, s.absentImage b = some base → base + 0xC00000 ≤ 2 ^ 90
              ∧ s.peekNat (base + 0x90000 + 0xB0000 * i + 0xA0000 + 0x1000 * n + 0x108) 8 % 8 ≠ 0) →
            (t.ctx (b.core i) n).run = .ready)
        ∧ ((s.block b).blank = true → ∀ i, i < 16 → (t.ctx (b.core i) 0).run = .ready
            ∧ (t.ctx (b.core i) 0).pc = BitVec.ofNat 64 (Record.runEntry (s.recordOf (b.core i)))))

/-- R2, R11, R48, R74, R75, R123, R317: a resize adds enabled clusters, blocks and loose cores that no partition has, and takes an empty
cluster at once; one with a block on it goes when the block has been swapped out. A field whose blocks are all absent moves: when its
copy is done its lines stand on the new die, and its record names that die. That an element that cannot be had is passed over and the
rest of the resize goes on, and that the record need not be active, is log 89; a cluster or core that joins leaves boot mode for good
(R412); a block comes with an image restored for it, if there is one (R404). -/
def Obligations.ResizeAndFieldMoves : Prop :=
  ∀ (s : State) (p : Nat),
    (∀ r, s.mapClash p r = true → exec (.resize p r) s = .next s)
    ∧ (∀ k, s.mapClash p { addClusters := [k] } = false →
        (s.isBlock k = true → (s.cluster k).owner = none → s.looseIn k = false → Fires (.resize p { addClusters := [k] }) s fun t =>
          (t.cluster k).owner = some p ∧ (t.cluster k).tlb = []
            ∧ ∀ m, m < 16 → (t.physCore (k.1, k.2.1, meshOf k.2.2 m)).joined = true)
        ∧ (s.isBlock k = false ∨ (s.cluster k).owner ≠ none ∨ s.looseIn k = true →
          exec (.resize p { addClusters := [k] }) s = .next s))
    ∧ (∀ k, s.mapClash p { delClusters := [k] } = false → (s.cluster k).owner = some p →
        (s.occupied k = false → (∀ x ∈ s.blocks, s.clusterAt x.1 ≠ some k ∧ x.2.spill ≠ some k) →
          Fires (.resize p { delClusters := [k] }) s fun t => (t.cluster k).owner = none)
        ∧ ∀ b y n, s.blocks.find? (fun y => s.clusterAt y.1 == some k) = some (b, y) → s.comates b = [b] → s.mayBegin b = true →
          (s.block b).slotless = false → s.freeSlot b.pid b.estate = some n → s.occupied k = true →
          Fires (.resize p { delClusters := [k] }) s fun t => (t.cluster k).leaving = true ∧ (t.block b).swap = .stopping false)
    ∧ (∀ e f v, e < 64 → f < 8 → v < 64 → s.hasBlock { pid := p, estate := e, field := f, vblock := v } = false →
        s.mapClash p { addBlocks := [(e, f, v)] } = false → Fires (.resize p { addBlocks := [(e, f, v)] }) s fun t =>
          let b : BlockId := { pid := p, estate := e, field := f, vblock := v }
          (s.restored b = none → t.block b = { residence := .absent, readyAt := s.cycle })
          ∧ ∀ i, s.restored b = some i → t.block b =
              { residence := .absent, readyAt := s.cycle, blank := false, slot := some i, valid := true,
                image := s.oraBase p e + i * 0xC00000 })
    ∧ (∀ q n, s.looseNum p q = some n → (∀ x ∈ s.parts, ∀ y ∈ x.2.loose, y.2 ≠ q) →
        (s.cluster (q.1, q.2.1, clusterOf q.2.2)).owner = none → s.mapClash p { addLoose := [q] } = false →
        Fires (.resize p { addLoose := [q] }) s fun t => Map.get? (t.part p).loose n = some q ∧ (t.physCore q).joined = true
          ∧ (t.ctx (.virt p n) 0).run = .ready
          ∧ (t.ctx (.virt p n) 0).pc = BitVec.ofNat 64 (Record.runEntry (s.record p (numEstate n))))
    ∧ ∀ e f d, f < 8 → d < 8 →
      let r := s.record p e
      let moved : Record := (r &&& ~~~(BitVec.ofNat 1024 (7 * 2 ^ (416 + 64 * f + 34)))) ||| BitVec.ofNat 1024 (d * 2 ^ (416 + 64 * f + 34))
      let n := Record.fbytes r f
      let src := fieldLoc e (Record.fdie r f) (Record.fbase r f) 0
      let dst := fieldLoc e d (Record.fbase r f) 0
      (Record.active r = true → Record.fvalid r f = true → d ≠ Record.fdie r f → Map.get? (s.part p).moving (e, f) = none →
        (∀ b ∈ s.blocksOf p, b.estate = e → b.field = f → (s.block b).residence = .absent ∧ (s.block b).swap = .none) →
        s.otherParts p = [] → s.allocClash p e moved (s.part p).banks (d, Record.fbase r f, Record.flen r f) = false →
        Fires (.fieldMove p e f d) s fun t => Map.get? (t.part p).moving (e, f) = some d)
      ∧ (Map.get? (s.part p).moving (e, f) = some d → d ≠ Record.fdie r f → MemoryWf s → Record.fbase r f + Record.flen r f ≤ 2 ^ 19 →
        (∀ m ∈ s.msgs, m.2.stage ≠ .rehold) → (∀ x ∈ s.inserts, x.2.stage ≠ .rehold) →
        Fires (.fieldMoveCopyDone p e f) s fun t => Map.get? (t.part p).moving (e, f) = none ∧ Record.fdie (t.record p e) f = d
          ∧ ∀ i, i < n → t.peek (dst + i) = s.peek (src + i))

/-! ## The engines at work (R98, R154, R187 to R209, R329 to R341) -/

/-- R98, R250, R329, R331, R332, R334, R336, R338, R340: the oldest command that may start does, if fewer than eight are active. A piece
of a copy, behind no access of its thread to the place it writes, writes the bytes read, and one of a fill the pattern by the low bits
of the address; one that waits for the host or for its packet stays, one whose packet is lost ends with no route, and no piece begins
while the block stops for a pre-emption (R384). A command that has ended writes its status record where it asks for one, signals, and leaves the queue; a multicast
signals every member first, and its record follows the last signal; a linked one that did well waits for its hand-over, and then its
`mmac` joins the requests. -/
def Claims.CopyEngine : Prop :=
  ∀ (s : State) (c : CoreId) (id : Nat) (x : Cmd), (s.core c).cmd? id = some x → s.enginesRun c = true →
    (s.swapping c = false → (s.core c).running < 8 → (s.core c).cmds.find? (s.mayStart (s.core c)) = some (id, x) →
      Fires (.copyCommandStart c id) s fun t => (t.core c).cmd? id = some { x with running := true, ended := x.len == 0 })
    ∧ (∀ src dst, x.active = true → x.got = none → x.flight = none → x.written = 0 → x.pos < x.len → MemoryWf s →
        s.preempting c = false → s.onWire (.piece c id) = false → s.mirrorLoc (scratchLoc c dst) = none →
        let n := x.piece c
        let moved (t : State) : Prop := (∃ y, (t.core c).cmd? id = some y ∧ y.pos = x.pos + n ∧ y.bytes = x.bytes + n
            ∧ y.ended = decide (x.len ≤ x.pos + n) ∧ y.code = x.code)
          ∧ ∀ l, l < scratchLoc c dst ∨ scratchLoc c dst + n ≤ l → t.peek l = s.peek l
        (x.dstAt c x.pos).toNat = 0xFC * 2 ^ 56 + dst → dst + n ≤ 2 ^ 19 →
        s.behindThread c x.ctx id (x.dstAt c x.pos) n [s.scratchTarget c c dst n] = false →
        (x.kind = .cpy → (x.srcAt x.pos).toNat = 0xFC * 2 ^ 56 + src → src + n ≤ 2 ^ 19 → PieceClean s c x src dst n →
          Fires (.copyPiece c id false) s fun t => moved t ∧ ∀ i, i < n → t.peek (scratchLoc c (dst + i)) = s.peek (scratchLoc c (src + i)))
        ∧ (x.kind = .fill → PieceClean s c x dst dst n → s.modeOf c = 0 → Fires (.copyPiece c id false) s fun t => moved t
            ∧ ∀ i, i < n → t.peek (scratchLoc c (dst + i)) = BitVec.ofNat 8 (x.par.toNat / 2 ^ (8 * ((dst + i) % 8)))))
    ∧ (∀ g, x.active = true → x.flight = some g → x.got = none →
        (g.lost = true → Fires (.copyPiece c id false) s fun t => ∃ y, (t.core c).cmd? id = some y ∧ y.ended = true ∧ y.code = 5
          ∧ y.pos = x.pos ∧ t.mem = s.mem)
        ∧ (g.lost = false → g.host = true ∨ s.onWire (.piece c id) = true → exec (.copyPiece c id false) s = .next s))
    ∧ (x.active = true → x.got = none → x.flight = none → s.preempting c = true → exec (.copyPiece c id false) s = .next s)
    ∧ (x.running = true → x.ended = true → x.handing = false →
      let status (t : State) : Prop := (x.w.cmd.getLsbD 15 = true → MemoryWf s → ∀ i, i < 16 →
          t.peek (scratchLoc c ((x.w.cmd.extractLsb' 0 15).toNat * 16 + i)) = (wordBytes [x.record, x.faddr]).getD i 0)
        ∧ (x.code ≠ 1 → (t.core c).cerrlo = x.record ∧ (t.core c).cerraddr = x.faddr)
      ((∀ m, x.kind ≠ .mc m) →
        (x.link = none → Fires (.copyCommandComplete c id) s fun t => (t.core c).cmd? id = none ∧ status t ∧ Signals x.w x.snap c s t)
        ∧ (∀ r, x.link = some r → x.code = 1 →
            Fires (.copyCommandComplete c id) s fun t => (t.core c).cmd? id = some { x with handing := true } ∧ Signals x.w x.snap c s t)
        ∧ ∀ r, x.link = some r → x.code ≠ 1 → Fires (.copyCommandComplete c id) s fun t => (t.core c).cmd? id = none ∧ status t
            ∧ ((t.core c).mstat.get 0 r.acc).toNat % 16 = x.code % 16)
      ∧ ∀ m b, x.kind = .mc m → m < 2 ^ 16 → c.block = some b →
        (x.signalled = false → Fires (.copyCommandComplete c id) s fun t => (t.core c).cmd? id = some { x with signalled := true }
          ∧ t.mem = s.mem ∧ ∀ i, i < 16 → m.testBit i = true → (t.core (b.core i)).sigs.map (fun g => (g.sm, g.inc))
              = (s.core (b.core i)).sigs.map (fun g => (g.sm, g.inc))
                ++ if x.w.sInc = 0 then [] else [(x.w.sIdx.toNat, x.w.sInc.toNat)])
        ∧ (x.signalled = true → s.signalDue c id x = true → exec (.copyCommandComplete c id) s = .next s)
        ∧ (x.signalled = true → s.signalDue c id x = false → x.link = none → Fires (.copyCommandComplete c id) s fun t =>
            (t.core c).cmd? id = none ∧ status t))

/-- R336: a linked `mmac` is handed over when every earlier slot copy of its context has completed. -/
def Claims.LinkedHandover : Prop :=
  ∀ (s : State) (c : CoreId) (id : Nat) (x : Cmd) (r : MReq), (s.core c).cmd? id = some x → x.link = some r → x.handing = true →
    s.enginesRun c = true →
    let earlier : Prop := ∃ y ∈ (s.core c).cmds, y.1 < id ∧ y.2.ctx = x.ctx ∧ y.2.handing = false ∧ ∃ n, y.2.kind = .slot n
    (¬earlier → Fires (.linkedMmacHandover c id) s fun t => (t.core c).cmd? id = none
      ∧ (t.core c).mreqs = (s.core c).mreqs ++ [{ r with ord := s.nextId, passed := some s.cycle }])
    ∧ (earlier → exec (.linkedMmacHandover c id) s = .next s)

/-- Copy commands start, move pieces, complete, and hand over linked operations. -/
def Obligations.CopyEngine : Prop := Claims.CopyEngine ∧ Claims.LinkedHandover

/-- R198, R203, R208, R209: with the array free, the grant goes to the first member from the pointer on, in cyclic order, that has an `mmac`
whose clause passed in an earlier cycle, and to the oldest of that member's; the pointer moves behind it, the format in force is
captured, and the first step reads its share of K of both slots. An odd accumulator of a pair ends it with code 2, poison with code 3,
and the array stays free. -/
def Claims.MatrixGrants : Prop :=
  ∀ (s : State) (b : BlockId) (m : Nat) (pre post : List MReq) (r : MReq), m < 16 → (s.block b).rotPtr < 16 →
    let c := b.core m
    let f := (s.core c).mfctx
    (s.block b).fenced = false → s.isResident (b.core 0) = true → (s.block b).array = none → (s.block b).swap = .none →
    s.arrayHeld b = false → (s.core c).mreqs = pre ++ r :: post → s.eligible r = true →
    (∀ q, q ∈ pre → s.eligible q = false) → (∀ q, q ∈ pre ∨ q ∈ post → q.ord ≠ r.ord) →
    (∀ i, i < 16 → (i + 16 - (s.block b).rotPtr) % 16 < (m + 16 - (s.block b).rotPtr) % 16 →
      ∀ q ∈ (s.core (b.core i)).mreqs, s.eligible q = false) →
    Fires (.matrixGrant b) s fun t => (t.block b).rotPtr = (m + 1) % 16 ∧ (∀ l, t.peek l = s.peek l)
      ∧ ∃ q, (t.core c).mreqs = pre ++ q :: post ∧ q.started = true ∧ q.fmt = f ∧ q.ord = r.ord ∧ q.acc = r.acc ∧ q.step = r.step
        ∧ if fmtPair f ∧ r.acc % 2 = 1 then q.ended = true ∧ q.code = 2 ∧ (t.block b).array = none
          else ∀ set an bn, r.op = .mmac set an bn →
            let accs := if fmtPair f then [r.acc, r.acc + 1] else [r.acc]
            let poisoned : Prop := (∃ n ∈ (s.block b).spoison, n = an ∨ n = bn)
              ∨ ((set = false ∨ r.step ≠ 0) ∧ ∃ n ∈ (s.core c).mpoison, n ∈ accs)
            (poisoned → q.ended = true ∧ q.code = 3 ∧ (t.block b).array = none ∧ ∀ n ∈ accs, n ∈ (t.core c).mpoison)
            ∧ (¬poisoned → q.ended = false ∧ q.code = 1 ∧ (t.block b).array = some (m, r.acc)
              ∧ ∀ i k, i < 64 → k < fmtK f / 8 →
                (q.as.getD i []).getD k 0 = s.rawElem b an (fmtA f) (fmtPlanes f) i (r.step * (fmtK f / 8) + k)
                ∧ (q.bs.getD i []).getD k 0 = s.rawElem b bn (fmtB f) (fmtPlanes f) i (r.step * (fmtK f / 8) + k))

/-- R154, R190, R193, R195, R198, R203, R205, R207, R209: the end of a step adds to each of the 4096 elements the sum of the products of what
the step's first cycle read: exactly, then wrapped, or saturated with OF, for every integer format, and with one rounding for every
floating-point one; nothing else in memory changes. The eighth frees the array, and before another begins poison ends the operation
with code 3. What has ended writes its status word and signals; `mzero` clears its accumulator. That the lowest member with one that has
ended comes first, and `mzero` behind, is log 32; that only the even slot of a pair has its status written is log 135. -/
def Claims.MatrixSteps : Prop :=
  ∀ (s : State) (b : BlockId) (m : Nat) (r : MReq), m < 16 → (s.core (b.core m)).mreqs = [r] → (s.block b).fenced = false →
    s.isResident (b.core 0) = true →
    let c := b.core m
    let others (p : MReq → Prop) : Prop := ∀ i, i < 16 → i ≠ m → ∀ q ∈ (s.core (b.core i)).mreqs, ¬p q
    (∀ set an bn, (s.block b).array = some (m, r.acc) → r.op = .mmac set an bn → r.started = true → r.ended = false → MemoryWf s →
        let f := r.fmt
        let w := (fmtAcc f).width / 8
        let clear := set && r.step == 0
        let acc (i j : Nat) : Nat := if clear then 0 else s.peekNat (accLoc c r.acc (w * (64 * i + j))) w
        let new (t : State) (i j : Nat) : Nat := t.peekNat (accLoc c r.acc (w * (64 * i + j))) w
        let accs := if fmtPair f then [r.acc, r.acc + 1] else [r.acc]
        let poisoned : Prop := (∃ n ∈ (s.block b).spoison, n = an ∨ n = bn) ∨ (clear = false ∧ ∃ n ∈ (s.core c).mpoison, n ∈ accs)
        let iv (t : ETy) (x : Nat) : Int := match t with
          | .c4 => signedOf 8 (r.table.getD x 0).toNat
          | .p => readInt (fmtPsgn f) x + if fmtCtr f ∧ fmtPlanes f ≤ 7 then 2 ^ (7 - fmtPlanes f) else 0
          | t => readInt t x
        let sum (i j : Nat) : Int := signedOf 32 (acc i j)
          + ((List.range 16).map fun k => iv (fmtA f) ((r.as.getD i []).getD k 0) * iv (fmtB f) ((r.bs.getD j []).getD k 0)).sum
        Fires (.matrixStepEnd b) s fun t =>
          (fmtAcc f = .i32 → (fmtA f).isFloat = false → (fmtB f).isFloat = false →
            (∀ i, i < 64 → (r.as.getD i []).length = 16 ∧ (r.bs.getD i []).length = 16) →
            (∀ i j, i < 64 → j < 64 → (new t i j : Int) = (if fmtSat f then max (-2 ^ 31) (min (2 ^ 31 - 1) (sum i j)) else sum i j) % 2 ^ 32)
            ∧ ∃ q, (t.core c).mreqs = [q] ∧ (fmtSat f = true →
                (∃ i j, i < 64 ∧ j < 64 ∧ (sum i j < -2 ^ 31 ∨ 2 ^ 31 - 1 < sum i j)) → q.flags.testBit 2 = true))
          ∧ (fmtAcc f = .f32 ∨ fmtAcc f = .f64 → ∀ i j, i < 64 → j < 64 →
            let as := (r.as.getD i []).map (elemVal f r.table (fmtA f))
            let bs := (r.bs.getD j []).map (elemVal f r.table (fmtB f))
            let a := readVal (fmtAcc f) (acc i j)
            let product (p : Val × Val) : Option Val :=
              if p.1.isNaN then some p.1 else if p.2.isNaN then some p.2 else (mulVal p.1 p.2).map (Val.scaled (fmtSA f + fmtSB f))
            new t i j = (dest (fmtAcc f) (sumTerms (fmtMode f) (anySNaN (a :: as ++ bs)) (some a :: (as.zip bs).map product)) 0 (fmtSat f)
              (fmtMode f)).1)
          ∧ (∀ l, l < accLoc c r.acc 0 ∨ accLoc c r.acc 0 + 4096 * w ≤ l → t.peek l = s.peek l)
          ∧ ∃ q, (t.core c).mreqs = [q] ∧ q.step = r.step + 1
            ∧ (r.step = 7 → q.ended = true ∧ q.code = r.code ∧ (t.block b).array = none)
            ∧ (r.step ≠ 7 → poisoned → q.ended = true ∧ q.code = 3 ∧ (t.block b).array = none ∧ ∀ n ∈ accs, n ∈ (t.core c).mpoison)
            ∧ (r.step ≠ 7 → ¬poisoned → q.ended = false ∧ (t.block b).array = some (m, r.acc)
              ∧ ∀ i k, i < 64 → k < fmtK f / 8 →
                (q.as.getD i []).getD k 0 = s.rawElem b an (fmtA f) (fmtPlanes f) i ((r.step + 1) * (fmtK f / 8) + k)
                ∧ (q.bs.getD i []).getD k 0 = s.rawElem b bn (fmtB f) (fmtPlanes f) i ((r.step + 1) * (fmtK f / 8) + k)))
    ∧ (r.isMmac = true → r.ended = true → others (fun q => q.ended = true) → Fires (.mmacFinish b) s fun t => (t.core c).mreqs = []
        ∧ (t.core c).mstat.get 0 r.acc = statusWord ((s.core c).mstat.get 0 r.acc) r.code 1 r.flags r.step 0 ∧ Signals r.w r.snap c s t)
    ∧ (r.op = .zero → r.passed.isSome = true → others (fun q => q.ended = true ∨ q.op = .zero) → (s.block b).swap = .none → MemoryWf s →
        Fires (.mmacFinish b) s fun t => (t.core c).mreqs = [] ∧ r.acc ∉ (t.core c).mpoison ∧ (∀ i, i < 16384 → t.peek (accLoc c r.acc i) = 0)
          ∧ (t.core c).mstat.get 0 r.acc = statusWord ((s.core c).mstat.get 0 r.acc) 1 2 r.flags 0 0 ∧ Signals r.w r.snap c s t)

/-- The matrix unit grants, steps and finishes. -/
def Obligations.MatrixUnit : Prop := Claims.MatrixGrants ∧ Claims.MatrixSteps

/-- R98, R190, R204, R207: an `mst` whose stores have been acknowledged captures its accumulator, and then writes 64 rows, 64 bytes at a
time, each row converted and at its stride; poison ends it with code 3 and nothing written, and a packet that is lost ends it with no
route. When all rows are acknowledged its status word and
its signal follow. -/
def Obligations.MatrixStores : Prop :=
  ∀ (s : State) (c : CoreId) (r : MReq) (base st : Word), (s.core c).mreqs = [r] → r.op = .st base st → s.isFenced c = false →
    c.isVirt = true → s.isResident c = true →
    (r.ended = false → r.park = none → r.passed.isSome = true → s.allGone r.after = true →
      (r.started = false → s.swapping c = false →
        let f := (s.core c).mfctx
        let poisoned : Prop := ∃ a ∈ (s.core c).mpoison, a = r.acc ∨ (fmtPair f = true ∧ a = r.acc + 1)
        let n := if fmtPair f then 32768 else 16384
        Fires (.mstCapture c r.acc) s fun t => (∀ l, t.peek l = s.peek l) ∧ ∃ q, (t.core c).mreqs = [q] ∧ q.started = true ∧ q.fmt = f
          ∧ q.rows = r.rows ∧ (poisoned → q.ended = true ∧ q.code = 3)
          ∧ (¬poisoned → q.ended = false ∧ q.code = 1 ∧ q.data = s.peekBytes (accLoc c r.acc 0) n))
      ∧ (∀ g, r.started = true → r.flight = some g → g.lost = true → Fires (.mstCapture c r.acc) s fun t => t.mem = s.mem
          ∧ ∃ q, (t.core c).mreqs = [q] ∧ q.ended = true ∧ q.code = 5 ∧ q.rows = r.rows)
      ∧ (r.started = true → r.flight = none → s.preempting c = false ∨ r.line ≠ 0 → s.modeOf c = 0 → MemoryWf s →
        wholeElement (fmtOut r.fmt) →
        let ow := (fmtOut r.fmt).width / 8
        let off := base.toNat % 2 ^ 19 + r.rows * st.toNat + 64 * r.line
        let loc := scratchLoc c off
        r.line < ow → base.toNat / 2 ^ 19 = 0xFC * 2 ^ 37 → base.toNat % 64 = 0 → st.toNat % 64 = 0 → off + 64 ≤ 2 ^ 19 →
        s.mirrorLoc loc = none →
        s.behindThread c r.ctx r.ord (base + BitVec.ofNat 64 r.rows * st + BitVec.ofNat 64 (64 * r.line)) 64 [s.scratchTarget c c off 64]
          = false →
        Fires (.mstCapture c r.acc) s fun t => (∃ q, (t.core c).mreqs = [q] ∧ q.code = r.code ∧ q.fmt = r.fmt
            ∧ if r.line + 1 < ow then q.line = r.line + 1 ∧ q.rows = r.rows ∧ q.ended = false
              else q.line = 0 ∧ q.rows = r.rows + 1 ∧ q.ended = (r.rows == 63))
          ∧ (∀ j, j < 64 → t.peek (loc + j) = (r.row r.rows).1.getD (64 * r.line + j) 0)
          ∧ ∀ l, l < loc ∨ loc + 64 ≤ l → t.peek l = s.peek l))
    ∧ (r.ended = true → Fires (.mstComplete c r.acc) s fun t => (t.core c).mreqs = []
        ∧ (t.core c).mstat.get 0 r.acc = statusWord ((s.core c).mstat.get 0 r.acc) r.code 3 r.flags 0 r.rows ∧ Signals r.w r.snap c s t)

/-! ## Reset, bring-up, host and management (R108, R217, R405 to R421) -/

/-- R108, R412, R414, R419: cold reset leaves the machine of R412, with the fused-off cores as they are, a package of which an image failed
its check in recovery; warm reset keeps the time base, the cycle count, the event recorders, the TLBs, the performance counters, BUSY of
a Causeway transfer, and what HBM and CXL hold. What has no reset value in the tables, memory among it, is log 38. -/
def Obligations.Resets : Prop :=
  ∀ (s : State) (bad : List Nat),
    let fresh (t : State) : Prop := t.cur = State.reset.cur ∧ t.parts = [] ∧ t.blocks = [] ∧ t.msgs = [] ∧ t.weirs = []
      ∧ t.banks = [] ∧ t.firings = [] ∧ t.inserts = [] ∧ (∀ k, (t.cluster k).owner = none) ∧ (∀ d, (t.die d).recs = [] ∧ (t.die d).cmap = [])
      ∧ ∀ e, (t.estate e).links = [] ∧ (t.estate e).routes = [] ∧ (t.estate e).pwrlim = 3200 ∧ (t.estate e).phase = 0
    (Fires (.coldReset bad) s fun t => fresh t ∧ t.cores = [] ∧ t.mem = [] ∧ t.poison = [] ∧ t.cycle = 0
      ∧ (∀ e, (t.estate e).recovery = bad.contains e ∧ (t.estate e).host = (s.estate e).host)
      ∧ ((s.phys.map Prod.fst).Nodup → ∀ q, (t.physCore q).healthy = (s.physCore q).healthy ∧ (t.physCore q).dtlb = []))
    ∧ Fires .warmReset s fun t => fresh t ∧ t.cycle = s.cycle
      ∧ (∀ c k, (c, k) ∈ t.cores ↔ k = { bootCore with cwstat := 0x400000 } ∧ ∃ k', (c, k') ∈ s.cores ∧ k'.cwstat.getLsbD 22 = true)
      ∧ (∀ e, (t.estate e).recovery = (s.estate e).recovery ∧ (t.estate e).host = (s.estate e).host)
      ∧ (∀ e, t.tbaseOf e = s.tbaseOf e) ∧ (∀ d, (t.die d).evr = (s.die d).evr ∧ (t.die d).evrNext = (s.die d).evrNext)
      ∧ (∀ q, (t.physCore q).healthy = (s.physCore q).healthy ∧ (t.physCore q).itlb = (s.physCore q).itlb
          ∧ (t.physCore q).dtlb = (s.physCore q).dtlb ∧ (t.physCore q).perf = (s.physCore q).perf)
      ∧ (∀ l, l < 2 ^ 90 → t.peek l = s.peek l) ∧ ∀ l, 2 ^ 90 ≤ l → t.peek l = 0

/-- R217, R312, R313, R405, R409, R418 to R421: a port that trains has its size and status bits; the host's answer gives a load of its
memory the bytes, or code 4; the management interface sets the power limit between 400 and 3200, reads power, the event recorder and
the attestation report, and commits a partition image that nothing speaks against, all within an SPDM session: outside one nothing is
done. That a reduction the host does not support fails with cause 1 is log 125. -/
def Obligations.PortsHostAndManagement : Prop :=
  ∀ (s : State) (e : Nat),
    (∀ port size reduced, port < 8 → size % 65536 = 0 → size ≤ 2 ^ 41 → ¬(port = 0 ∧ (s.estate e).host = true) →
      Fires (.cxlPortTrain e port size reduced) s fun t => (t.estate e).cxl.get 0 port = size
        ∧ (t.estate e).cxlstat.getLsbD port = true ∧ (t.estate e).cxlstat.getLsbD (port + 8) = reduced)
    ∧ (∀ id m a tg data, Map.get? s.msgs id = some m → m.body = .access a [tg] → m.stage = .sent → a.kind.writes = false →
        s.toHost [tg] = true → s.onWire (.msg id) = false →
        a.grain = a.size → m.pos = 0 → tg.loc % 64 = tg.va % 64 → tg.loc < 2 ^ 90 →
        (Fires (.hostCompletion id true data) s fun t => Map.get? t.msgs id = some { m with stage := .done 4 } ∧ t.mem = s.mem)
        ∧ (m.detached = false → data.length = a.size → tg.len = a.size → MemoryWf s → s.poisonStops a.kind [tg] = false →
            (a.kind = .load ∨ a.kind = .rld) →
            (m.mode = 0 ∨ s.firstRace (a.check m.core m.ctx m.snap m.pc m.mode false) (s.segsOf tg) = none) →
            Fires (.hostCompletion id false data) s fun t => ∃ n, Map.get? t.msgs id = some n ∧ n.stage = .done 0 ∧ n.reply = data))
    ∧ (∀ id m a ts data, Map.get? s.msgs id = some m → m.body = .access a ts → m.stage = .sent → a.kind ≠ .store → s.toHost ts = true →
        s.onWire (.msg id) = false → Fires (.hostCompletion id true data) s fun t => t.mem = s.mem
          ∧ Map.get? t.msgs id = some { m with stage := .done (if a.kind.isStore then 1 else 4) })
    ∧ (∀ id c x g data, Map.get? s.msgs id = none → s.cores.find? (fun y => (y.2.cmd? id).isSome) = some (c, s.core c) →
        (s.core c).cmd? id = some x → x.flight = some g → g.host = true →
        (Fires (.hostCompletion id true data) s fun t => t.mem = s.mem
          ∧ (t.core c).cmd? id = some { x with flight := some { g with lost := true, host := false } })
        ∧ Fires (.hostCompletion id false data) s fun t => (t.core c).cmd? id = some { x with flight := none, answered := x.answered + 1 })
    ∧ ((s.estate e).session = false → ∀ w addr d first count,
        let refused : Out := .next { s with reply := [] }
        exec (.mgmtSetPowerLimit e w) s = refused ∧ exec (.mgmtReadPower e) s = refused ∧ exec (.mgmtCommitPartition e addr) s = refused
        ∧ exec (.mgmtReadEventRecorder e d first count) s = refused ∧ exec (.mgmtReadAttestation e) s = refused)
    ∧ ((s.estate e).session = true →
    (∀ w, Fires (.mgmtSetPowerLimit e w) s fun t => (t.estate e).pwrlim = BitVec.ofNat 64 (max 400 (min 3200 w))
        ∧ t.reply = [(t.estate e).pwrlim])
    ∧ (Fires (.mgmtReadPower e) s fun t => ∃ w, t.reply = [w] ∧ w.getLsbD 20 = (s.estate e).gating)
    ∧ (∀ addr, let r : Record := BitVec.ofNat 1024 (s.peekNat (physLoc e (addr % 2 ^ 52)) 128)
        let st := s.commitStatus e r
        Fires (.mgmtCommitPartition e addr) s fun t => t.reply = [BitVec.ofNat 64 st]
          ∧ (st = 1 → t.record (Record.pid r) e = r) ∧ (st ≠ 1 → t.parts = s.parts))
    ∧ (∀ d first count, Fires (.mgmtReadEventRecorder e d first count) s fun t => t.reply.length = 4 * count ∧ t.mem = s.mem
        ∧ ∀ i w, i < count → w < 4 → t.reply.getD (4 * i + w) 0 = ((s.die (e, d)).evr.get 0 ((first + i) % 4096)).extractLsb' (64 * w) 64)
    ∧ Fires (.mgmtReadAttestation e) s fun t => t = { s with reply := Config.attestation e (s.estate e).committed })

/-! ## Encodings and steps (R58, R86 to R106, R412) -/

/-- R86 to R100: words written out from the encoding tables, one or more of each class, decode to the instructions they stand for. -/
def Obligations.DecodesWrittenWords : Prop :=
  let reads (ws : List Word) (i : Instr) : Prop := decode (wordBytes ws) = .ok (i, [])
  reads [0x0029_4C00_6000_0000] (.add { d := 5, a := 5, b := 6 })
  ∧ reads [0x0A29_8003_FFFF_FFFD] (.addi { d := 5, a := 6, imm := 0xFFFF_FFFD })
  ∧ reads [0x0F38_0003_0000_0000, 0xFC00_0000_0007_F9C0] (.movl { d := 7, imm := 0xFC00_0000_0007_F9C0 })
  ∧ reads [0x1078_08FF_FFFF_FFF5] (.b .ne .none 15 0 (-11))
  ∧ reads [0x2029_8E01_2C7D_0000] (.fadd { d := 5, a := 6, b := 7, ty := .f32, ma := 1, mb := 2, clamp := true, scale := 15, rnd := 2 })
  ∧ reads [0x3811_4C03_2000_0300] (.vcmp .lt { d := 2, a := 5, b := 6, k := 1, ty := .f32 })
  ∧ reads [0x4308_C005_4000_0000] (.vredAdd { d := 1, a := 3, k := 2, ty := .f16 })
  ∧ reads [0x5132_809A_0700_0000] (.st { data := 6, base := 10, order := .rel, scope := .fld, stream := 2, ty := 7 })
  ∧ reads [0x672A_4EE8_0700_0008] (.amoCas { data := 5, base := 9, index := 7, order := .acqrel, scope := .dom, ty := 7, off := 8 })
  ∧ reads [0x703A_0A00_6000_0000] (.post { d := 7, a := 8, b := 5 })
  ∧ reads [0x8001_C000_0100_0040] (.ins { base := 7, ty := 1, off := 0x40 })
  ∧ reads [0x9053_1C00_0000_0000, 0x0301_0101_C400_0000]
      (.cpy { d := 10, a := 12, b := 14, w := { wIdx := 3, wThr := 1, sIdx := 1, sInc := 1, fa := true, fr := true, scope := .core } })
  ∧ reads [0xA400_0000_0400_1243, 0x0201_0401_4800_0000]
      (.mmacSet { cmd := 0x1243, w := { wIdx := 2, wThr := 1, sIdx := 4, sInc := 1, fr := true, scope := .blk } })
  ∧ reads [0xB228_0251_0002_0000] (.stry { d := 5, idx := 9, scope := .blk, order := .acq, count := 2 })
  ∧ reads [0xC040_0003_0000_0000] (.sget 8 0)
  ∧ reads [0xC101_4003_0000_0F11] (.preempt 5)
  ∧ reads [0xC628_0000_6000_0100] (.gstopGo 5)
  ∧ reads [0xF000_0000_0000_0000] (.deferredEncoding 0xF000_0000_0000_0000)

/-- R86 to R100: decoding what the encoder writes for a well-formed instruction gives the instruction back, with every field at every
value its encoding admits, and leaves the bytes after it. -/
def Obligations.DecodeInvertsEncode : Prop :=
  ∀ (i : Instr) (rest : List Byte), encode i ≠ [] → WellFormed i = true → decode (wordBytes (encode i) ++ rest) = .ok (i, rest)

/-- R102, R105, R106: a word of a reserved major opcode, whatever its other bits, is no instruction; and words that are no instruction
raise the illegal-instruction fault at the context that fetched them, with nothing else done. -/
def Obligations.IllegalWords : Prop :=
  (∀ (w : Word) (rest : List Byte), let m := majorOf w
    m / 16 = 13 ∨ m / 16 = 14 ∨ (m / 16 = 12 ∧ 0xC7 < m) → decode (wordBytes [w] ++ rest) = .error .reservedMajor)
  ∧ ∀ (s : State) (c : CoreId) (n : Nat) (ts : List Turn) (ws : List Word) (u : State) (e : DecodeError),
    let r : State := { s with agenda := ts }
    let q : State := { r with cur := (c, n) }
    s.barred = false → s.agenda = .issue c n :: ts → r.pickSlot c (r.vectorNext c n) = some n → q.verdictDue c n = false →
    q.fetchInstr c n q.me.pc = .words ws u → decode (wordBytes ws) = .error e →
    step s = .next (turnDone s c n (r.vectorNext c n) (({ u with words := ws } : State).raise 0x01))

/-- R58, R59, R105, R257 to R259: where its issue slot picks a context, and the bytes at its PC decode to an instruction that nothing
holds back, the step is that instruction's meaning at that state, with the fetched words at issue, followed by the rotation
pointer and the context's claim, unless it waits, and a cycle, and what it has changed of an absent block stands in that block's image; one that its level may not execute takes the privilege fault, one that a pending register holds back waits, and one that
meets an error takes its fault. A context that its slot does not pick does not issue. -/
def Obligations.StepRunsDecoded : Prop :=
  ∀ (s : State) (c : CoreId) (n : Nat) (ts : List Turn), s.barred = false → s.agenda = .issue c n :: ts →
    let r : State := { s with agenda := ts }
    let q : State := { r with cur := (c, n) }
    let done (t : State) : Out := .next (turnDone s c n (r.vectorNext c n) t)
    (r.pickSlot c (r.vectorNext c n) ≠ some n → step s = .next (s.mirrorFrom r.tick))
    ∧ (r.pickSlot c (r.vectorNext c n) = some n →
      (q.verdictDue c n = true → step s = done q.stall)
      ∧ ∀ ws u i rest, q.verdictDue c n = false → q.fetchInstr c n q.me.pc = .words ws u → decode (wordBytes ws) = .ok (i, rest) →
        let v : State := { u with words := ws }
        (v.tooLow i = true → step s = done (v.raise 0x02))
        ∧ (v.tooLow i = false →
          (v.gate i = .go → ∀ t, exec i v = .next t → step s = done (v.endExempt i t))
          ∧ (v.gate i = .wait → step s = done v.stall)
          ∧ ∀ code info, v.gate i = .fault code info → step s = done (v.gateFault code info)))

/-- R14, R212: the memory list stays in its canonical form at every step from every state that has it. -/
def Obligations.MemoryStaysCanonical : Prop := Kept MemoryWf

/-- R132, R369: an instruction that does not run at firmware level leaves firmware's registers alone: the firmware vector of every core
that is not fenced (a fenced block may be revived, R380), the power limit, the commit status and every partition-table record. -/
def Obligations.FirmwareStateKept : Prop :=
  ∀ (s t : State) (i : Instr), isEncoded i = true → s.me.level ≠ .fw → exec i s = .next t →
    (∀ c, s.isFenced c = false → (t.core c).fvec = (s.core c).fvec) ∧ (∀ e, (t.estate e).pwrlim = (s.estate e).pwrlim ∧ (t.estate e).ptstat = (s.estate e).ptstat)
    ∧ (∀ p, (t.part p).record = (s.part p).record)

/-- R412, R419: after cold reset every core of the machine is in boot mode, its control context Ready at firmware level at the firmware
entry (the address is the model's choice, log 8) and its other contexts free; every byte of memory reads zero (log 7), no message,
tile or partition is there; the memory list is canonical. A core of a package in recovery runs nothing. -/
def Obligations.ResetState : Prop :=
  MemoryWf State.reset ∧ (∀ l, State.reset.peek l = 0) ∧ State.reset.msgs = [] ∧ State.reset.parts = [] ∧ State.reset.banks = []
  ∧ (∀ e d m, e < 64 → d < 8 → m < 1024 → let c := CoreId.phys e d m
      State.reset.place c = some (e, d, m) ∧ (State.reset.ctx c 0).run = .ready ∧ (State.reset.ctx c 0).level = .fw
      ∧ (State.reset.ctx c 0).pc = Config.firmwareEntry ∧ (∀ n, n ≠ 0 → (State.reset.ctx c n).run = .free)
      ∧ ∀ n r, (State.reset.ctx c n).getG r = 0)
  ∧ (∀ e d m, 64 ≤ e ∨ 8 ≤ d ∨ 1024 ≤ m → State.reset.place (.phys e d m) = none)
  ∧ ∀ (s : State) (c : CoreId), (s.estate c.estate).recovery = true →
    (∀ n, s.canIssue c n = false) ∧ ∀ n ts, s.agenda = .issue c n :: ts → step s = .fault .recovery
end

