-- ==== Sys2Proof/Laws/Memory.lean ====
section
/-! SUPPORT. Laws of the byte memory: a read after a write, and the canonical form that every operation keeps. -/

namespace Sys2Proof.Machine

/-- Nothing below the first address is listed. -/
theorem Memory.get_below {m : List Host.Cell} {lo a : Nat} (h : Memory.wfAbove lo m = true) (ha : a < lo) :
    Memory.get m a = 0 := by
  induction m generalizing lo with
  | nil => rfl
  | cons c m ih =>
    obtain ⟨k, v⟩ := c
    simp only [Memory.wfAbove, Bool.and_eq_true, decide_eq_true_eq] at h
    have : k ≠ a := by omega
    simp only [Memory.get, this, if_false]
    exact ih h.2 (by omega)

theorem Memory.get_put_ne (m : List Host.Cell) (a b : Nat) (v : Byte) (h : a ≠ b) :
    Memory.get (Memory.put m a v) b = Memory.get m b := by
  induction m with
  | nil =>
    unfold Memory.put
    split <;> simp [Memory.get, h]
  | cons c m ih =>
    obtain ⟨k, w⟩ := c
    unfold Memory.put
    split
    · split <;> simp [Memory.get, h]
    · split
      · rename_i hk
        have : k ≠ b := by omega
        split <;> simp [Memory.get, h, this]
      · simp [Memory.get, ih]

theorem Memory.get_put_same {m : List Host.Cell} {lo : Nat} (a : Nat) (v : Byte) (h : Memory.wfAbove lo m = true) :
    Memory.get (Memory.put m a v) a = v := by
  induction m generalizing lo with
  | nil =>
    unfold Memory.put
    split
    · rename_i hv
      exact hv.symm
    · simp [Memory.get]
  | cons c m ih =>
    obtain ⟨k, w⟩ := c
    simp only [Memory.wfAbove, Bool.and_eq_true, decide_eq_true_eq] at h
    unfold Memory.put
    split
    · rename_i hlt
      split
      · rename_i hv
        have : k ≠ a := by omega
        simp only [Memory.get, this, if_false, hv]
        exact Memory.get_below h.2 (by omega)
      · simp [Memory.get]
    · split
      · split
        · rename_i hv
          rw [hv]
          exact Memory.get_below h.2 (by omega)
        · simp [Memory.get]
      · rename_i h1 h2
        have : k ≠ a := fun e => h2 e.symm
        simp [Memory.get, this, ih h.2]

theorem Memory.wfAbove_mono {m : List Host.Cell} {lo lo' : Nat} (h : Memory.wfAbove lo m = true) (hl : lo' ≤ lo) :
    Memory.wfAbove lo' m = true := by
  cases m with
  | nil => rfl
  | cons c m =>
    obtain ⟨k, v⟩ := c
    simp only [Memory.wfAbove, Bool.and_eq_true, decide_eq_true_eq] at h ⊢
    exact ⟨⟨by omega, h.1.2⟩, h.2⟩

theorem Memory.wfAbove_put {m : List Host.Cell} {lo a : Nat} (v : Byte) (h : Memory.wfAbove lo m = true) (ha : lo ≤ a) :
    Memory.wfAbove lo (Memory.put m a v) = true := by
  induction m generalizing lo with
  | nil =>
    unfold Memory.put
    split
    · rfl
    · rename_i hv
      simp only [Memory.wfAbove, Bool.and_eq_true, decide_eq_true_eq, bne_iff_ne, ne_eq]
      exact ⟨⟨ha, hv⟩, trivial⟩
  | cons c m ih =>
    obtain ⟨k, w⟩ := c
    have h0 := h
    simp only [Memory.wfAbove, Bool.and_eq_true, decide_eq_true_eq, bne_iff_ne, ne_eq] at h
    unfold Memory.put
    split
    · split
      · exact h0
      · rename_i hlt hv
        simp only [Memory.wfAbove, Bool.and_eq_true, decide_eq_true_eq, bne_iff_ne, ne_eq]
        exact ⟨⟨ha, hv⟩, ⟨Nat.succ_le_of_lt hlt, h.1.2⟩, h.2⟩
    · split
      · split
        · exact Memory.wfAbove_mono h.2 (by omega)
        · rename_i hk hv
          subst hk
          simp only [Memory.wfAbove, Bool.and_eq_true, decide_eq_true_eq, bne_iff_ne, ne_eq]
          exact ⟨⟨ha, hv⟩, h.2⟩
      · rename_i h1 h2
        simp only [Memory.wfAbove, Bool.and_eq_true, decide_eq_true_eq, bne_iff_ne, ne_eq]
        exact ⟨h.1, ih h.2 (by omega)⟩

/-- One byte written keeps the canonical form. -/
theorem Memory.wf_put {m : List Host.Cell} (a : Nat) (v : Byte) (h : Memory.wf m = true) :
    Memory.wf (Memory.put m a v) = true := Memory.wfAbove_put v h (Nat.zero_le a)

theorem Memory.wfAbove_filter {m : List Host.Cell} {lo : Nat} (p : Host.Cell → Bool) (h : Memory.wfAbove lo m = true) :
    Memory.wfAbove lo (m.filter p) = true := by
  induction m generalizing lo with
  | nil => rfl
  | cons c m ih =>
    obtain ⟨k, v⟩ := c
    simp only [Memory.wfAbove, Bool.and_eq_true, decide_eq_true_eq] at h
    rw [List.filter_cons]
    split
    · simp only [Memory.wfAbove, Bool.and_eq_true, decide_eq_true_eq]
      exact ⟨h.1, ih h.2⟩
    · exact Memory.wfAbove_mono (ih h.2) (by omega)

/-- Cells left out keep the canonical form. -/
theorem Memory.wf_filter {m : List Host.Cell} (p : Host.Cell → Bool) (h : Memory.wf m = true) :
    Memory.wf (m.filter p) = true := Memory.wfAbove_filter p h

theorem Memory.wf_foldPut (f : Host.Cell → Nat) (cs : List Host.Cell) {m : List Host.Cell} (h : Memory.wf m = true) :
    Memory.wf (cs.foldl (fun m c => Memory.put m (f c) c.2) m) = true := by
  induction cs generalizing m with
  | nil => exact h
  | cons c cs ih => exact ih (Memory.wf_put _ _ h)

/-! ## The state's memory -/

/-- The state's memory has its canonical form. -/
def State.MemOk (s : State) : Prop := Memory.wf s.mem = true

theorem reset_memOk : State.reset.MemOk := by unfold State.MemOk; decide

theorem State.MemOk.poke {s : State} (h : s.MemOk) (loc : Nat) (b : Byte) : (s.poke loc b).MemOk := Memory.wf_put loc b h

theorem State.MemOk.pokeBytes {s : State} (h : s.MemOk) (loc : Nat) (bs : List Byte) : (s.pokeBytes loc bs).MemOk := by
  induction bs generalizing s loc with
  | nil => exact h
  | cons b bs ih => exact ih (h.poke loc b) (loc + 1)

theorem foldl_clearPoison_mem (ls : List Nat) (s : State) (p : Nat → Prop) [DecidablePred p] :
    (ls.foldl (fun s l => if p l then s.clearPoison l else s) s).mem = s.mem := by
  induction ls generalizing s with
  | nil => rfl
  | cons l ls ih =>
    rw [List.foldl_cons, ih]
    split <;> rfl

@[simp] theorem State.commitBytes_mem (s : State) (loc : Nat) (bs : List Byte) :
    (s.commitBytes loc bs).mem = (s.pokeBytes loc bs).mem := by
  unfold State.commitBytes
  exact foldl_clearPoison_mem _ _ _

theorem State.MemOk.commitBytes {s : State} (h : s.MemOk) (loc : Nat) (bs : List Byte) : (s.commitBytes loc bs).MemOk := by
  unfold State.MemOk
  rw [State.commitBytes_mem]
  exact h.pokeBytes loc bs

theorem State.MemOk.physWrite {s : State} (h : s.MemOk) (e pa : Nat) (bs : List Byte) : (s.physWrite e pa bs).MemOk :=
  h.commitBytes _ bs

theorem State.MemOk.blankRange {s : State} (h : s.MemOk) (loc n : Nat) : (s.blankRange loc n).MemOk := Memory.wf_filter _ h

theorem State.MemOk.copyRange {s : State} (h : s.MemOk) (src n dst : Nat) : (s.copyRange src n dst).MemOk :=
  Memory.wf_foldPut _ _ h

theorem State.MemOk.moveRange {s : State} (h : s.MemOk) (src n dst : Nat) : (s.moveRange src n dst).MemOk :=
  Memory.wf_foldPut _ _ (Memory.wf_filter _ h)

theorem State.MemOk.mirror {s : State} (h : s.MemOk) (loc : Nat) (bs : List Byte) : (s.mirror loc bs).MemOk := by
  unfold State.mirror
  split
  · exact h.commitBytes _ _
  · exact h

/-- What a unit commits keeps the form (R70, R272). -/
theorem State.MemOk.commitTargets {s : State} (h : s.MemOk) (ts : List Target) (bs : List Byte) : (s.commitTargets ts bs).MemOk := by
  induction ts generalizing s bs with
  | nil => exact h
  | cons t ts ih => exact ih ((h.commitBytes _ _).mirror _ _) _

/-- A context spilled into its image keeps the form (R67). -/
theorem State.MemOk.spillCtx {s : State} (h : s.MemOk) (base : Nat) (c : CoreId) (n : Nat) : (s.spillCtx base c n).MemOk := by
  have fold {α : Type} (f : α → Nat × List Byte) (l : List α) {s : State} (h : s.MemOk) :
      (l.foldl (fun s a => s.pokeBytes (f a).1 (f a).2) s).MemOk := by
    induction l generalizing s with
    | nil => exact h
    | cons a l ih => exact ih (h.pokeBytes _ _)
  exact fold (fun r => (_, _)) _ (fold (fun r => (_, _)) _ (fold (fun r => (_, _)) _ ((fold (fun r => (_, _)) _ (h.blankRange _ _)).pokeBytes _ _)))

/-! ## Reading after a write -/

theorem State.peek_poke_ne (s : State) (a b : Nat) (v : Byte) (h : a ≠ b) : (s.poke a v).peek b = s.peek b :=
  Memory.get_put_ne s.mem a b v h

theorem State.peek_poke_same {s : State} (hs : s.MemOk) (a : Nat) (v : Byte) : (s.poke a v).peek a = v :=
  Memory.get_put_same a v hs

/-- A write leaves every other byte alone. -/
theorem State.peek_pokeBytes_out (s : State) (loc a : Nat) (bs : List Byte) (h : a < loc ∨ loc + bs.length ≤ a) :
    (s.pokeBytes loc bs).peek a = s.peek a := by
  induction bs generalizing s loc with
  | nil => rfl
  | cons b bs ih =>
    simp only [List.length_cons] at h
    rw [State.pokeBytes, ih _ _ (by omega), State.peek_poke_ne _ _ _ _ (by omega)]

/-- A write reads back. -/
theorem State.peek_pokeBytes_in {s : State} (hs : s.MemOk) (loc i : Nat) (bs : List Byte) (h : i < bs.length) :
    (s.pokeBytes loc bs).peek (loc + i) = bs.getD i 0 := by
  induction bs generalizing s loc i with
  | nil => simp at h
  | cons b bs ih =>
    rw [State.pokeBytes]
    cases i with
    | zero =>
      rw [State.peek_pokeBytes_out _ _ _ _ (by omega)]
      simpa using State.peek_poke_same hs loc b
    | succ i =>
      have := ih (hs.poke loc b) (loc + 1) i (by simpa using h)
      rw [show loc + (i + 1) = loc + 1 + i by omega, this]
      simp

theorem State.peek_of_mem {s t : State} (h : s.mem = t.mem) (a : Nat) : s.peek a = t.peek a := by
  unfold State.peek; rw [h]

/-- `commitBytes` writes its bytes and no other. -/
theorem State.peek_commitBytes_out (s : State) (loc a : Nat) (bs : List Byte) (h : a < loc ∨ loc + bs.length ≤ a) :
    (s.commitBytes loc bs).peek a = s.peek a := by
  rw [State.peek_of_mem (State.commitBytes_mem s loc bs), State.peek_pokeBytes_out _ _ _ _ h]

theorem State.peek_commitBytes_in {s : State} (hs : s.MemOk) (loc i : Nat) (bs : List Byte) (h : i < bs.length) :
    (s.commitBytes loc bs).peek (loc + i) = bs.getD i 0 := by
  rw [State.peek_of_mem (State.commitBytes_mem s loc bs), State.peek_pokeBytes_in hs _ _ _ h]

end Sys2Proof.Machine
end

