-- ==== Sys2Proof/Laws/Map.lean ====
section
/-! SUPPORT. Laws of finite maps and of the register accessors. -/

namespace Sys2Proof

variable {K V : Type} [DecidableEq K]

@[simp] theorem Map.get_nil (d : V) (k : K) : Map.get d ([] : Map K V) k = d := rfl

@[simp] theorem Map.get_cons (d v : V) (k k' : K) (m : Map K V) :
    Map.get d ((k', v) :: m) k = if k' = k then v else Map.get d m k := rfl

@[simp] theorem Map.get_set_same (d v : V) (m : Map K V) (k : K) : Map.get d (m.set k v) k = v := by
  induction m with
  | nil => simp [Map.set]
  | cons p m ih => by_cases h : p.1 = k <;> simp [Map.set, Map.get, h, ih]

theorem Map.get_set (d v : V) (m : Map K V) (k k' : K) :
    Map.get d (m.set k v) k' = if k = k' then v else Map.get d m k' := by
  induction m with
  | nil => simp [Map.set]
  | cons p m ih =>
    by_cases h : p.1 = k
    · subst h
      by_cases h' : p.1 = k' <;> simp [Map.set, Map.get, h']
    · by_cases h' : p.1 = k'
      · subst h'
        simp [Map.set, Map.get, h, Ne.symm h]
      · simp [Map.set, Map.get, h, h', ih]

theorem Map.get_set_ne (d v : V) (m : Map K V) {k k' : K} (h : k ≠ k') : Map.get d (m.set k v) k' = Map.get d m k' := by
  rw [Map.get_set, if_neg h]

@[simp] theorem Map.get?_set_same (v : V) (m : Map K V) (k : K) : Map.get? (m.set k v) k = some v := by
  induction m with
  | nil => simp [Map.set, Map.get?]
  | cons p m ih => by_cases h : p.1 = k <;> simp [Map.set, Map.get?, h, ih]

theorem Map.get?_set_ne (v : V) (m : Map K V) {k k' : K} (h : k ≠ k') : Map.get? (m.set k v) k' = Map.get? m k' := by
  induction m with
  | nil => simp [Map.set, Map.get?, h]
  | cons p m ih =>
    by_cases h1 : p.1 = k
    · subst h1
      simp [Map.set, Map.get?, h]
    · by_cases h2 : p.1 = k'
      · rw [Map.set, if_neg h1, Map.get?, Map.get?, if_pos h2, if_pos h2]
      · rw [Map.set, if_neg h1, Map.get?, Map.get?, if_neg h2, if_neg h2, ih]

@[simp] theorem Map.get?_erase_same (m : Map K V) (k : K) : Map.get? (m.erase k) k = none := by
  induction m with
  | nil => rfl
  | cons p m ih =>
    unfold Map.erase at ih ⊢
    by_cases h : p.1 = k <;> simp [List.filter, h, Map.get?, ih]

theorem Map.set_set (m : Map K V) (k : K) (v w : V) : (m.set k v).set k w = m.set k w := by
  induction m with
  | nil => simp [Map.set]
  | cons p m ih => by_cases h : p.1 = k <;> simp [Map.set, h, ih]

namespace Machine

/-! ## Registers -/

@[simp] theorem Ctx.getG_zero (x : Ctx) : x.getG 0 = 0 := by simp [Ctx.getG]

@[simp] theorem Ctx.setG_zero (x : Ctx) (v : Word) : x.setG 0 v = x := if_pos rfl

/-- R109: a write reads back, but for g0. -/
theorem Ctx.getG_setG (x : Ctx) (r r' : Reg) (v : Word) :
    (x.setG r v).getG r' = if r' = r ∧ r ≠ 0 then v else x.getG r' := by
  by_cases h : r = 0
  · subst h
    rw [Ctx.setG_zero, if_neg fun e => e.2 rfl]
  · unfold Ctx.setG Ctx.getG
    rw [if_neg h]
    by_cases h0 : r' = 0
    · rw [if_pos h0, if_pos h0, if_neg fun e => h (e.1.symm.trans h0)]
    · rw [if_neg h0, if_neg h0]
      by_cases h' : r' = r
      · rw [if_pos ⟨h', h⟩, h', Map.get_set_same]
      · rw [if_neg fun e => h' e.1, Map.get_set_ne _ _ _ (Ne.symm h')]

@[simp] theorem Ctx.getK_zero (x : Ctx) : x.getK 0 = BitVec.allOnes 64 := by simp [Ctx.getK]

@[simp] theorem Ctx.setK_zero (x : Ctx) (v : Word) : x.setK 0 v = x := if_pos rfl

@[simp] theorem Ctx.getV_setV (x : Ctx) (r r' : Reg) (v : Line) :
    (x.setV r v).getV r' = if r = r' then v else x.getV r' := by
  simp [Ctx.setV, Ctx.getV, Map.get_set]

theorem Ctx.getK_setK (x : Ctx) (r r' : BitVec 3) (v : Word) :
    (x.setK r v).getK r' = if r' = r ∧ r ≠ 0 then v else x.getK r' := by
  by_cases h : r = 0
  · subst h
    rw [Ctx.setK_zero, if_neg fun e => e.2 rfl]
  · unfold Ctx.setK Ctx.getK
    rw [if_neg h]
    by_cases h0 : r' = 0
    · rw [if_pos h0, if_pos h0, if_neg fun e => h (e.1.symm.trans h0)]
    · rw [if_neg h0, if_neg h0]
      by_cases h' : r' = r
      · rw [if_pos ⟨h', h⟩, h', Map.get_set_same]
      · rw [if_neg fun e => h' e.1, Map.get_set_ne _ _ _ (Ne.symm h')]

@[simp] theorem Ctx.setG_pc (x : Ctx) (r : Reg) (v : Word) : (x.setG r v).pc = x.pc := by
  unfold Ctx.setG; split <;> rfl
@[simp] theorem Ctx.setG_v (x : Ctx) (r : Reg) (v : Word) : (x.setG r v).v = x.v := by
  unfold Ctx.setG; split <;> rfl
@[simp] theorem Ctx.setG_k (x : Ctx) (r : Reg) (v : Word) : (x.setG r v).k = x.k := by
  unfold Ctx.setG; split <;> rfl
@[simp] theorem Ctx.setG_fflags (x : Ctx) (r : Reg) (v : Word) : (x.setG r v).fflags = x.fflags := by
  unfold Ctx.setG; split <;> rfl
@[simp] theorem Ctx.setG_level (x : Ctx) (r : Reg) (v : Word) : (x.setG r v).level = x.level := by
  unfold Ctx.setG; split <;> rfl
@[simp] theorem Ctx.setG_icount (x : Ctx) (r : Reg) (v : Word) : (x.setG r v).icount = x.icount := by
  unfold Ctx.setG; split <;> rfl
@[simp] theorem Ctx.setG_run (x : Ctx) (r : Reg) (v : Word) : (x.setG r v).run = x.run := by
  unfold Ctx.setG; split <;> rfl

end Machine

end Sys2Proof
end

