-- ==== Sys2Proof/Laws/State.lean ====
section
/-! SUPPORT. One lemma per field per update: what an update of the state leaves as it was; and what it changes. -/

namespace Sys2Proof.Machine

/-! ## `setCore` -/

@[simp] theorem State.setCore_cur (s : State) (c : CoreId) (k : Core) : (s.setCore c k).cur = s.cur := rfl
@[simp] theorem State.setCore_words (s : State) (c : CoreId) (k : Core) : (s.setCore c k).words = s.words := rfl
@[simp] theorem State.setCore_agenda (s : State) (c : CoreId) (k : Core) : (s.setCore c k).agenda = s.agenda := rfl
@[simp] theorem State.setCore_fresh (s : State) (c : CoreId) (k : Core) : (s.setCore c k).fresh = s.fresh := rfl
@[simp] theorem State.setCore_cycle (s : State) (c : CoreId) (k : Core) : (s.setCore c k).cycle = s.cycle := rfl
@[simp] theorem State.setCore_nextId (s : State) (c : CoreId) (k : Core) : (s.setCore c k).nextId = s.nextId := rfl
@[simp] theorem State.setCore_mem (s : State) (c : CoreId) (k : Core) : (s.setCore c k).mem = s.mem := rfl
@[simp] theorem State.setCore_poison (s : State) (c : CoreId) (k : Core) : (s.setCore c k).poison = s.poison := rfl
@[simp] theorem State.setCore_phys (s : State) (c : CoreId) (k : Core) : (s.setCore c k).phys = s.phys := rfl
@[simp] theorem State.setCore_blocks (s : State) (c : CoreId) (k : Core) : (s.setCore c k).blocks = s.blocks := rfl
@[simp] theorem State.setCore_clusters (s : State) (c : CoreId) (k : Core) : (s.setCore c k).clusters = s.clusters := rfl
@[simp] theorem State.setCore_parts (s : State) (c : CoreId) (k : Core) : (s.setCore c k).parts = s.parts := rfl
@[simp] theorem State.setCore_dies (s : State) (c : CoreId) (k : Core) : (s.setCore c k).dies = s.dies := rfl
@[simp] theorem State.setCore_estates (s : State) (c : CoreId) (k : Core) : (s.setCore c k).estates = s.estates := rfl
@[simp] theorem State.setCore_msgs (s : State) (c : CoreId) (k : Core) : (s.setCore c k).msgs = s.msgs := rfl
@[simp] theorem State.setCore_weirs (s : State) (c : CoreId) (k : Core) : (s.setCore c k).weirs = s.weirs := rfl
@[simp] theorem State.setCore_banks (s : State) (c : CoreId) (k : Core) : (s.setCore c k).banks = s.banks := rfl
@[simp] theorem State.setCore_firings (s : State) (c : CoreId) (k : Core) : (s.setCore c k).firings = s.firings := rfl
@[simp] theorem State.setCore_inserts (s : State) (c : CoreId) (k : Core) : (s.setCore c k).inserts = s.inserts := rfl
@[simp] theorem State.setCore_irqs (s : State) (c : CoreId) (k : Core) : (s.setCore c k).irqs = s.irqs := rfl
@[simp] theorem State.setCore_reply (s : State) (c : CoreId) (k : Core) : (s.setCore c k).reply = s.reply := rfl

/-! ## `modCore` -/

@[simp] theorem State.modCore_cur (s : State) (c : CoreId) (f : Core → Core) : (s.modCore c f).cur = s.cur := rfl
@[simp] theorem State.modCore_words (s : State) (c : CoreId) (f : Core → Core) : (s.modCore c f).words = s.words := rfl
@[simp] theorem State.modCore_agenda (s : State) (c : CoreId) (f : Core → Core) : (s.modCore c f).agenda = s.agenda := rfl
@[simp] theorem State.modCore_fresh (s : State) (c : CoreId) (f : Core → Core) : (s.modCore c f).fresh = s.fresh := rfl
@[simp] theorem State.modCore_cycle (s : State) (c : CoreId) (f : Core → Core) : (s.modCore c f).cycle = s.cycle := rfl
@[simp] theorem State.modCore_nextId (s : State) (c : CoreId) (f : Core → Core) : (s.modCore c f).nextId = s.nextId := rfl
@[simp] theorem State.modCore_mem (s : State) (c : CoreId) (f : Core → Core) : (s.modCore c f).mem = s.mem := rfl
@[simp] theorem State.modCore_poison (s : State) (c : CoreId) (f : Core → Core) : (s.modCore c f).poison = s.poison := rfl
@[simp] theorem State.modCore_phys (s : State) (c : CoreId) (f : Core → Core) : (s.modCore c f).phys = s.phys := rfl
@[simp] theorem State.modCore_blocks (s : State) (c : CoreId) (f : Core → Core) : (s.modCore c f).blocks = s.blocks := rfl
@[simp] theorem State.modCore_clusters (s : State) (c : CoreId) (f : Core → Core) : (s.modCore c f).clusters = s.clusters := rfl
@[simp] theorem State.modCore_parts (s : State) (c : CoreId) (f : Core → Core) : (s.modCore c f).parts = s.parts := rfl
@[simp] theorem State.modCore_dies (s : State) (c : CoreId) (f : Core → Core) : (s.modCore c f).dies = s.dies := rfl
@[simp] theorem State.modCore_estates (s : State) (c : CoreId) (f : Core → Core) : (s.modCore c f).estates = s.estates := rfl
@[simp] theorem State.modCore_msgs (s : State) (c : CoreId) (f : Core → Core) : (s.modCore c f).msgs = s.msgs := rfl
@[simp] theorem State.modCore_weirs (s : State) (c : CoreId) (f : Core → Core) : (s.modCore c f).weirs = s.weirs := rfl
@[simp] theorem State.modCore_banks (s : State) (c : CoreId) (f : Core → Core) : (s.modCore c f).banks = s.banks := rfl
@[simp] theorem State.modCore_firings (s : State) (c : CoreId) (f : Core → Core) : (s.modCore c f).firings = s.firings := rfl
@[simp] theorem State.modCore_inserts (s : State) (c : CoreId) (f : Core → Core) : (s.modCore c f).inserts = s.inserts := rfl
@[simp] theorem State.modCore_irqs (s : State) (c : CoreId) (f : Core → Core) : (s.modCore c f).irqs = s.irqs := rfl
@[simp] theorem State.modCore_reply (s : State) (c : CoreId) (f : Core → Core) : (s.modCore c f).reply = s.reply := rfl

/-! ## `modCtx` -/

@[simp] theorem State.modCtx_cur (s : State) (c : CoreId) (n : Nat) (f : Ctx → Ctx) : (s.modCtx c n f).cur = s.cur := rfl
@[simp] theorem State.modCtx_words (s : State) (c : CoreId) (n : Nat) (f : Ctx → Ctx) : (s.modCtx c n f).words = s.words := rfl
@[simp] theorem State.modCtx_agenda (s : State) (c : CoreId) (n : Nat) (f : Ctx → Ctx) : (s.modCtx c n f).agenda = s.agenda := rfl
@[simp] theorem State.modCtx_fresh (s : State) (c : CoreId) (n : Nat) (f : Ctx → Ctx) : (s.modCtx c n f).fresh = s.fresh := rfl
@[simp] theorem State.modCtx_cycle (s : State) (c : CoreId) (n : Nat) (f : Ctx → Ctx) : (s.modCtx c n f).cycle = s.cycle := rfl
@[simp] theorem State.modCtx_nextId (s : State) (c : CoreId) (n : Nat) (f : Ctx → Ctx) : (s.modCtx c n f).nextId = s.nextId := rfl
@[simp] theorem State.modCtx_mem (s : State) (c : CoreId) (n : Nat) (f : Ctx → Ctx) : (s.modCtx c n f).mem = s.mem := rfl
@[simp] theorem State.modCtx_poison (s : State) (c : CoreId) (n : Nat) (f : Ctx → Ctx) : (s.modCtx c n f).poison = s.poison := rfl
@[simp] theorem State.modCtx_phys (s : State) (c : CoreId) (n : Nat) (f : Ctx → Ctx) : (s.modCtx c n f).phys = s.phys := rfl
@[simp] theorem State.modCtx_blocks (s : State) (c : CoreId) (n : Nat) (f : Ctx → Ctx) : (s.modCtx c n f).blocks = s.blocks := rfl
@[simp] theorem State.modCtx_clusters (s : State) (c : CoreId) (n : Nat) (f : Ctx → Ctx) : (s.modCtx c n f).clusters = s.clusters := rfl
@[simp] theorem State.modCtx_parts (s : State) (c : CoreId) (n : Nat) (f : Ctx → Ctx) : (s.modCtx c n f).parts = s.parts := rfl
@[simp] theorem State.modCtx_dies (s : State) (c : CoreId) (n : Nat) (f : Ctx → Ctx) : (s.modCtx c n f).dies = s.dies := rfl
@[simp] theorem State.modCtx_estates (s : State) (c : CoreId) (n : Nat) (f : Ctx → Ctx) : (s.modCtx c n f).estates = s.estates := rfl
@[simp] theorem State.modCtx_msgs (s : State) (c : CoreId) (n : Nat) (f : Ctx → Ctx) : (s.modCtx c n f).msgs = s.msgs := rfl
@[simp] theorem State.modCtx_weirs (s : State) (c : CoreId) (n : Nat) (f : Ctx → Ctx) : (s.modCtx c n f).weirs = s.weirs := rfl
@[simp] theorem State.modCtx_banks (s : State) (c : CoreId) (n : Nat) (f : Ctx → Ctx) : (s.modCtx c n f).banks = s.banks := rfl
@[simp] theorem State.modCtx_firings (s : State) (c : CoreId) (n : Nat) (f : Ctx → Ctx) : (s.modCtx c n f).firings = s.firings := rfl
@[simp] theorem State.modCtx_inserts (s : State) (c : CoreId) (n : Nat) (f : Ctx → Ctx) : (s.modCtx c n f).inserts = s.inserts := rfl
@[simp] theorem State.modCtx_irqs (s : State) (c : CoreId) (n : Nat) (f : Ctx → Ctx) : (s.modCtx c n f).irqs = s.irqs := rfl
@[simp] theorem State.modCtx_reply (s : State) (c : CoreId) (n : Nat) (f : Ctx → Ctx) : (s.modCtx c n f).reply = s.reply := rfl

/-! ## `modMyCore` -/

@[simp] theorem State.modMyCore_cur (s : State) (f : Core → Core) : (s.modMyCore f).cur = s.cur := rfl
@[simp] theorem State.modMyCore_words (s : State) (f : Core → Core) : (s.modMyCore f).words = s.words := rfl
@[simp] theorem State.modMyCore_agenda (s : State) (f : Core → Core) : (s.modMyCore f).agenda = s.agenda := rfl
@[simp] theorem State.modMyCore_fresh (s : State) (f : Core → Core) : (s.modMyCore f).fresh = s.fresh := rfl
@[simp] theorem State.modMyCore_cycle (s : State) (f : Core → Core) : (s.modMyCore f).cycle = s.cycle := rfl
@[simp] theorem State.modMyCore_nextId (s : State) (f : Core → Core) : (s.modMyCore f).nextId = s.nextId := rfl
@[simp] theorem State.modMyCore_mem (s : State) (f : Core → Core) : (s.modMyCore f).mem = s.mem := rfl
@[simp] theorem State.modMyCore_poison (s : State) (f : Core → Core) : (s.modMyCore f).poison = s.poison := rfl
@[simp] theorem State.modMyCore_phys (s : State) (f : Core → Core) : (s.modMyCore f).phys = s.phys := rfl
@[simp] theorem State.modMyCore_blocks (s : State) (f : Core → Core) : (s.modMyCore f).blocks = s.blocks := rfl
@[simp] theorem State.modMyCore_clusters (s : State) (f : Core → Core) : (s.modMyCore f).clusters = s.clusters := rfl
@[simp] theorem State.modMyCore_parts (s : State) (f : Core → Core) : (s.modMyCore f).parts = s.parts := rfl
@[simp] theorem State.modMyCore_dies (s : State) (f : Core → Core) : (s.modMyCore f).dies = s.dies := rfl
@[simp] theorem State.modMyCore_estates (s : State) (f : Core → Core) : (s.modMyCore f).estates = s.estates := rfl
@[simp] theorem State.modMyCore_msgs (s : State) (f : Core → Core) : (s.modMyCore f).msgs = s.msgs := rfl
@[simp] theorem State.modMyCore_weirs (s : State) (f : Core → Core) : (s.modMyCore f).weirs = s.weirs := rfl
@[simp] theorem State.modMyCore_banks (s : State) (f : Core → Core) : (s.modMyCore f).banks = s.banks := rfl
@[simp] theorem State.modMyCore_firings (s : State) (f : Core → Core) : (s.modMyCore f).firings = s.firings := rfl
@[simp] theorem State.modMyCore_inserts (s : State) (f : Core → Core) : (s.modMyCore f).inserts = s.inserts := rfl
@[simp] theorem State.modMyCore_irqs (s : State) (f : Core → Core) : (s.modMyCore f).irqs = s.irqs := rfl
@[simp] theorem State.modMyCore_reply (s : State) (f : Core → Core) : (s.modMyCore f).reply = s.reply := rfl

/-! ## `modMe` -/

@[simp] theorem State.modMe_cur (s : State) (f : Ctx → Ctx) : (s.modMe f).cur = s.cur := rfl
@[simp] theorem State.modMe_words (s : State) (f : Ctx → Ctx) : (s.modMe f).words = s.words := rfl
@[simp] theorem State.modMe_agenda (s : State) (f : Ctx → Ctx) : (s.modMe f).agenda = s.agenda := rfl
@[simp] theorem State.modMe_fresh (s : State) (f : Ctx → Ctx) : (s.modMe f).fresh = s.fresh := rfl
@[simp] theorem State.modMe_cycle (s : State) (f : Ctx → Ctx) : (s.modMe f).cycle = s.cycle := rfl
@[simp] theorem State.modMe_nextId (s : State) (f : Ctx → Ctx) : (s.modMe f).nextId = s.nextId := rfl
@[simp] theorem State.modMe_mem (s : State) (f : Ctx → Ctx) : (s.modMe f).mem = s.mem := rfl
@[simp] theorem State.modMe_poison (s : State) (f : Ctx → Ctx) : (s.modMe f).poison = s.poison := rfl
@[simp] theorem State.modMe_phys (s : State) (f : Ctx → Ctx) : (s.modMe f).phys = s.phys := rfl
@[simp] theorem State.modMe_blocks (s : State) (f : Ctx → Ctx) : (s.modMe f).blocks = s.blocks := rfl
@[simp] theorem State.modMe_clusters (s : State) (f : Ctx → Ctx) : (s.modMe f).clusters = s.clusters := rfl
@[simp] theorem State.modMe_parts (s : State) (f : Ctx → Ctx) : (s.modMe f).parts = s.parts := rfl
@[simp] theorem State.modMe_dies (s : State) (f : Ctx → Ctx) : (s.modMe f).dies = s.dies := rfl
@[simp] theorem State.modMe_estates (s : State) (f : Ctx → Ctx) : (s.modMe f).estates = s.estates := rfl
@[simp] theorem State.modMe_msgs (s : State) (f : Ctx → Ctx) : (s.modMe f).msgs = s.msgs := rfl
@[simp] theorem State.modMe_weirs (s : State) (f : Ctx → Ctx) : (s.modMe f).weirs = s.weirs := rfl
@[simp] theorem State.modMe_banks (s : State) (f : Ctx → Ctx) : (s.modMe f).banks = s.banks := rfl
@[simp] theorem State.modMe_firings (s : State) (f : Ctx → Ctx) : (s.modMe f).firings = s.firings := rfl
@[simp] theorem State.modMe_inserts (s : State) (f : Ctx → Ctx) : (s.modMe f).inserts = s.inserts := rfl
@[simp] theorem State.modMe_irqs (s : State) (f : Ctx → Ctx) : (s.modMe f).irqs = s.irqs := rfl
@[simp] theorem State.modMe_reply (s : State) (f : Ctx → Ctx) : (s.modMe f).reply = s.reply := rfl

/-! ## `writeG` -/

@[simp] theorem State.writeG_cur (s : State) (r : Reg) (v : Word) : (s.writeG r v).cur = s.cur := rfl
@[simp] theorem State.writeG_words (s : State) (r : Reg) (v : Word) : (s.writeG r v).words = s.words := rfl
@[simp] theorem State.writeG_agenda (s : State) (r : Reg) (v : Word) : (s.writeG r v).agenda = s.agenda := rfl
@[simp] theorem State.writeG_fresh (s : State) (r : Reg) (v : Word) : (s.writeG r v).fresh = s.fresh := rfl
@[simp] theorem State.writeG_cycle (s : State) (r : Reg) (v : Word) : (s.writeG r v).cycle = s.cycle := rfl
@[simp] theorem State.writeG_nextId (s : State) (r : Reg) (v : Word) : (s.writeG r v).nextId = s.nextId := rfl
@[simp] theorem State.writeG_mem (s : State) (r : Reg) (v : Word) : (s.writeG r v).mem = s.mem := rfl
@[simp] theorem State.writeG_poison (s : State) (r : Reg) (v : Word) : (s.writeG r v).poison = s.poison := rfl
@[simp] theorem State.writeG_phys (s : State) (r : Reg) (v : Word) : (s.writeG r v).phys = s.phys := rfl
@[simp] theorem State.writeG_blocks (s : State) (r : Reg) (v : Word) : (s.writeG r v).blocks = s.blocks := rfl
@[simp] theorem State.writeG_clusters (s : State) (r : Reg) (v : Word) : (s.writeG r v).clusters = s.clusters := rfl
@[simp] theorem State.writeG_parts (s : State) (r : Reg) (v : Word) : (s.writeG r v).parts = s.parts := rfl
@[simp] theorem State.writeG_dies (s : State) (r : Reg) (v : Word) : (s.writeG r v).dies = s.dies := rfl
@[simp] theorem State.writeG_estates (s : State) (r : Reg) (v : Word) : (s.writeG r v).estates = s.estates := rfl
@[simp] theorem State.writeG_msgs (s : State) (r : Reg) (v : Word) : (s.writeG r v).msgs = s.msgs := rfl
@[simp] theorem State.writeG_weirs (s : State) (r : Reg) (v : Word) : (s.writeG r v).weirs = s.weirs := rfl
@[simp] theorem State.writeG_banks (s : State) (r : Reg) (v : Word) : (s.writeG r v).banks = s.banks := rfl
@[simp] theorem State.writeG_firings (s : State) (r : Reg) (v : Word) : (s.writeG r v).firings = s.firings := rfl
@[simp] theorem State.writeG_inserts (s : State) (r : Reg) (v : Word) : (s.writeG r v).inserts = s.inserts := rfl
@[simp] theorem State.writeG_irqs (s : State) (r : Reg) (v : Word) : (s.writeG r v).irqs = s.irqs := rfl
@[simp] theorem State.writeG_reply (s : State) (r : Reg) (v : Word) : (s.writeG r v).reply = s.reply := rfl

/-! ## `writeV` -/

@[simp] theorem State.writeV_cur (s : State) (r : Reg) (v : Line) : (s.writeV r v).cur = s.cur := rfl
@[simp] theorem State.writeV_words (s : State) (r : Reg) (v : Line) : (s.writeV r v).words = s.words := rfl
@[simp] theorem State.writeV_agenda (s : State) (r : Reg) (v : Line) : (s.writeV r v).agenda = s.agenda := rfl
@[simp] theorem State.writeV_fresh (s : State) (r : Reg) (v : Line) : (s.writeV r v).fresh = s.fresh := rfl
@[simp] theorem State.writeV_cycle (s : State) (r : Reg) (v : Line) : (s.writeV r v).cycle = s.cycle := rfl
@[simp] theorem State.writeV_nextId (s : State) (r : Reg) (v : Line) : (s.writeV r v).nextId = s.nextId := rfl
@[simp] theorem State.writeV_mem (s : State) (r : Reg) (v : Line) : (s.writeV r v).mem = s.mem := rfl
@[simp] theorem State.writeV_poison (s : State) (r : Reg) (v : Line) : (s.writeV r v).poison = s.poison := rfl
@[simp] theorem State.writeV_phys (s : State) (r : Reg) (v : Line) : (s.writeV r v).phys = s.phys := rfl
@[simp] theorem State.writeV_blocks (s : State) (r : Reg) (v : Line) : (s.writeV r v).blocks = s.blocks := rfl
@[simp] theorem State.writeV_clusters (s : State) (r : Reg) (v : Line) : (s.writeV r v).clusters = s.clusters := rfl
@[simp] theorem State.writeV_parts (s : State) (r : Reg) (v : Line) : (s.writeV r v).parts = s.parts := rfl
@[simp] theorem State.writeV_dies (s : State) (r : Reg) (v : Line) : (s.writeV r v).dies = s.dies := rfl
@[simp] theorem State.writeV_estates (s : State) (r : Reg) (v : Line) : (s.writeV r v).estates = s.estates := rfl
@[simp] theorem State.writeV_msgs (s : State) (r : Reg) (v : Line) : (s.writeV r v).msgs = s.msgs := rfl
@[simp] theorem State.writeV_weirs (s : State) (r : Reg) (v : Line) : (s.writeV r v).weirs = s.weirs := rfl
@[simp] theorem State.writeV_banks (s : State) (r : Reg) (v : Line) : (s.writeV r v).banks = s.banks := rfl
@[simp] theorem State.writeV_firings (s : State) (r : Reg) (v : Line) : (s.writeV r v).firings = s.firings := rfl
@[simp] theorem State.writeV_inserts (s : State) (r : Reg) (v : Line) : (s.writeV r v).inserts = s.inserts := rfl
@[simp] theorem State.writeV_irqs (s : State) (r : Reg) (v : Line) : (s.writeV r v).irqs = s.irqs := rfl
@[simp] theorem State.writeV_reply (s : State) (r : Reg) (v : Line) : (s.writeV r v).reply = s.reply := rfl

/-! ## `writeK` -/

@[simp] theorem State.writeK_cur (s : State) (r : BitVec 3) (v : Word) : (s.writeK r v).cur = s.cur := rfl
@[simp] theorem State.writeK_words (s : State) (r : BitVec 3) (v : Word) : (s.writeK r v).words = s.words := rfl
@[simp] theorem State.writeK_agenda (s : State) (r : BitVec 3) (v : Word) : (s.writeK r v).agenda = s.agenda := rfl
@[simp] theorem State.writeK_fresh (s : State) (r : BitVec 3) (v : Word) : (s.writeK r v).fresh = s.fresh := rfl
@[simp] theorem State.writeK_cycle (s : State) (r : BitVec 3) (v : Word) : (s.writeK r v).cycle = s.cycle := rfl
@[simp] theorem State.writeK_nextId (s : State) (r : BitVec 3) (v : Word) : (s.writeK r v).nextId = s.nextId := rfl
@[simp] theorem State.writeK_mem (s : State) (r : BitVec 3) (v : Word) : (s.writeK r v).mem = s.mem := rfl
@[simp] theorem State.writeK_poison (s : State) (r : BitVec 3) (v : Word) : (s.writeK r v).poison = s.poison := rfl
@[simp] theorem State.writeK_phys (s : State) (r : BitVec 3) (v : Word) : (s.writeK r v).phys = s.phys := rfl
@[simp] theorem State.writeK_blocks (s : State) (r : BitVec 3) (v : Word) : (s.writeK r v).blocks = s.blocks := rfl
@[simp] theorem State.writeK_clusters (s : State) (r : BitVec 3) (v : Word) : (s.writeK r v).clusters = s.clusters := rfl
@[simp] theorem State.writeK_parts (s : State) (r : BitVec 3) (v : Word) : (s.writeK r v).parts = s.parts := rfl
@[simp] theorem State.writeK_dies (s : State) (r : BitVec 3) (v : Word) : (s.writeK r v).dies = s.dies := rfl
@[simp] theorem State.writeK_estates (s : State) (r : BitVec 3) (v : Word) : (s.writeK r v).estates = s.estates := rfl
@[simp] theorem State.writeK_msgs (s : State) (r : BitVec 3) (v : Word) : (s.writeK r v).msgs = s.msgs := rfl
@[simp] theorem State.writeK_weirs (s : State) (r : BitVec 3) (v : Word) : (s.writeK r v).weirs = s.weirs := rfl
@[simp] theorem State.writeK_banks (s : State) (r : BitVec 3) (v : Word) : (s.writeK r v).banks = s.banks := rfl
@[simp] theorem State.writeK_firings (s : State) (r : BitVec 3) (v : Word) : (s.writeK r v).firings = s.firings := rfl
@[simp] theorem State.writeK_inserts (s : State) (r : BitVec 3) (v : Word) : (s.writeK r v).inserts = s.inserts := rfl
@[simp] theorem State.writeK_irqs (s : State) (r : BitVec 3) (v : Word) : (s.writeK r v).irqs = s.irqs := rfl
@[simp] theorem State.writeK_reply (s : State) (r : BitVec 3) (v : Word) : (s.writeK r v).reply = s.reply := rfl

/-! ## `setFlags` -/

@[simp] theorem State.setFlags_cur (s : State) (v : Word) : (s.setFlags v).cur = s.cur := rfl
@[simp] theorem State.setFlags_words (s : State) (v : Word) : (s.setFlags v).words = s.words := rfl
@[simp] theorem State.setFlags_agenda (s : State) (v : Word) : (s.setFlags v).agenda = s.agenda := rfl
@[simp] theorem State.setFlags_fresh (s : State) (v : Word) : (s.setFlags v).fresh = s.fresh := rfl
@[simp] theorem State.setFlags_cycle (s : State) (v : Word) : (s.setFlags v).cycle = s.cycle := rfl
@[simp] theorem State.setFlags_nextId (s : State) (v : Word) : (s.setFlags v).nextId = s.nextId := rfl
@[simp] theorem State.setFlags_mem (s : State) (v : Word) : (s.setFlags v).mem = s.mem := rfl
@[simp] theorem State.setFlags_poison (s : State) (v : Word) : (s.setFlags v).poison = s.poison := rfl
@[simp] theorem State.setFlags_phys (s : State) (v : Word) : (s.setFlags v).phys = s.phys := rfl
@[simp] theorem State.setFlags_blocks (s : State) (v : Word) : (s.setFlags v).blocks = s.blocks := rfl
@[simp] theorem State.setFlags_clusters (s : State) (v : Word) : (s.setFlags v).clusters = s.clusters := rfl
@[simp] theorem State.setFlags_parts (s : State) (v : Word) : (s.setFlags v).parts = s.parts := rfl
@[simp] theorem State.setFlags_dies (s : State) (v : Word) : (s.setFlags v).dies = s.dies := rfl
@[simp] theorem State.setFlags_estates (s : State) (v : Word) : (s.setFlags v).estates = s.estates := rfl
@[simp] theorem State.setFlags_msgs (s : State) (v : Word) : (s.setFlags v).msgs = s.msgs := rfl
@[simp] theorem State.setFlags_weirs (s : State) (v : Word) : (s.setFlags v).weirs = s.weirs := rfl
@[simp] theorem State.setFlags_banks (s : State) (v : Word) : (s.setFlags v).banks = s.banks := rfl
@[simp] theorem State.setFlags_firings (s : State) (v : Word) : (s.setFlags v).firings = s.firings := rfl
@[simp] theorem State.setFlags_inserts (s : State) (v : Word) : (s.setFlags v).inserts = s.inserts := rfl
@[simp] theorem State.setFlags_irqs (s : State) (v : Word) : (s.setFlags v).irqs = s.irqs := rfl
@[simp] theorem State.setFlags_reply (s : State) (v : Word) : (s.setFlags v).reply = s.reply := rfl

/-! ## `retire` -/

@[simp] theorem State.retire_cur (s : State) (n : Nat) : (s.retire n).cur = s.cur := rfl
@[simp] theorem State.retire_words (s : State) (n : Nat) : (s.retire n).words = s.words := rfl
@[simp] theorem State.retire_agenda (s : State) (n : Nat) : (s.retire n).agenda = s.agenda := rfl
@[simp] theorem State.retire_fresh (s : State) (n : Nat) : (s.retire n).fresh = s.fresh := rfl
@[simp] theorem State.retire_cycle (s : State) (n : Nat) : (s.retire n).cycle = s.cycle := rfl
@[simp] theorem State.retire_nextId (s : State) (n : Nat) : (s.retire n).nextId = s.nextId := rfl
@[simp] theorem State.retire_mem (s : State) (n : Nat) : (s.retire n).mem = s.mem := rfl
@[simp] theorem State.retire_poison (s : State) (n : Nat) : (s.retire n).poison = s.poison := rfl
@[simp] theorem State.retire_phys (s : State) (n : Nat) : (s.retire n).phys = s.phys := rfl
@[simp] theorem State.retire_blocks (s : State) (n : Nat) : (s.retire n).blocks = s.blocks := rfl
@[simp] theorem State.retire_clusters (s : State) (n : Nat) : (s.retire n).clusters = s.clusters := rfl
@[simp] theorem State.retire_parts (s : State) (n : Nat) : (s.retire n).parts = s.parts := rfl
@[simp] theorem State.retire_dies (s : State) (n : Nat) : (s.retire n).dies = s.dies := rfl
@[simp] theorem State.retire_estates (s : State) (n : Nat) : (s.retire n).estates = s.estates := rfl
@[simp] theorem State.retire_msgs (s : State) (n : Nat) : (s.retire n).msgs = s.msgs := rfl
@[simp] theorem State.retire_weirs (s : State) (n : Nat) : (s.retire n).weirs = s.weirs := rfl
@[simp] theorem State.retire_banks (s : State) (n : Nat) : (s.retire n).banks = s.banks := rfl
@[simp] theorem State.retire_firings (s : State) (n : Nat) : (s.retire n).firings = s.firings := rfl
@[simp] theorem State.retire_inserts (s : State) (n : Nat) : (s.retire n).inserts = s.inserts := rfl
@[simp] theorem State.retire_irqs (s : State) (n : Nat) : (s.retire n).irqs = s.irqs := rfl
@[simp] theorem State.retire_reply (s : State) (n : Nat) : (s.retire n).reply = s.reply := rfl

/-! ## `jump` -/

@[simp] theorem State.jump_cur (s : State) (t : Word) : (s.jump t).cur = s.cur := rfl
@[simp] theorem State.jump_words (s : State) (t : Word) : (s.jump t).words = s.words := rfl
@[simp] theorem State.jump_agenda (s : State) (t : Word) : (s.jump t).agenda = s.agenda := rfl
@[simp] theorem State.jump_fresh (s : State) (t : Word) : (s.jump t).fresh = s.fresh := rfl
@[simp] theorem State.jump_cycle (s : State) (t : Word) : (s.jump t).cycle = s.cycle := rfl
@[simp] theorem State.jump_nextId (s : State) (t : Word) : (s.jump t).nextId = s.nextId := rfl
@[simp] theorem State.jump_mem (s : State) (t : Word) : (s.jump t).mem = s.mem := rfl
@[simp] theorem State.jump_poison (s : State) (t : Word) : (s.jump t).poison = s.poison := rfl
@[simp] theorem State.jump_phys (s : State) (t : Word) : (s.jump t).phys = s.phys := rfl
@[simp] theorem State.jump_blocks (s : State) (t : Word) : (s.jump t).blocks = s.blocks := rfl
@[simp] theorem State.jump_clusters (s : State) (t : Word) : (s.jump t).clusters = s.clusters := rfl
@[simp] theorem State.jump_parts (s : State) (t : Word) : (s.jump t).parts = s.parts := rfl
@[simp] theorem State.jump_dies (s : State) (t : Word) : (s.jump t).dies = s.dies := rfl
@[simp] theorem State.jump_estates (s : State) (t : Word) : (s.jump t).estates = s.estates := rfl
@[simp] theorem State.jump_msgs (s : State) (t : Word) : (s.jump t).msgs = s.msgs := rfl
@[simp] theorem State.jump_weirs (s : State) (t : Word) : (s.jump t).weirs = s.weirs := rfl
@[simp] theorem State.jump_banks (s : State) (t : Word) : (s.jump t).banks = s.banks := rfl
@[simp] theorem State.jump_firings (s : State) (t : Word) : (s.jump t).firings = s.firings := rfl
@[simp] theorem State.jump_inserts (s : State) (t : Word) : (s.jump t).inserts = s.inserts := rfl
@[simp] theorem State.jump_irqs (s : State) (t : Word) : (s.jump t).irqs = s.irqs := rfl
@[simp] theorem State.jump_reply (s : State) (t : Word) : (s.jump t).reply = s.reply := rfl

/-! ## `wait` -/

@[simp] theorem State.wait_cur (s : State) (i : Instr) : (s.wait i).cur = s.cur := rfl
@[simp] theorem State.wait_words (s : State) (i : Instr) : (s.wait i).words = s.words := rfl
@[simp] theorem State.wait_agenda (s : State) (i : Instr) : (s.wait i).agenda = s.agenda := rfl
@[simp] theorem State.wait_fresh (s : State) (i : Instr) : (s.wait i).fresh = s.fresh := rfl
@[simp] theorem State.wait_cycle (s : State) (i : Instr) : (s.wait i).cycle = s.cycle := rfl
@[simp] theorem State.wait_nextId (s : State) (i : Instr) : (s.wait i).nextId = s.nextId := rfl
@[simp] theorem State.wait_mem (s : State) (i : Instr) : (s.wait i).mem = s.mem := rfl
@[simp] theorem State.wait_poison (s : State) (i : Instr) : (s.wait i).poison = s.poison := rfl
@[simp] theorem State.wait_phys (s : State) (i : Instr) : (s.wait i).phys = s.phys := rfl
@[simp] theorem State.wait_blocks (s : State) (i : Instr) : (s.wait i).blocks = s.blocks := rfl
@[simp] theorem State.wait_clusters (s : State) (i : Instr) : (s.wait i).clusters = s.clusters := rfl
@[simp] theorem State.wait_parts (s : State) (i : Instr) : (s.wait i).parts = s.parts := rfl
@[simp] theorem State.wait_dies (s : State) (i : Instr) : (s.wait i).dies = s.dies := rfl
@[simp] theorem State.wait_estates (s : State) (i : Instr) : (s.wait i).estates = s.estates := rfl
@[simp] theorem State.wait_msgs (s : State) (i : Instr) : (s.wait i).msgs = s.msgs := rfl
@[simp] theorem State.wait_weirs (s : State) (i : Instr) : (s.wait i).weirs = s.weirs := rfl
@[simp] theorem State.wait_banks (s : State) (i : Instr) : (s.wait i).banks = s.banks := rfl
@[simp] theorem State.wait_firings (s : State) (i : Instr) : (s.wait i).firings = s.firings := rfl
@[simp] theorem State.wait_inserts (s : State) (i : Instr) : (s.wait i).inserts = s.inserts := rfl
@[simp] theorem State.wait_irqs (s : State) (i : Instr) : (s.wait i).irqs = s.irqs := rfl
@[simp] theorem State.wait_reply (s : State) (i : Instr) : (s.wait i).reply = s.reply := rfl

/-! ## `stall` -/

@[simp] theorem State.stall_cur (s : State) : (s.stall).cur = s.cur := rfl
@[simp] theorem State.stall_words (s : State) : (s.stall).words = s.words := rfl
@[simp] theorem State.stall_agenda (s : State) : (s.stall).agenda = s.agenda := rfl
@[simp] theorem State.stall_fresh (s : State) : (s.stall).fresh = s.fresh := rfl
@[simp] theorem State.stall_cycle (s : State) : (s.stall).cycle = s.cycle := rfl
@[simp] theorem State.stall_nextId (s : State) : (s.stall).nextId = s.nextId := rfl
@[simp] theorem State.stall_mem (s : State) : (s.stall).mem = s.mem := rfl
@[simp] theorem State.stall_poison (s : State) : (s.stall).poison = s.poison := rfl
@[simp] theorem State.stall_phys (s : State) : (s.stall).phys = s.phys := rfl
@[simp] theorem State.stall_blocks (s : State) : (s.stall).blocks = s.blocks := rfl
@[simp] theorem State.stall_clusters (s : State) : (s.stall).clusters = s.clusters := rfl
@[simp] theorem State.stall_parts (s : State) : (s.stall).parts = s.parts := rfl
@[simp] theorem State.stall_dies (s : State) : (s.stall).dies = s.dies := rfl
@[simp] theorem State.stall_estates (s : State) : (s.stall).estates = s.estates := rfl
@[simp] theorem State.stall_msgs (s : State) : (s.stall).msgs = s.msgs := rfl
@[simp] theorem State.stall_weirs (s : State) : (s.stall).weirs = s.weirs := rfl
@[simp] theorem State.stall_banks (s : State) : (s.stall).banks = s.banks := rfl
@[simp] theorem State.stall_firings (s : State) : (s.stall).firings = s.firings := rfl
@[simp] theorem State.stall_inserts (s : State) : (s.stall).inserts = s.inserts := rfl
@[simp] theorem State.stall_irqs (s : State) : (s.stall).irqs = s.irqs := rfl
@[simp] theorem State.stall_reply (s : State) : (s.stall).reply = s.reply := rfl

/-! ## `modPart` -/

@[simp] theorem State.modPart_cur (s : State) (p : Nat) (f : Part → Part) : (s.modPart p f).cur = s.cur := rfl
@[simp] theorem State.modPart_words (s : State) (p : Nat) (f : Part → Part) : (s.modPart p f).words = s.words := rfl
@[simp] theorem State.modPart_agenda (s : State) (p : Nat) (f : Part → Part) : (s.modPart p f).agenda = s.agenda := rfl
@[simp] theorem State.modPart_fresh (s : State) (p : Nat) (f : Part → Part) : (s.modPart p f).fresh = s.fresh := rfl
@[simp] theorem State.modPart_cycle (s : State) (p : Nat) (f : Part → Part) : (s.modPart p f).cycle = s.cycle := rfl
@[simp] theorem State.modPart_nextId (s : State) (p : Nat) (f : Part → Part) : (s.modPart p f).nextId = s.nextId := rfl
@[simp] theorem State.modPart_mem (s : State) (p : Nat) (f : Part → Part) : (s.modPart p f).mem = s.mem := rfl
@[simp] theorem State.modPart_poison (s : State) (p : Nat) (f : Part → Part) : (s.modPart p f).poison = s.poison := rfl
@[simp] theorem State.modPart_cores (s : State) (p : Nat) (f : Part → Part) : (s.modPart p f).cores = s.cores := rfl
@[simp] theorem State.modPart_phys (s : State) (p : Nat) (f : Part → Part) : (s.modPart p f).phys = s.phys := rfl
@[simp] theorem State.modPart_blocks (s : State) (p : Nat) (f : Part → Part) : (s.modPart p f).blocks = s.blocks := rfl
@[simp] theorem State.modPart_clusters (s : State) (p : Nat) (f : Part → Part) : (s.modPart p f).clusters = s.clusters := rfl
@[simp] theorem State.modPart_dies (s : State) (p : Nat) (f : Part → Part) : (s.modPart p f).dies = s.dies := rfl
@[simp] theorem State.modPart_estates (s : State) (p : Nat) (f : Part → Part) : (s.modPart p f).estates = s.estates := rfl
@[simp] theorem State.modPart_msgs (s : State) (p : Nat) (f : Part → Part) : (s.modPart p f).msgs = s.msgs := rfl
@[simp] theorem State.modPart_weirs (s : State) (p : Nat) (f : Part → Part) : (s.modPart p f).weirs = s.weirs := rfl
@[simp] theorem State.modPart_banks (s : State) (p : Nat) (f : Part → Part) : (s.modPart p f).banks = s.banks := rfl
@[simp] theorem State.modPart_firings (s : State) (p : Nat) (f : Part → Part) : (s.modPart p f).firings = s.firings := rfl
@[simp] theorem State.modPart_inserts (s : State) (p : Nat) (f : Part → Part) : (s.modPart p f).inserts = s.inserts := rfl
@[simp] theorem State.modPart_irqs (s : State) (p : Nat) (f : Part → Part) : (s.modPart p f).irqs = s.irqs := rfl
@[simp] theorem State.modPart_reply (s : State) (p : Nat) (f : Part → Part) : (s.modPart p f).reply = s.reply := rfl

/-! ## `modBlock` -/

@[simp] theorem State.modBlock_cur (s : State) (b : BlockId) (f : Block → Block) : (s.modBlock b f).cur = s.cur := rfl
@[simp] theorem State.modBlock_words (s : State) (b : BlockId) (f : Block → Block) : (s.modBlock b f).words = s.words := rfl
@[simp] theorem State.modBlock_agenda (s : State) (b : BlockId) (f : Block → Block) : (s.modBlock b f).agenda = s.agenda := rfl
@[simp] theorem State.modBlock_fresh (s : State) (b : BlockId) (f : Block → Block) : (s.modBlock b f).fresh = s.fresh := rfl
@[simp] theorem State.modBlock_cycle (s : State) (b : BlockId) (f : Block → Block) : (s.modBlock b f).cycle = s.cycle := rfl
@[simp] theorem State.modBlock_nextId (s : State) (b : BlockId) (f : Block → Block) : (s.modBlock b f).nextId = s.nextId := rfl
@[simp] theorem State.modBlock_mem (s : State) (b : BlockId) (f : Block → Block) : (s.modBlock b f).mem = s.mem := rfl
@[simp] theorem State.modBlock_poison (s : State) (b : BlockId) (f : Block → Block) : (s.modBlock b f).poison = s.poison := rfl
@[simp] theorem State.modBlock_cores (s : State) (b : BlockId) (f : Block → Block) : (s.modBlock b f).cores = s.cores := rfl
@[simp] theorem State.modBlock_phys (s : State) (b : BlockId) (f : Block → Block) : (s.modBlock b f).phys = s.phys := rfl
@[simp] theorem State.modBlock_clusters (s : State) (b : BlockId) (f : Block → Block) : (s.modBlock b f).clusters = s.clusters := rfl
@[simp] theorem State.modBlock_parts (s : State) (b : BlockId) (f : Block → Block) : (s.modBlock b f).parts = s.parts := rfl
@[simp] theorem State.modBlock_dies (s : State) (b : BlockId) (f : Block → Block) : (s.modBlock b f).dies = s.dies := rfl
@[simp] theorem State.modBlock_estates (s : State) (b : BlockId) (f : Block → Block) : (s.modBlock b f).estates = s.estates := rfl
@[simp] theorem State.modBlock_msgs (s : State) (b : BlockId) (f : Block → Block) : (s.modBlock b f).msgs = s.msgs := rfl
@[simp] theorem State.modBlock_weirs (s : State) (b : BlockId) (f : Block → Block) : (s.modBlock b f).weirs = s.weirs := rfl
@[simp] theorem State.modBlock_banks (s : State) (b : BlockId) (f : Block → Block) : (s.modBlock b f).banks = s.banks := rfl
@[simp] theorem State.modBlock_firings (s : State) (b : BlockId) (f : Block → Block) : (s.modBlock b f).firings = s.firings := rfl
@[simp] theorem State.modBlock_inserts (s : State) (b : BlockId) (f : Block → Block) : (s.modBlock b f).inserts = s.inserts := rfl
@[simp] theorem State.modBlock_irqs (s : State) (b : BlockId) (f : Block → Block) : (s.modBlock b f).irqs = s.irqs := rfl
@[simp] theorem State.modBlock_reply (s : State) (b : BlockId) (f : Block → Block) : (s.modBlock b f).reply = s.reply := rfl

/-! ## `modDie` -/

@[simp] theorem State.modDie_cur (s : State) (d : Nat × Nat) (f : Die → Die) : (s.modDie d f).cur = s.cur := rfl
@[simp] theorem State.modDie_words (s : State) (d : Nat × Nat) (f : Die → Die) : (s.modDie d f).words = s.words := rfl
@[simp] theorem State.modDie_agenda (s : State) (d : Nat × Nat) (f : Die → Die) : (s.modDie d f).agenda = s.agenda := rfl
@[simp] theorem State.modDie_fresh (s : State) (d : Nat × Nat) (f : Die → Die) : (s.modDie d f).fresh = s.fresh := rfl
@[simp] theorem State.modDie_cycle (s : State) (d : Nat × Nat) (f : Die → Die) : (s.modDie d f).cycle = s.cycle := rfl
@[simp] theorem State.modDie_nextId (s : State) (d : Nat × Nat) (f : Die → Die) : (s.modDie d f).nextId = s.nextId := rfl
@[simp] theorem State.modDie_mem (s : State) (d : Nat × Nat) (f : Die → Die) : (s.modDie d f).mem = s.mem := rfl
@[simp] theorem State.modDie_poison (s : State) (d : Nat × Nat) (f : Die → Die) : (s.modDie d f).poison = s.poison := rfl
@[simp] theorem State.modDie_cores (s : State) (d : Nat × Nat) (f : Die → Die) : (s.modDie d f).cores = s.cores := rfl
@[simp] theorem State.modDie_phys (s : State) (d : Nat × Nat) (f : Die → Die) : (s.modDie d f).phys = s.phys := rfl
@[simp] theorem State.modDie_blocks (s : State) (d : Nat × Nat) (f : Die → Die) : (s.modDie d f).blocks = s.blocks := rfl
@[simp] theorem State.modDie_clusters (s : State) (d : Nat × Nat) (f : Die → Die) : (s.modDie d f).clusters = s.clusters := rfl
@[simp] theorem State.modDie_parts (s : State) (d : Nat × Nat) (f : Die → Die) : (s.modDie d f).parts = s.parts := rfl
@[simp] theorem State.modDie_estates (s : State) (d : Nat × Nat) (f : Die → Die) : (s.modDie d f).estates = s.estates := rfl
@[simp] theorem State.modDie_msgs (s : State) (d : Nat × Nat) (f : Die → Die) : (s.modDie d f).msgs = s.msgs := rfl
@[simp] theorem State.modDie_weirs (s : State) (d : Nat × Nat) (f : Die → Die) : (s.modDie d f).weirs = s.weirs := rfl
@[simp] theorem State.modDie_banks (s : State) (d : Nat × Nat) (f : Die → Die) : (s.modDie d f).banks = s.banks := rfl
@[simp] theorem State.modDie_firings (s : State) (d : Nat × Nat) (f : Die → Die) : (s.modDie d f).firings = s.firings := rfl
@[simp] theorem State.modDie_inserts (s : State) (d : Nat × Nat) (f : Die → Die) : (s.modDie d f).inserts = s.inserts := rfl
@[simp] theorem State.modDie_irqs (s : State) (d : Nat × Nat) (f : Die → Die) : (s.modDie d f).irqs = s.irqs := rfl
@[simp] theorem State.modDie_reply (s : State) (d : Nat × Nat) (f : Die → Die) : (s.modDie d f).reply = s.reply := rfl

/-! ## `modEstate` -/

@[simp] theorem State.modEstate_cur (s : State) (e : Nat) (f : Estate → Estate) : (s.modEstate e f).cur = s.cur := rfl
@[simp] theorem State.modEstate_words (s : State) (e : Nat) (f : Estate → Estate) : (s.modEstate e f).words = s.words := rfl
@[simp] theorem State.modEstate_agenda (s : State) (e : Nat) (f : Estate → Estate) : (s.modEstate e f).agenda = s.agenda := rfl
@[simp] theorem State.modEstate_fresh (s : State) (e : Nat) (f : Estate → Estate) : (s.modEstate e f).fresh = s.fresh := rfl
@[simp] theorem State.modEstate_cycle (s : State) (e : Nat) (f : Estate → Estate) : (s.modEstate e f).cycle = s.cycle := rfl
@[simp] theorem State.modEstate_nextId (s : State) (e : Nat) (f : Estate → Estate) : (s.modEstate e f).nextId = s.nextId := rfl
@[simp] theorem State.modEstate_mem (s : State) (e : Nat) (f : Estate → Estate) : (s.modEstate e f).mem = s.mem := rfl
@[simp] theorem State.modEstate_poison (s : State) (e : Nat) (f : Estate → Estate) : (s.modEstate e f).poison = s.poison := rfl
@[simp] theorem State.modEstate_cores (s : State) (e : Nat) (f : Estate → Estate) : (s.modEstate e f).cores = s.cores := rfl
@[simp] theorem State.modEstate_phys (s : State) (e : Nat) (f : Estate → Estate) : (s.modEstate e f).phys = s.phys := rfl
@[simp] theorem State.modEstate_blocks (s : State) (e : Nat) (f : Estate → Estate) : (s.modEstate e f).blocks = s.blocks := rfl
@[simp] theorem State.modEstate_clusters (s : State) (e : Nat) (f : Estate → Estate) : (s.modEstate e f).clusters = s.clusters := rfl
@[simp] theorem State.modEstate_parts (s : State) (e : Nat) (f : Estate → Estate) : (s.modEstate e f).parts = s.parts := rfl
@[simp] theorem State.modEstate_dies (s : State) (e : Nat) (f : Estate → Estate) : (s.modEstate e f).dies = s.dies := rfl
@[simp] theorem State.modEstate_msgs (s : State) (e : Nat) (f : Estate → Estate) : (s.modEstate e f).msgs = s.msgs := rfl
@[simp] theorem State.modEstate_weirs (s : State) (e : Nat) (f : Estate → Estate) : (s.modEstate e f).weirs = s.weirs := rfl
@[simp] theorem State.modEstate_banks (s : State) (e : Nat) (f : Estate → Estate) : (s.modEstate e f).banks = s.banks := rfl
@[simp] theorem State.modEstate_firings (s : State) (e : Nat) (f : Estate → Estate) : (s.modEstate e f).firings = s.firings := rfl
@[simp] theorem State.modEstate_inserts (s : State) (e : Nat) (f : Estate → Estate) : (s.modEstate e f).inserts = s.inserts := rfl
@[simp] theorem State.modEstate_irqs (s : State) (e : Nat) (f : Estate → Estate) : (s.modEstate e f).irqs = s.irqs := rfl
@[simp] theorem State.modEstate_reply (s : State) (e : Nat) (f : Estate → Estate) : (s.modEstate e f).reply = s.reply := rfl

/-! ## `modPhys` -/

@[simp] theorem State.modPhys_cur (s : State) (p : Nat × Nat × Nat) (f : Phys → Phys) : (s.modPhys p f).cur = s.cur := rfl
@[simp] theorem State.modPhys_words (s : State) (p : Nat × Nat × Nat) (f : Phys → Phys) : (s.modPhys p f).words = s.words := rfl
@[simp] theorem State.modPhys_agenda (s : State) (p : Nat × Nat × Nat) (f : Phys → Phys) : (s.modPhys p f).agenda = s.agenda := rfl
@[simp] theorem State.modPhys_fresh (s : State) (p : Nat × Nat × Nat) (f : Phys → Phys) : (s.modPhys p f).fresh = s.fresh := rfl
@[simp] theorem State.modPhys_cycle (s : State) (p : Nat × Nat × Nat) (f : Phys → Phys) : (s.modPhys p f).cycle = s.cycle := rfl
@[simp] theorem State.modPhys_nextId (s : State) (p : Nat × Nat × Nat) (f : Phys → Phys) : (s.modPhys p f).nextId = s.nextId := rfl
@[simp] theorem State.modPhys_mem (s : State) (p : Nat × Nat × Nat) (f : Phys → Phys) : (s.modPhys p f).mem = s.mem := rfl
@[simp] theorem State.modPhys_poison (s : State) (p : Nat × Nat × Nat) (f : Phys → Phys) : (s.modPhys p f).poison = s.poison := rfl
@[simp] theorem State.modPhys_cores (s : State) (p : Nat × Nat × Nat) (f : Phys → Phys) : (s.modPhys p f).cores = s.cores := rfl
@[simp] theorem State.modPhys_blocks (s : State) (p : Nat × Nat × Nat) (f : Phys → Phys) : (s.modPhys p f).blocks = s.blocks := rfl
@[simp] theorem State.modPhys_clusters (s : State) (p : Nat × Nat × Nat) (f : Phys → Phys) : (s.modPhys p f).clusters = s.clusters := rfl
@[simp] theorem State.modPhys_parts (s : State) (p : Nat × Nat × Nat) (f : Phys → Phys) : (s.modPhys p f).parts = s.parts := rfl
@[simp] theorem State.modPhys_dies (s : State) (p : Nat × Nat × Nat) (f : Phys → Phys) : (s.modPhys p f).dies = s.dies := rfl
@[simp] theorem State.modPhys_estates (s : State) (p : Nat × Nat × Nat) (f : Phys → Phys) : (s.modPhys p f).estates = s.estates := rfl
@[simp] theorem State.modPhys_msgs (s : State) (p : Nat × Nat × Nat) (f : Phys → Phys) : (s.modPhys p f).msgs = s.msgs := rfl
@[simp] theorem State.modPhys_weirs (s : State) (p : Nat × Nat × Nat) (f : Phys → Phys) : (s.modPhys p f).weirs = s.weirs := rfl
@[simp] theorem State.modPhys_banks (s : State) (p : Nat × Nat × Nat) (f : Phys → Phys) : (s.modPhys p f).banks = s.banks := rfl
@[simp] theorem State.modPhys_firings (s : State) (p : Nat × Nat × Nat) (f : Phys → Phys) : (s.modPhys p f).firings = s.firings := rfl
@[simp] theorem State.modPhys_inserts (s : State) (p : Nat × Nat × Nat) (f : Phys → Phys) : (s.modPhys p f).inserts = s.inserts := rfl
@[simp] theorem State.modPhys_irqs (s : State) (p : Nat × Nat × Nat) (f : Phys → Phys) : (s.modPhys p f).irqs = s.irqs := rfl
@[simp] theorem State.modPhys_reply (s : State) (p : Nat × Nat × Nat) (f : Phys → Phys) : (s.modPhys p f).reply = s.reply := rfl

/-! ## `modCluster` -/

@[simp] theorem State.modCluster_cur (s : State) (k : Nat × Nat × Nat) (f : Cluster → Cluster) : (s.modCluster k f).cur = s.cur := rfl
@[simp] theorem State.modCluster_words (s : State) (k : Nat × Nat × Nat) (f : Cluster → Cluster) : (s.modCluster k f).words = s.words := rfl
@[simp] theorem State.modCluster_agenda (s : State) (k : Nat × Nat × Nat) (f : Cluster → Cluster) : (s.modCluster k f).agenda = s.agenda := rfl
@[simp] theorem State.modCluster_fresh (s : State) (k : Nat × Nat × Nat) (f : Cluster → Cluster) : (s.modCluster k f).fresh = s.fresh := rfl
@[simp] theorem State.modCluster_cycle (s : State) (k : Nat × Nat × Nat) (f : Cluster → Cluster) : (s.modCluster k f).cycle = s.cycle := rfl
@[simp] theorem State.modCluster_nextId (s : State) (k : Nat × Nat × Nat) (f : Cluster → Cluster) : (s.modCluster k f).nextId = s.nextId := rfl
@[simp] theorem State.modCluster_mem (s : State) (k : Nat × Nat × Nat) (f : Cluster → Cluster) : (s.modCluster k f).mem = s.mem := rfl
@[simp] theorem State.modCluster_poison (s : State) (k : Nat × Nat × Nat) (f : Cluster → Cluster) : (s.modCluster k f).poison = s.poison := rfl
@[simp] theorem State.modCluster_cores (s : State) (k : Nat × Nat × Nat) (f : Cluster → Cluster) : (s.modCluster k f).cores = s.cores := rfl
@[simp] theorem State.modCluster_phys (s : State) (k : Nat × Nat × Nat) (f : Cluster → Cluster) : (s.modCluster k f).phys = s.phys := rfl
@[simp] theorem State.modCluster_blocks (s : State) (k : Nat × Nat × Nat) (f : Cluster → Cluster) : (s.modCluster k f).blocks = s.blocks := rfl
@[simp] theorem State.modCluster_parts (s : State) (k : Nat × Nat × Nat) (f : Cluster → Cluster) : (s.modCluster k f).parts = s.parts := rfl
@[simp] theorem State.modCluster_dies (s : State) (k : Nat × Nat × Nat) (f : Cluster → Cluster) : (s.modCluster k f).dies = s.dies := rfl
@[simp] theorem State.modCluster_estates (s : State) (k : Nat × Nat × Nat) (f : Cluster → Cluster) : (s.modCluster k f).estates = s.estates := rfl
@[simp] theorem State.modCluster_msgs (s : State) (k : Nat × Nat × Nat) (f : Cluster → Cluster) : (s.modCluster k f).msgs = s.msgs := rfl
@[simp] theorem State.modCluster_weirs (s : State) (k : Nat × Nat × Nat) (f : Cluster → Cluster) : (s.modCluster k f).weirs = s.weirs := rfl
@[simp] theorem State.modCluster_banks (s : State) (k : Nat × Nat × Nat) (f : Cluster → Cluster) : (s.modCluster k f).banks = s.banks := rfl
@[simp] theorem State.modCluster_firings (s : State) (k : Nat × Nat × Nat) (f : Cluster → Cluster) : (s.modCluster k f).firings = s.firings := rfl
@[simp] theorem State.modCluster_inserts (s : State) (k : Nat × Nat × Nat) (f : Cluster → Cluster) : (s.modCluster k f).inserts = s.inserts := rfl
@[simp] theorem State.modCluster_irqs (s : State) (k : Nat × Nat × Nat) (f : Cluster → Cluster) : (s.modCluster k f).irqs = s.irqs := rfl
@[simp] theorem State.modCluster_reply (s : State) (k : Nat × Nat × Nat) (f : Cluster → Cluster) : (s.modCluster k f).reply = s.reply := rfl

/-! ## `poke` -/

@[simp] theorem State.poke_cur (s : State) (a : Nat) (b : Byte) : (s.poke a b).cur = s.cur := rfl
@[simp] theorem State.poke_words (s : State) (a : Nat) (b : Byte) : (s.poke a b).words = s.words := rfl
@[simp] theorem State.poke_agenda (s : State) (a : Nat) (b : Byte) : (s.poke a b).agenda = s.agenda := rfl
@[simp] theorem State.poke_fresh (s : State) (a : Nat) (b : Byte) : (s.poke a b).fresh = s.fresh := rfl
@[simp] theorem State.poke_cycle (s : State) (a : Nat) (b : Byte) : (s.poke a b).cycle = s.cycle := rfl
@[simp] theorem State.poke_nextId (s : State) (a : Nat) (b : Byte) : (s.poke a b).nextId = s.nextId := rfl
@[simp] theorem State.poke_poison (s : State) (a : Nat) (b : Byte) : (s.poke a b).poison = s.poison := rfl
@[simp] theorem State.poke_cores (s : State) (a : Nat) (b : Byte) : (s.poke a b).cores = s.cores := rfl
@[simp] theorem State.poke_phys (s : State) (a : Nat) (b : Byte) : (s.poke a b).phys = s.phys := rfl
@[simp] theorem State.poke_blocks (s : State) (a : Nat) (b : Byte) : (s.poke a b).blocks = s.blocks := rfl
@[simp] theorem State.poke_clusters (s : State) (a : Nat) (b : Byte) : (s.poke a b).clusters = s.clusters := rfl
@[simp] theorem State.poke_parts (s : State) (a : Nat) (b : Byte) : (s.poke a b).parts = s.parts := rfl
@[simp] theorem State.poke_dies (s : State) (a : Nat) (b : Byte) : (s.poke a b).dies = s.dies := rfl
@[simp] theorem State.poke_estates (s : State) (a : Nat) (b : Byte) : (s.poke a b).estates = s.estates := rfl
@[simp] theorem State.poke_msgs (s : State) (a : Nat) (b : Byte) : (s.poke a b).msgs = s.msgs := rfl
@[simp] theorem State.poke_weirs (s : State) (a : Nat) (b : Byte) : (s.poke a b).weirs = s.weirs := rfl
@[simp] theorem State.poke_banks (s : State) (a : Nat) (b : Byte) : (s.poke a b).banks = s.banks := rfl
@[simp] theorem State.poke_firings (s : State) (a : Nat) (b : Byte) : (s.poke a b).firings = s.firings := rfl
@[simp] theorem State.poke_inserts (s : State) (a : Nat) (b : Byte) : (s.poke a b).inserts = s.inserts := rfl
@[simp] theorem State.poke_irqs (s : State) (a : Nat) (b : Byte) : (s.poke a b).irqs = s.irqs := rfl
@[simp] theorem State.poke_reply (s : State) (a : Nat) (b : Byte) : (s.poke a b).reply = s.reply := rfl

/-! ## `enterTrap` -/

@[simp] theorem State.enterTrap_cur (s : State) (t : Level) (c a : Word) (r : Map (BitVec 3) Word) : (s.enterTrap t c a r).cur = s.cur := rfl
@[simp] theorem State.enterTrap_words (s : State) (t : Level) (c a : Word) (r : Map (BitVec 3) Word) : (s.enterTrap t c a r).words = s.words := rfl
@[simp] theorem State.enterTrap_agenda (s : State) (t : Level) (c a : Word) (r : Map (BitVec 3) Word) : (s.enterTrap t c a r).agenda = s.agenda := rfl
@[simp] theorem State.enterTrap_fresh (s : State) (t : Level) (c a : Word) (r : Map (BitVec 3) Word) : (s.enterTrap t c a r).fresh = s.fresh := rfl
@[simp] theorem State.enterTrap_cycle (s : State) (t : Level) (c a : Word) (r : Map (BitVec 3) Word) : (s.enterTrap t c a r).cycle = s.cycle := rfl
@[simp] theorem State.enterTrap_nextId (s : State) (t : Level) (c a : Word) (r : Map (BitVec 3) Word) : (s.enterTrap t c a r).nextId = s.nextId := rfl
@[simp] theorem State.enterTrap_mem (s : State) (t : Level) (c a : Word) (r : Map (BitVec 3) Word) : (s.enterTrap t c a r).mem = s.mem := rfl
@[simp] theorem State.enterTrap_poison (s : State) (t : Level) (c a : Word) (r : Map (BitVec 3) Word) : (s.enterTrap t c a r).poison = s.poison := rfl
@[simp] theorem State.enterTrap_phys (s : State) (t : Level) (c a : Word) (r : Map (BitVec 3) Word) : (s.enterTrap t c a r).phys = s.phys := rfl
@[simp] theorem State.enterTrap_blocks (s : State) (t : Level) (c a : Word) (r : Map (BitVec 3) Word) : (s.enterTrap t c a r).blocks = s.blocks := rfl
@[simp] theorem State.enterTrap_clusters (s : State) (t : Level) (c a : Word) (r : Map (BitVec 3) Word) : (s.enterTrap t c a r).clusters = s.clusters := rfl
@[simp] theorem State.enterTrap_parts (s : State) (t : Level) (c a : Word) (r : Map (BitVec 3) Word) : (s.enterTrap t c a r).parts = s.parts := rfl
@[simp] theorem State.enterTrap_dies (s : State) (t : Level) (c a : Word) (r : Map (BitVec 3) Word) : (s.enterTrap t c a r).dies = s.dies := rfl
@[simp] theorem State.enterTrap_estates (s : State) (t : Level) (c a : Word) (r : Map (BitVec 3) Word) : (s.enterTrap t c a r).estates = s.estates := rfl
@[simp] theorem State.enterTrap_msgs (s : State) (t : Level) (c a : Word) (r : Map (BitVec 3) Word) : (s.enterTrap t c a r).msgs = s.msgs := rfl
@[simp] theorem State.enterTrap_weirs (s : State) (t : Level) (c a : Word) (r : Map (BitVec 3) Word) : (s.enterTrap t c a r).weirs = s.weirs := rfl
@[simp] theorem State.enterTrap_banks (s : State) (t : Level) (c a : Word) (r : Map (BitVec 3) Word) : (s.enterTrap t c a r).banks = s.banks := rfl
@[simp] theorem State.enterTrap_firings (s : State) (t : Level) (c a : Word) (r : Map (BitVec 3) Word) : (s.enterTrap t c a r).firings = s.firings := rfl
@[simp] theorem State.enterTrap_inserts (s : State) (t : Level) (c a : Word) (r : Map (BitVec 3) Word) : (s.enterTrap t c a r).inserts = s.inserts := rfl
@[simp] theorem State.enterTrap_irqs (s : State) (t : Level) (c a : Word) (r : Map (BitVec 3) Word) : (s.enterTrap t c a r).irqs = s.irqs := rfl
@[simp] theorem State.enterTrap_reply (s : State) (t : Level) (c a : Word) (r : Map (BitVec 3) Word) : (s.enterTrap t c a r).reply = s.reply := rfl

/-! ## `trapReturn` -/

@[simp] theorem State.trapReturn_cur (s : State) (n : Bool) : (s.trapReturn n).cur = s.cur := rfl
@[simp] theorem State.trapReturn_words (s : State) (n : Bool) : (s.trapReturn n).words = s.words := rfl
@[simp] theorem State.trapReturn_agenda (s : State) (n : Bool) : (s.trapReturn n).agenda = s.agenda := rfl
@[simp] theorem State.trapReturn_fresh (s : State) (n : Bool) : (s.trapReturn n).fresh = s.fresh := rfl
@[simp] theorem State.trapReturn_cycle (s : State) (n : Bool) : (s.trapReturn n).cycle = s.cycle := rfl
@[simp] theorem State.trapReturn_nextId (s : State) (n : Bool) : (s.trapReturn n).nextId = s.nextId := rfl
@[simp] theorem State.trapReturn_mem (s : State) (n : Bool) : (s.trapReturn n).mem = s.mem := rfl
@[simp] theorem State.trapReturn_poison (s : State) (n : Bool) : (s.trapReturn n).poison = s.poison := rfl
@[simp] theorem State.trapReturn_phys (s : State) (n : Bool) : (s.trapReturn n).phys = s.phys := rfl
@[simp] theorem State.trapReturn_blocks (s : State) (n : Bool) : (s.trapReturn n).blocks = s.blocks := rfl
@[simp] theorem State.trapReturn_clusters (s : State) (n : Bool) : (s.trapReturn n).clusters = s.clusters := rfl
@[simp] theorem State.trapReturn_parts (s : State) (n : Bool) : (s.trapReturn n).parts = s.parts := rfl
@[simp] theorem State.trapReturn_dies (s : State) (n : Bool) : (s.trapReturn n).dies = s.dies := rfl
@[simp] theorem State.trapReturn_estates (s : State) (n : Bool) : (s.trapReturn n).estates = s.estates := rfl
@[simp] theorem State.trapReturn_msgs (s : State) (n : Bool) : (s.trapReturn n).msgs = s.msgs := rfl
@[simp] theorem State.trapReturn_weirs (s : State) (n : Bool) : (s.trapReturn n).weirs = s.weirs := rfl
@[simp] theorem State.trapReturn_banks (s : State) (n : Bool) : (s.trapReturn n).banks = s.banks := rfl
@[simp] theorem State.trapReturn_firings (s : State) (n : Bool) : (s.trapReturn n).firings = s.firings := rfl
@[simp] theorem State.trapReturn_inserts (s : State) (n : Bool) : (s.trapReturn n).inserts = s.inserts := rfl
@[simp] theorem State.trapReturn_irqs (s : State) (n : Bool) : (s.trapReturn n).irqs = s.irqs := rfl
@[simp] theorem State.trapReturn_reply (s : State) (n : Bool) : (s.trapReturn n).reply = s.reply := rfl

/-! ## What an update changes -/

@[simp] theorem State.core_setCore (s : State) (c : CoreId) (k : Core) : (s.setCore c k).core c = k := by
  simp [State.core, State.setCore]

theorem State.core_setCore_ne (s : State) {c d : CoreId} (k : Core) (h : c ≠ d) : (s.setCore c k).core d = s.core d := by
  simp [State.core, State.setCore, Map.get_set_ne _ _ _ h]

@[simp] theorem State.core_modCore (s : State) (c : CoreId) (f : Core → Core) : (s.modCore c f).core c = f (s.core c) :=
  State.core_setCore s c _

theorem State.core_modCore_ne (s : State) {c d : CoreId} (f : Core → Core) (h : c ≠ d) : (s.modCore c f).core d = s.core d :=
  State.core_setCore_ne s _ h

@[simp] theorem Core.ctx_setCtx (k : Core) (n : Nat) (x : Ctx) : (k.setCtx n x).ctx n = x := by
  simp [Core.ctx, Core.setCtx]

theorem Core.ctx_setCtx_ne (k : Core) {n m : Nat} (x : Ctx) (h : n ≠ m) : (k.setCtx n x).ctx m = k.ctx m := by
  simp [Core.ctx, Core.setCtx, Map.get_set_ne _ _ _ h]

@[simp] theorem State.ctx_modCtx (s : State) (c : CoreId) (n : Nat) (f : Ctx → Ctx) : (s.modCtx c n f).ctx c n = f (s.ctx c n) := by
  simp [State.ctx, State.modCtx]

theorem State.ctx_modCtx_ne (s : State) (c : CoreId) {n m : Nat} (f : Ctx → Ctx) (h : n ≠ m) :
    (s.modCtx c n f).ctx c m = s.ctx c m := by
  simp [State.ctx, State.modCtx, Core.ctx_setCtx_ne _ _ h]

theorem State.ctx_modCtx_core_ne (s : State) {c d : CoreId} (n m : Nat) (f : Ctx → Ctx) (h : c ≠ d) :
    (s.modCtx c n f).ctx d m = s.ctx d m := by
  simp [State.ctx, State.modCtx, State.core_modCore_ne s _ h]

@[simp] theorem State.me_modMe (s : State) (f : Ctx → Ctx) : (s.modMe f).me = f s.me := State.ctx_modCtx s _ _ f

theorem State.ctx_modMe_ne (s : State) (f : Ctx → Ctx) (c : CoreId) (n : Nat) (h : (c, n) ≠ s.cur) :
    (s.modMe f).ctx c n = s.ctx c n := by
  unfold State.modMe
  by_cases hc : s.cur.1 = c
  · have : s.cur.2 ≠ n := fun e => h (by rw [← hc, ← e])
    rw [← hc]
    exact State.ctx_modCtx_ne s _ f this
  · exact State.ctx_modCtx_core_ne s _ _ f hc

/-- A change of the context at issue leaves the rest of its core as it was. -/
theorem State.myCore_modMe (s : State) (f : Ctx → Ctx) : (s.modMe f).myCore = s.myCore.setCtx s.cur.2 (f s.me) := by
  simp [State.myCore, State.modMe, State.modCtx, State.me, State.ctx]

@[simp] theorem State.myCore_modMyCore (s : State) (f : Core → Core) : (s.modMyCore f).myCore = f s.myCore :=
  State.core_modCore s _ f

@[simp] theorem State.part_modPart (s : State) (p : Nat) (f : Part → Part) : (s.modPart p f).part p = f (s.part p) := by
  simp [State.part, State.modPart]

theorem State.part_modPart_ne (s : State) {p q : Nat} (f : Part → Part) (h : p ≠ q) : (s.modPart p f).part q = s.part q := by
  simp [State.part, State.modPart, Map.get_set_ne _ _ _ h]

@[simp] theorem State.block_modBlock (s : State) (b : BlockId) (f : Block → Block) : (s.modBlock b f).block b = f (s.block b) := by
  simp [State.block, State.modBlock]

@[simp] theorem State.die_modDie (s : State) (d : Nat × Nat) (f : Die → Die) : (s.modDie d f).die d = f (s.die d) := by
  simp [State.die, State.modDie]

@[simp] theorem State.estate_modEstate (s : State) (e : Nat) (f : Estate → Estate) : (s.modEstate e f).estate e = f (s.estate e) := by
  simp [State.estate, State.modEstate]

@[simp] theorem State.physCore_modPhys (s : State) (p : Nat × Nat × Nat) (f : Phys → Phys) :
    (s.modPhys p f).physCore p = f (s.physCore p) := by
  simp [State.physCore, State.modPhys]

/-! ## The operations that end an instruction -/

@[simp] theorem State.me_writeG (s : State) (r : Reg) (v : Word) : (s.writeG r v).me = s.me.setG r v := State.me_modMe s _
@[simp] theorem State.me_writeV (s : State) (r : Reg) (v : Line) : (s.writeV r v).me = s.me.setV r v := State.me_modMe s _
@[simp] theorem State.me_writeK (s : State) (r : BitVec 3) (v : Word) : (s.writeK r v).me = s.me.setK r v := State.me_modMe s _
@[simp] theorem State.me_setFlags (s : State) (v : Word) : (s.setFlags v).me = { s.me with fflags := s.me.fflags ||| v } :=
  State.me_modMe s _
@[simp] theorem State.me_retire (s : State) (n : Nat) :
    (s.retire n).me = { s.me with pc := s.me.pc + BitVec.ofNat 64 (8 * n), icount := s.me.icount + 1 } := State.me_modMe s _
@[simp] theorem State.me_jump (s : State) (t : Word) : (s.jump t).me = { s.me with pc := t, icount := s.me.icount + 1 } :=
  State.me_modMe s _
@[simp] theorem State.me_wait (s : State) (i : Instr) : (s.wait i).me = { s.me with run := .waiting i, icount := s.me.icount + 1 } :=
  State.me_modMe s _
@[simp] theorem State.me_stall (s : State) : s.stall.me = { s.me with run := .stalled } := State.me_modMe s _

/-- R371: what trap entry does to the context. -/
theorem State.me_enterTrap (s : State) (t : Level) (cause addr : Word) (r : Map (BitVec 3) Word) :
    (s.enterTrap t cause addr r).me.pc = s.vector t ∧ (s.enterTrap t cause addr r).me.level = t
    ∧ (s.enterTrap t cause addr r).me.busy t = true ∧ ((s.enterTrap t cause addr r).me.trap t).pc = s.me.pc
    ∧ ((s.enterTrap t cause addr r).me.trap t).cause = cause ∧ ((s.enterTrap t cause addr r).me.trap t).addr = addr
    ∧ ((s.enterTrap t cause addr r).me.trap t).trec = r := by
  unfold State.enterTrap
  rw [State.me_modMe]
  cases t <;> simp [Ctx.setTrap, Ctx.setBusy, Ctx.busy, Ctx.trap]

/-- Trap entry leaves the registers alone. -/
theorem State.me_enterTrap_regs (s : State) (t : Level) (cause addr : Word) (r : Map (BitVec 3) Word) :
    (s.enterTrap t cause addr r).me.g = s.me.g ∧ (s.enterTrap t cause addr r).me.v = s.me.v
    ∧ (s.enterTrap t cause addr r).me.k = s.me.k ∧ (s.enterTrap t cause addr r).me.fflags = s.me.fflags
    ∧ (s.enterTrap t cause addr r).me.icount = s.me.icount := by
  unfold State.enterTrap
  rw [State.me_modMe]
  cases t <;> simp [Ctx.setTrap, Ctx.setBusy]

end Sys2Proof.Machine
end

