-- ==== Sys2Proof/Laws/Frames.lean ====
section
/-! SUPPORT. What each shared operation at the end of an instruction does, as a frame: cited instead of unfolding. -/

namespace Sys2Proof.Machine

open Sys2Proof.Safety

/-- Two changes of the context at issue are one. -/
theorem State.modMe_modMe (s : State) (f g : Ctx → Ctx) : (s.modMe f).modMe g = s.modMe (g ∘ f) := by
  simp only [State.modMe, State.modCtx, State.modCore, State.setCore, Core.setCtx, State.core, Core.ctx, Map.get_set_same,
    Map.set_set, Function.comp]

/-- A change of the context at issue alone. -/
theorem frame_modMe {w : Writes} {s : State} {f : Ctx → Ctx} (hg : ∀ r, r ∉ w.g → (f s.me).getG r = s.me.getG r)
    (hv : ∀ r, r ∉ w.v → (f s.me).getV r = s.me.getV r) (hk : ∀ r, r ∉ w.k → (f s.me).getK r = s.me.getK r)
    (hf : if w.flags then s.me.fflags &&& (f s.me).fflags = s.me.fflags else (f s.me).fflags = s.me.fflags)
    (ho : ctxRest (f s.me) = ctxRest s.me) : Frame w s (s.modMe f) where
  mem _ := rfl
  gregs r h := by rw [State.me_modMe]; exact hg r h
  vregs r h := by rw [State.me_modMe]; exact hv r h
  kregs r h := by rw [State.me_modMe]; exact hk r h
  flags := by rw [State.me_modMe]; exact hf
  own := by rw [State.me_modMe]; exact ho
  mates n h := State.ctx_modCtx_ne s _ f h.symm
  core := by simp [State.modMe, State.modCtx, coreRest, Core.setCtx]
  cores c h := State.core_modCore_ne s _ h.symm
  rest := rfl

theorem Ctx.setG_getV (x : Ctx) (d r : Reg) (v : Word) : (x.setG d v).getV r = x.getV r := by
  unfold Ctx.setG; split <;> rfl

theorem Ctx.setG_getK (x : Ctx) (d : Reg) (r : BitVec 3) (v : Word) : (x.setG d v).getK r = x.getK r := by
  unfold Ctx.setG; split <;> rfl

theorem Ctx.getG_setG_ne (x : Ctx) {d r : Reg} (v : Word) (h : r ≠ d) : (x.setG d v).getG r = x.getG r := by
  rw [Ctx.getG_setG, if_neg fun e => h e.1]

theorem Ctx.getG_setG_same (x : Ctx) (d : Reg) (v : Word) : (x.setG d v).getG d = if d = 0 then 0 else v := by
  rw [Ctx.getG_setG]
  by_cases h : d = 0
  · rw [if_neg fun e => e.2 h, if_pos h, h, Ctx.getG_zero]
  · rw [if_pos ⟨rfl, h⟩, if_neg h]

theorem Ctx.getK_setK_ne (x : Ctx) {d r : BitVec 3} (v : Word) (h : r ≠ d) : (x.setK d v).getK r = x.getK r := by
  rw [Ctx.getK_setK, if_neg fun e => h e.1]

theorem Ctx.getK_setK_same (x : Ctx) (d : BitVec 3) (v : Word) :
    (x.setK d v).getK d = if d = 0 then BitVec.allOnes 64 else v := by
  rw [Ctx.getK_setK]
  by_cases h : d = 0
  · rw [if_neg fun e => e.2 h, if_pos h, h, Ctx.getK_zero]
  · rw [if_pos ⟨rfl, h⟩, if_neg h]

/-- `putG` as one change of the context. -/
theorem State.putG_eq (s : State) (d : Reg) (v : Word) (n : Nat) :
    s.putG d v n = s.modMe fun x => { x.setG d v with pc := x.pc + BitVec.ofNat 64 (8 * n), icount := x.icount + 1 } := by
  unfold State.putG State.writeG State.retire
  rw [State.modMe_modMe]
  congr 1
  funext x
  simp

/-- An instruction whose meaning is `putG` writes its register, moves on, and changes nothing else. -/
theorem putsG_of_putG {i : Instr} {s : State} {d : Reg} {v w : Word} {n : Nat} (h : exec i s = .next (s.putG d v n))
    (e : v = w) : PutsG i s d w n := by
  subst e
  rw [State.putG_eq] at h
  refine ⟨_, h, ?_, ?_, frame_modMe ?_ ?_ ?_ ?_ ?_, ?_⟩
  · rw [State.me_modMe]
  · rw [State.me_modMe]
  · intro r hr
    exact Ctx.getG_setG_ne s.me v fun e => hr (e ▸ List.mem_cons_self)
  · intro r _; exact Ctx.setG_getV s.me d r v
  · intro r _; exact Ctx.setG_getK s.me d r v
  · exact Ctx.setG_fflags s.me d v
  · unfold ctxRest Ctx.setG; split <;> rfl
  · show gotG _ _ _
    unfold gotG
    rw [State.me_modMe]
    exact Ctx.getG_setG_same s.me d v

theorem and_or_self_word (x y : Word) : x &&& (x ||| y) = x := by
  ext i
  simp only [BitVec.getElem_and, BitVec.getElem_or]
  cases x[i] <;> simp

/-- An instruction that writes g[d], ORs flags and moves on. -/
theorem putsGF_of_write {i : Instr} {s : State} {d : Reg} {v f : Word}
    (h : exec i s = .next (((s.writeG d v).setFlags f).retire 1)) : PutsGF i s d v f := by
  have e : ((s.writeG d v).setFlags f).retire 1 = s.modMe fun x =>
      { x.setG d v with fflags := x.fflags ||| f, pc := x.pc + BitVec.ofNat 64 (8 * 1), icount := x.icount + 1 } := by
    unfold State.writeG State.setFlags State.retire
    rw [State.modMe_modMe, State.modMe_modMe]
    congr 1
    funext x
    simp
  rw [e] at h
  refine ⟨_, h, ?_, ?_, frame_modMe ?_ ?_ ?_ ?_ ?_, ?_, ?_⟩
  · rw [State.me_modMe]
  · rw [State.me_modMe]
  · intro r hr
    exact Ctx.getG_setG_ne s.me v fun e => hr (e ▸ List.mem_cons_self)
  · intro r _; exact Ctx.setG_getV s.me d r v
  · intro r _; exact Ctx.setG_getK s.me d r v
  · exact and_or_self_word _ _
  · unfold ctxRest Ctx.setG; split <;> rfl
  · show gotG _ _ _
    unfold gotG
    rw [State.me_modMe]
    exact Ctx.getG_setG_same s.me d v
  · rw [State.me_modMe]

/-- An instruction that writes v[d], ORs flags and moves on. -/
theorem putsV_of_write {i : Instr} {s : State} {d : Reg} {v : Line} {f : Word}
    (h : exec i s = .next (((s.writeV d v).setFlags f).retire 1)) : PutsV i s d v f := by
  have e : ((s.writeV d v).setFlags f).retire 1 = s.modMe fun x =>
      { x.setV d v with fflags := x.fflags ||| f, pc := x.pc + BitVec.ofNat 64 (8 * 1), icount := x.icount + 1 } := by
    unfold State.writeV State.setFlags State.retire
    rw [State.modMe_modMe, State.modMe_modMe]
    rfl
  rw [e] at h
  refine ⟨_, h, ?_, ?_, frame_modMe ?_ ?_ ?_ ?_ ?_, ?_, ?_⟩
  · rw [State.me_modMe]
  · rw [State.me_modMe]
  · intro r _; rfl
  · intro r hr
    have hd : d ≠ r := fun e => hr (e ▸ List.mem_cons_self)
    exact (Ctx.getV_setV s.me d r v).trans (if_neg hd)
  · intro r _; rfl
  · exact and_or_self_word _ _
  · rfl
  · rw [State.me_modMe]
    exact (Ctx.getV_setV s.me d d v).trans (if_pos rfl)
  · rw [State.me_modMe]

/-- An instruction that writes k[d], ORs flags and moves on. -/
theorem putsK_of_write {i : Instr} {s : State} {d : BitVec 3} {x f : Word}
    (h : exec i s = .next (((s.writeK d x).setFlags f).retire 1)) : PutsK i s d x f := by
  have e : ((s.writeK d x).setFlags f).retire 1 = s.modMe fun y =>
      { y.setK d x with fflags := y.fflags ||| f, pc := y.pc + BitVec.ofNat 64 (8 * 1), icount := y.icount + 1 } := by
    unfold State.writeK State.setFlags State.retire
    rw [State.modMe_modMe, State.modMe_modMe]
    congr 1
    funext y
    simp only [Function.comp]
    unfold Ctx.setK
    split <;> rfl
  rw [e] at h
  refine ⟨_, h, ?_, ?_, frame_modMe ?_ ?_ ?_ ?_ ?_, ?_, ?_⟩
  · rw [State.me_modMe]
  · rw [State.me_modMe]
  · intro r _; unfold Ctx.setK; split <;> rfl
  · intro r _; unfold Ctx.setK; split <;> rfl
  · intro r hr
    exact Ctx.getK_setK_ne s.me x fun e => hr (e ▸ List.mem_cons_self)
  · exact and_or_self_word _ _
  · unfold ctxRest Ctx.setK; split <;> rfl
  · show gotK _ _ _
    unfold gotK
    rw [State.me_modMe]
    exact Ctx.getK_setK_same s.me d x
  · rw [State.me_modMe]

/-- No flags are no change of the flags. -/
theorem State.setFlags_zero (s : State) : s.setFlags 0 = s.modMe id := by
  unfold State.setFlags
  congr 1
  funext x
  simp

theorem putsK_of_writeK {i : Instr} {s : State} {d : BitVec 3} {x : Word}
    (h : exec i s = .next ((s.writeK d x).retire 1)) : PutsK i s d x := by
  apply putsK_of_write
  rw [h, State.setFlags_zero]
  unfold State.writeK State.retire
  rw [State.modMe_modMe, State.modMe_modMe, State.modMe_modMe]
  rfl

end Sys2Proof.Machine
end

