-- ==== Sys2Proof/Tests/Slice0.lean ====
section
/-! SUPPORT. Tests of the model and witnesses of the statements. A decode test takes its word from the spec's own encoded
example, or writes it from the format tables; a step test takes its expected value from the rule its docstring names; a witness
shows that the hypotheses of a statement are met together. -/

namespace Sys2Proof.Tests

open Sys2Proof.Machine Sys2Proof.Safety

set_option Elab.async false

/-- The words decode to the instruction, with nothing left over. -/
abbrev ReadsAs (ws : List Word) (i : Instr) : Prop := decode (wordBytes ws) = .ok (i, [])

/-- Each instruction is refused by the well-formedness check. -/
abbrev IllFormed (is : List Instr) : Prop := ∀ i ∈ is, WellFormed i = false

/-! ## An ill-formed instruction for each check -/

/-- R111, R112: a float type, a modifier, a scale, a rounding code, a clamp or an unread field that the instruction does not
accept, condition `al`. -/
theorem test_ill_formed_integer : IllFormed [.add { ty := .f32 }, .add { ma := 1 }, .add { scale := 1 }, .add { rnd := 1 },
    .mulh { clamp := true }, .add { c := 1 }, .add { k := 1 }, .clz { b := 1 }, .cset .al {}, .sel { ty := .n64 }, .bext { ty := .i32 },
    .bins { ty := .i32 }] := by decide

/-- R114, R115: a type that is not an integer, a shift by 64, a source the instruction does not read. -/
theorem test_ill_formed_immediate : IllFormed [.addi { ty := .f64 }, .shli { imm := 64 }, .shri { imm := 64 }, .sari { imm := 64 },
    .cseti .al {}, .movi { a := 1 }, .movl { ty := .i32 }, .movl { a := 1 }, .addl { ty := .i32 }] := by decide

/-- R95, R117 to R121: `b.al` with registers, type other than 0x3, registers that must be zero. -/
theorem test_ill_formed_control : IllFormed [.b .al .none 1 0 0, .jr { d := 1 }, .jr { ty := .n64 }, .callr { b := 1 }, .hstop { a := 1 },
    .fdone { d := 1 }, .yield { d := 1 }, .hstart { c := 1 }] := by decide

/-- R164 to R170: types, conditions, modifiers and rounding codes (5 to 7: log 18). -/
theorem test_ill_formed_float : IllFormed [.fadd { ty := .i64 }, .fadd { ty := .f32, rnd := 5 }, .fadd { ty := .f32, c := 1 },
    .fadd { ty := .f32, mc := 1 }, .fsqrt { ty := .f32, b := 1 }, .fmin { ty := .f32, clamp := true }, .fcset .ltu { ty := .f32 },
    .fcset .al { ty := .f32 }, .fcvt .i32 { ty := .i64 }, .fcvt .p { ty := .f32 }, .frcp { ty := .f64 }, .frcp { ty := .f32, k := 1 },
    .fclass { ty := .f32, ma := 1 }, .fround { ty := .f32, scale := 1 }] := by decide

/-- R171 to R176: types, masks beyond k7, the conversion part. -/
theorem test_ill_formed_vector : IllFormed [.vadd { ty := .p }, .vmulh { ty := .f32 }, .vdiv { ty := .i32 }, .vmin { clamp := true },
    .vand { ty := .f32 }, .vshl { scale := 1 }, .vshr { clamp := true }, .vcmp .lt { d := 8 }, .vcmp .al {}, .vcmp .ltu { ty := .f32 },
    .vcvt 2 .f16 { ty := .f32 }, .vcvt 1 .f32 { ty := .f32 }, .vrcp { ty := .f8 }, .vbcst { b := 1 }, .vmovi { a := 1 }] := by decide

/-- R177 to R183: lane counts, table and plane instructions, masks. -/
theorem test_ill_formed_lanes_and_masks : IllFormed [.vshuf { ty := .c4 }, .vperm 16 { ty := .f32 }, .vredAnd { ty := .f32 },
    .vredAdd { b := 1 }, .vlut true { ty := .i8 }, .ctld { ty := .n8 }, .ctld { d := 1 }, .vpack { ty := .i8 }, .vunpk true 1 { ty := .i8 },
    .vunpk true 9 { ty := .i8 }, .vunpk true 4 { ty := .i16 }, .vext { k := 1 }, .kand { d := 8 }, .knot { b := 1 },
    .kmovGFromK { a := 8 }, .kpopc { a := 8 }, .kseti { a := 1 }, .kseti { d := 8 }, .vmov { b := 1 }] := by decide

/-- R93, R255 to R277: orders, scopes, streams, shapes and types of memory accesses. -/
theorem test_ill_formed_memory : IllFormed [.ld { order := .rel, scope := .fld }, .ld { order := .acq }, .ld { stream := 1 }, .ld { shape := 1 },
    .ld { ty := 14 }, .st { order := .acq, scope := .fld }, .vld { order := .rlx, scope := .fld, shape := 1 }, .vld { shape := 0 },
    .vld { shape := 2, data := 1 }, .stm { scale := 2 }, .vstm { shape := 1, scale := 2 }, .vgat { shape := 2 }, .vgat { shape := 1, ty := 0 },
    .vsct { shape := 1, order := .rel, scope := .fld }, .pref { data := 1 }, .pref { scope := .core }, .sclose { ty := 3 },
    .sclose { ty := 0, base := 1 }] := by decide

/-- R273, R274: type, scale and data fields of atomics. -/
theorem test_ill_formed_atomics : IllFormed [.amoAdd { ty := 0 }, .amoAnd { ty := 8 }, .amoAdd { ty := 7, scale := 1 },
    .amoAdd { ty := 7, shape := 1 }, .redAdd { ty := 7, data := 1 }, .redAnd { ty := 8 }, .redAdd { ty := 7, order := .acq, scope := .fld }] := by
  decide

/-- R124 to R128, R271, R310 to R327: mailbox and event instructions. -/
theorem test_ill_formed_events : IllFormed [.post { ty := .n64 }, .xget { b := 1 }, .rld { ty := 7 }, .rld { shape := 2, data := 1 },
    .rld { shape := 1, order := .rlx, scope := .fld }, .ins { ty := 2 }, .ins { ty := 0, data := 1 }, .ins { ty := 0, scope := .core },
    .insGrant { ty := 3 }, .probe { c := 1 }, .take { c := 1 }, .rset { k := 1 }, .rget { c := 1 }] := by decide

/-- R96, R97, R333: word 1 of format E, registers and command bits of copies. -/
theorem test_ill_formed_copies : IllFormed [.cpy { w := { wIdx := 1 } }, .cpy { w := { sIdx := 1 } }, .cpy { w := { fr := true } },
    .cpy { w := { scope := .fld } }, .cpy { c := 1 }, .cpy { cmd := 1 }, .cpy { w := { cmd := 0x10000 } }, .cpySlot { cmd := 64 },
    .cpySlot { d := 1 }, .cpySlotLink {} { w := { wThr := 1 } } true, .cnop { a := 1 }] := by decide

/-- R199, R200: claim ranges stay within o63; commands accept the word-1 fields their table names. -/
theorem test_ill_formed_matrix : IllFormed [.mclaim { cmd := 0x1000 }, .mclaim { cmd := 63 ||| 64 }, .mclaim { d := 1 },
    .mclaim { w := { wThr := 1 } }, .mfmt { cmd := 1 }, .mzero { cmd := 8 }, .mzero { w := { fr := true, scope := .blk } },
    .mmac { cmd := 0x8000 }, .mmac { w := { fa := true, scope := .blk } }, .macc { c := 1 }, .macc { cmd := 8 }, .mst { b := 1 },
    .mst { w := { cmd := 1 } }] := by decide

/-- R100, R345, R132, R102: semaphores and barriers, unassigned special registers, the deferred class. -/
theorem test_ill_formed_special : IllFormed [.swait { d := 1 }, .swait { order := .rel, scope := .blk }, .swait { scope := .blk }, .ssig {},
    .stry { order := .rel, scope := .blk }, .smrd { count := 1 }, .smset { count := 1 }, .bar true { idx := 8 }, .bar false { idx := 16 },
    .barcfg true { count := 256 }, .barcfg false { count := 12 }, .barcfg false {}, .wstill { idx := 1 }, .sget 0 0x013, .sset 0x013 0,
    .sset 0x012 0, .deferredEncoding 0] := by decide

/-! ## Words written out from the encodings -/

/-- `add g5, g5, g6`; `add.i32 g5, g5, g6`; `add.n32 g13, g21, g23`; `addi g5, g6, -3`; `bext.n64 g10, g10, g5`; `cset.ltu
g5, g6, g7`; `cseti.geu g5, g13, 2048`; `ctz g6, g5`. -/
theorem test_decode_integer_1 :
    ReadsAs [0x0029_4C00_6000_0000]
        (.add { d := 5, a := 5, b := 6 })
    ∧ ReadsAs [0x0029_4C00_4000_0000]
        (.add { d := 5, a := 5, b := 6, ty := .i32 })
    ∧ ReadsAs [0x006D_6E00_C000_0000]
        (.add { d := 13, a := 21, b := 23, ty := .n32 })
    ∧ ReadsAs [0x0A29_8003_FFFF_FFFD]
        (.addi { d := 5, a := 6, imm := 0xfffffffd })
    ∧ ReadsAs [0x0852_8A00_E000_0000]
        (.bext { d := 10, a := 10, b := 5, ty := .n64 })
    ∧ ReadsAs [0x0629_8E00_6000_0500]
        (.cset .ltu { d := 5, a := 6, b := 7 })
    ∧ ReadsAs [0x0D2B_4063_0000_0800]
        (.cseti .geu { d := 5, a := 13, imm := 2048 })
    ∧ ReadsAs [0x0931_4000_6000_0100]
        (.ctz { d := 6, a := 5 }) := by
  exact ⟨rfl, rfl, rfl, rfl, rfl, rfl, rfl, rfl⟩

/-- `maxu g11, g11, g12`; `movl g5, (0x4000 << 19) + 0x4_0000`; `movl g7, 0xFC00_0000_0007_F9C0`; `sub g5, g6, g7`. -/
theorem test_decode_integer_2 :
    ReadsAs [0x055A_D800_6000_0300]
        (.maxu { d := 11, a := 11, b := 12 })
    ∧ ReadsAs [0x0F28_0003_0000_0000, 0x0000_0002_0004_0000]
        (.movl { d := 5, imm := 0x200040000 })
    ∧ ReadsAs [0x0F38_0003_0000_0000, 0xFC00_0000_0007_F9C0]
        (.movl { d := 7, imm := 0xfc0000000007f9c0 })
    ∧ ReadsAs [0x0029_8E00_6000_0100]
        (.sub { d := 5, a := 6, b := 7 }) := by
  exact ⟨rfl, rfl, rfl, rfl⟩

/-- `b.ne g15, g0, loop`; `fdone`; `hstart g5, g6, g7`. -/
theorem test_decode_control :
    ReadsAs [0x1078_08FF_FFFF_FFF5]
        (.b .ne .none 15 0 0xfffffffff5)
    ∧ ReadsAs [0x1500_0000_6000_0000]
        (.fdone {})
    ∧ ReadsAs [0x1329_8E00_6000_0000]
        (.hstart { d := 5, a := 6, b := 7 }) := by
  exact ⟨rfl, rfl, rfl⟩

/-- `fadd.f32.rz g5:sat:d2, -g6, !|g7!|`; `fcvt.i32.f64.rz g5, g6`. -/
theorem test_decode_float :
    ReadsAs [0x2029_8E01_2C7D_0000]
        (.fadd { d := 5, a := 6, b := 7, ty := .f32, ma := 1, mb := 2, clamp := true, scale := 15, rnd := 2 })
    ∧ ReadsAs [0x2729_8000_4001_0800]
        (.fcvt .f64 { d := 5, a := 6, ty := .i32, rnd := 2 }) := by
  exact ⟨rfl, rfl⟩

/-- `vadd.f32 v1:k1, v2, v3`; `vfma.bf16 v1, v2, v3, v4`; `vcmp.lt.i8 k1, v2, v3`. -/
theorem test_decode_vector :
    ReadsAs [0x3008_8603_2000_0000]
        (.vadd { d := 1, a := 2, b := 3, k := 1, ty := .f32 })
    ∧ ReadsAs [0x3208_8641_6000_0000]
        (.vfma { d := 1, a := 2, b := 3, c := 4, ty := .bf16 })
    ∧ ReadsAs [0x3808_8600_0000_0300]
        (.vcmp .lt { d := 1, a := 2, b := 3, ty := .i8 }) := by
  exact ⟨rfl, rfl, rfl⟩

/-- `kseti.f32 k3, 13`; `vshuf.n8 v5, v6, v7, v8`; `vred.max.i16 v5, v6`; `kandn k1, k2, k3`. -/
theorem test_decode_lanes_and_masks :
    ReadsAs [0x4B18_0009_0000_000D]
        (.kseti { d := 3, ty := .f32, imm := 13 })
    ∧ ReadsAs [0x4029_8E80_8000_0000]
        (.vshuf { d := 5, a := 6, b := 7, c := 8, ty := .n8 })
    ∧ ReadsAs [0x4329_8000_2000_0200]
        (.vredMax { d := 5, a := 6, ty := .i16 })
    ∧ ReadsAs [0x4908_8600_6000_0300]
        (.kandn { d := 1, a := 2, b := 3 }) := by
  exact ⟨rfl, rfl, rfl, rfl⟩

/-- `ld.acq.blk.n64 g5, [g14]`; `ld.acq.dom.n64 g5, [g10+0x1000]`; `ld.acq.fld.n64 g7, [g10]`; `ld.n32 g11,
[g20+g9*4+0x100]`; `ld.n64 g12, [g10+0x1FF8]`; `ld.n64 g8, [g10+g7+0x2000]`; `ld.rlx.blk.n64 g5, [g14]`; `sclose.s2`. -/
theorem test_decode_memory_1 :
    ReadsAs [0x502B_8050_0700_0000]
        (.ld { data := 5, base := 14, order := .acq, scope := .blk, ty := 7 })
    ∧ ReadsAs [0x502A_8068_0700_1000]
        (.ld { data := 5, base := 10, order := .acq, scope := .dom, ty := 7, off := 0x1000 })
    ∧ ReadsAs [0x503A_8058_0700_0000]
        (.ld { data := 7, base := 10, order := .acq, scope := .fld, ty := 7 })
    ∧ ReadsAs [0x505D_1200_4600_0100]
        (.ld { data := 11, base := 20, index := 9, scale := 1, ty := 6, off := 256 })
    ∧ ReadsAs [0x5062_8000_0700_1FF8]
        (.ld { data := 12, base := 10, ty := 7, off := 0x1ff8 })
    ∧ ReadsAs [0x5042_8E00_0700_2000]
        (.ld { data := 8, base := 10, index := 7, ty := 7, off := 0x2000 })
    ∧ ReadsAs [0x502B_8110_0700_0000]
        (.ld { data := 5, base := 14, order := .rlx, scope := .blk, ty := 7 })
    ∧ ReadsAs [0x5900_0002_0000_0000]
        (.sclose { stream := 2, ty := 0 }) := by
  exact ⟨rfl, rfl, rfl, rfl, rfl, rfl, rfl, rfl⟩

/-- `st.n64 g13, [g14]`; `st.rel.blk.n64 g7, [g14]`; `st.rel.dom.s1.n64 g13, [g12+0x1000]`; `st.rel.fld.s2 g6, [g10]`;
`st.s1.n64 g6, [g12+g7+0x2000]`; `stm.dies.rel.fld.s1.n64 g5, [g9], g8`. -/
theorem test_decode_memory_2 :
    ReadsAs [0x516B_8000_0700_0000]
        (.st { data := 13, base := 14, ty := 7 })
    ∧ ReadsAs [0x513B_8090_0700_0000]
        (.st { data := 7, base := 14, order := .rel, scope := .blk, ty := 7 })
    ∧ ReadsAs [0x516B_00A9_0700_1000]
        (.st { data := 13, base := 12, order := .rel, scope := .dom, stream := 1, ty := 7, off := 0x1000 })
    ∧ ReadsAs [0x5132_809A_0700_0000]
        (.st { data := 6, base := 10, order := .rel, scope := .fld, stream := 2, ty := 7 })
    ∧ ReadsAs [0x5133_0E01_0700_2000]
        (.st { data := 6, base := 12, index := 7, stream := 1, ty := 7, off := 0x2000 })
    ∧ ReadsAs [0x542A_5099_0700_0000]
        (.stm { data := 5, base := 9, index := 8, order := .rel, scope := .fld, stream := 1, ty := 7 }) := by
  exact ⟨rfl, rfl, rfl, rfl, rfl, rfl⟩

/-- `amo.add.rel.fld.n64 g5, [g9], g7`; `amo.add.rlx.blk.n64 g5, [g14], g6`; `amo.cas.acqrel.dom.n64 g5, [g9+8], g7`;
`red.add.fld.i64 [g9], g5`. -/
theorem test_decode_atomic :
    ReadsAs [0x602A_4E98_0700_0000]
        (.amoAdd { data := 5, base := 9, index := 7, order := .rel, scope := .fld, ty := 7 })
    ∧ ReadsAs [0x602B_8D10_0700_0000]
        (.amoAdd { data := 5, base := 14, index := 6, order := .rlx, scope := .blk, ty := 7 })
    ∧ ReadsAs [0x672A_4EE8_0700_0008]
        (.amoCas { data := 5, base := 9, index := 7, order := .acqrel, scope := .dom, ty := 7, off := 8 })
    ∧ ReadsAs [0x6802_4A18_0300_0000]
        (.redAdd { base := 9, index := 5, scope := .fld }) := by
  exact ⟨rfl, rfl, rfl, rfl⟩

/-- `post g19, x0, g13`; `post g19, x1, g17`; `post g8, x7, g5`; `rld.8 x4, [g9]`. -/
theorem test_decode_mailbox :
    ReadsAs [0x7004_DA00_6000_0000]
        (.post { a := 19, b := 13 })
    ∧ ReadsAs [0x700C_E200_6000_0000]
        (.post { d := 1, a := 19, b := 17 })
    ∧ ReadsAs [0x703A_0A00_6000_0000]
        (.post { d := 7, a := 8, b := 5 })
    ∧ ReadsAs [0x7422_4000_0300_0000]
        (.rld { data := 4, base := 9 }) := by
  exact ⟨rfl, rfl, rfl, rfl⟩

/-- `ins [g7]`; `ins.grant g5, [g7]`; `ins.keep [g7+64]`; `ins.keep [g7]`; `probe g17, g16, g8, g18`; `probe g5, g10, g11,
g12`; `probe g5, g10, g11`; `rget g5, g6, g7`. -/
theorem test_decode_events_1 :
    ReadsAs [0x8001_C000_0000_0000]
        (.ins { base := 7, ty := 0 })
    ∧ ReadsAs [0x8129_C000_0000_0000]
        (.insGrant { data := 5, base := 7, ty := 0 })
    ∧ ReadsAs [0x8001_C000_0100_0040]
        (.ins { base := 7, ty := 1, off := 64 })
    ∧ ReadsAs [0x8001_C000_0100_0000]
        (.ins { base := 7, ty := 1 })
    ∧ ReadsAs [0x828C_1120_6000_0000]
        (.probe { d := 17, a := 16, b := 8, c := 18 })
    ∧ ReadsAs [0x822A_96C0_6000_0000]
        (.probe { d := 5, a := 10, b := 11, c := 12 })
    ∧ ReadsAs [0x822A_9600_6000_0000]
        (.probe { d := 5, a := 10, b := 11 })
    ∧ ReadsAs [0x8529_8E00_6000_0000]
        (.rget { d := 5, a := 6, b := 7 }) := by
  exact ⟨rfl, rfl, rfl, rfl, rfl, rfl, rfl, rfl⟩

/-- `rset g5, g6, g7`; `take [g12], g10, g11`; `take [g7], g16, g8`. -/
theorem test_decode_events_2 :
    ReadsAs [0x8429_8E00_6000_0000]
        (.rset { d := 5, a := 6, b := 7 })
    ∧ ReadsAs [0x8362_9600_6000_0000]
        (.take { d := 12, a := 10, b := 11 })
    ∧ ReadsAs [0x833C_1000_6000_0000]
        (.take { d := 7, a := 16, b := 8 }) := by
  exact ⟨rfl, rfl, rfl⟩

/-- `cnop wait sm5>=2 sig sm6+1`; `cpy.ar.core [g10], [g12], g14 wait sm3>=1 sig sm1+1`; `cpy.fill [g10], g5, g14 status
0x7_FC80`; `cpy.slot o0, [g10]`; `cpy.slot o1, [g11] link mmac.set a0, o0, o1`; `cpy.slot o5, [g13], g15 sig sm6+1 link
mmac a0, o4, o5 sig sm7+1`; `cpyt.r.fld [g10], [g12], g14, g15 sig sm2+1`. -/
theorem test_decode_copy :
    ReadsAs [0x9700_0000_0000_0000, 0x0502_0601_0000_0000]
        (.cnop { w := { wIdx := 5, wThr := 2, sIdx := 6, sInc := 1 } })
    ∧ ReadsAs [0x9053_1C00_0000_0000, 0x0301_0101_C400_0000]
        (.cpy { d := 10, a := 12, b := 14, w := { wIdx := 3, wThr := 1, sIdx := 1, sInc := 1, fa := true, fr := true, scope := .core } })
    ∧ ReadsAs [0x9651_5C00_0000_0000, 0x0000_0000_0000_FFC8]
        (.cpyFill { d := 10, a := 5, b := 14, w := { cmd := 0xffc8 } })
    ∧ ReadsAs [0x9202_8000_0000_0000, 0x0000_0000_0000_0000]
        (.cpySlot { a := 10 })
    ∧ ReadsAs [0x9202_C000_0200_0001, 0x0000_0000_0000_0000, 0xA400_0000_0400_0200, 0x0000_0000_0000_0000]
        (.cpySlotLink { a := 11, cmd := 1 } { cmd := 512 } true)
    ∧ ReadsAs [0x9203_5E00_0200_0005, 0x0000_0601_0000_0000, 0xA400_0000_0000_0A20, 0x0000_0701_0000_0000]
        (.cpySlotLink { a := 13, b := 15, cmd := 5, w := { sIdx := 6, sInc := 1 } } { cmd := 2592, w := { sIdx := 7, sInc := 1 } } false)
    ∧ ReadsAs [0x9153_1CF0_0000_0000, 0x0000_0201_4C00_0000]
        (.cpyt { d := 10, a := 12, b := 14, c := 15, w := { sIdx := 2, sInc := 1, fr := true, scope := .fld } }) := by
  exact ⟨rfl, rfl, rfl, rfl, rfl, rfl, rfl⟩

/-- `macc v2, g6, a0, g8`; `mclaim o0, 2`; `mclaim o4, 2`; `mclaim.shtry g5, o12`; `mfmt [g7]`; `mmac a0, o4, o5 sig sm7+1`;
`mmac.set.r.blk a3, o8, o9 wait sm2>=1 sig sm4+1`; `mst [g13], a0 sig sm8+1`. -/
theorem test_decode_matrix_1 :
    ReadsAs [0xA511_9000_0000_0000, 0x0000_0000_0000_0000]
        (.macc { d := 2, a := 6, b := 8 })
    ∧ ReadsAs [0xA000_0000_0000_0040, 0x0000_0000_0000_0000]
        (.mclaim { cmd := 64 })
    ∧ ReadsAs [0xA000_0000_0000_0044, 0x0000_0000_0000_0000]
        (.mclaim { cmd := 68 })
    ∧ ReadsAs [0xA028_0000_0C00_000C, 0x0000_0000_0000_0000]
        (.mclaimShtry { d := 5, cmd := 12 })
    ∧ ReadsAs [0xA238_0000_0000_0000, 0x0000_0000_0000_0000]
        (.mfmt { d := 7 })
    ∧ ReadsAs [0xA400_0000_0000_0A20, 0x0000_0701_0000_0000]
        (.mmac { cmd := 2592, w := { sIdx := 7, sInc := 1 } })
    ∧ ReadsAs [0xA400_0000_0400_1243, 0x0201_0401_4800_0000]
        (.mmacSet { cmd := 0x1243, w := { wIdx := 2, wThr := 1, sIdx := 4, sInc := 1, fr := true, scope := .blk } })
    ∧ ReadsAs [0xA668_0000_0000_0000, 0x0000_0801_0000_0000]
        (.mst { d := 13, w := { sIdx := 8, sInc := 1 } }) := by
  exact ⟨rfl, rfl, rfl, rfl, rfl, rfl, rfl, rfl⟩

/-- `mst.ro.fld [g9], a0, g10 sig sm7+1`; `mzero a0`. -/
theorem test_decode_matrix_2 :
    ReadsAs [0xA64A_8000_0000_0000, 0x0000_0701_6C00_0000]
        (.mst { d := 9, a := 10, w := { sIdx := 7, sInc := 1, fr := true, fo := true, scope := .fld } })
    ∧ ReadsAs [0xA300_0000_0000_0000, 0x0000_0000_0000_0000]
        (.mzero {}) := by
  exact ⟨rfl, rfl⟩

/-- `bar.blk 3`; `bar.fld 2`; `barcfg.blk g5, 1, g6, 1`; `smrd g6, sm9`; `smset sm9, g7`; `ssig.rel.core sm3+1`;
`stry.acq.blk g5, sm9>=2`; `swait.acq.core sm1>=1`. -/
theorem test_decode_semaphore :
    ReadsAs [0xB500_00C0_0000_0000]
        (.bar false { idx := 3 })
    ∧ ReadsAs [0xB500_0080_0000_0040]
        (.bar true { idx := 2 })
    ∧ ReadsAs [0xB629_8040_0001_0000]
        (.barcfg false { d := 5, a := 6, idx := 1, count := 1 })
    ∧ ReadsAs [0xB330_0240_0000_0000]
        (.smrd { d := 6, idx := 9 })
    ∧ ReadsAs [0xB401_C240_0000_0000]
        (.smset { a := 7, idx := 9 })
    ∧ ReadsAs [0xB100_00CA_0001_0000]
        (.ssig { idx := 3, scope := .core, order := .rel, count := 1 })
    ∧ ReadsAs [0xB228_0251_0002_0000]
        (.stry { d := 5, idx := 9, scope := .blk, order := .acq, count := 2 })
    ∧ ReadsAs [0xB000_0049_0001_0000]
        (.swait { idx := 1, scope := .core, order := .acq, count := 1 }) := by
  exact ⟨rfl, rfl, rfl, rfl, rfl, rfl, rfl, rfl⟩

/-- `brk`; `gstop g5`; `gstop.go g5`; `pgdone g7, g5, g6`; `sget g5, xpres`; `sget g7, fabstat`; `sget g8, ctxno`; `sset
cwgo, g5`. -/
theorem test_decode_special_1 :
    ReadsAs [0xC700_0000_6000_0000]
        (.brk)
    ∧ ReadsAs [0xC628_0000_6000_0000]
        (.gstop 5)
    ∧ ReadsAs [0xC628_0000_6000_0100]
        (.gstopGo 5)
    ∧ ReadsAs [0xC539_4C00_6000_0000]
        (.pgdone 7 5 6)
    ∧ ReadsAs [0xC028_0003_0000_0009]
        (.sget 5 9)
    ∧ ReadsAs [0xC038_0003_0000_0501]
        (.sget 7 1281)
    ∧ ReadsAs [0xC040_0003_0000_0000]
        (.sget 8 0)
    ∧ ReadsAs [0xC101_4003_0000_0536]
        (.cwgo 5) := by
  exact ⟨rfl, rfl, rfl, rfl, rfl, rfl, rfl, rfl⟩

/-- `sset fabcmd, g6`; `sset nbpost1, g3`; `sset nbpost1, g5`; `sset preempt, g5`; `tlbi.page g5, g6`. -/
theorem test_decode_special_2 :
    ReadsAs [0xC101_8003_0000_0500]
        (.sset 1280 6)
    ∧ ReadsAs [0xC100_C003_0000_0531]
        (.nbpost 1 3)
    ∧ ReadsAs [0xC101_4003_0000_0531]
        (.nbpost 1 5)
    ∧ ReadsAs [0xC101_4003_0000_0F11]
        (.preempt 5)
    ∧ ReadsAs [0xC401_4C00_6000_0100]
        (.tlbiPage 5 6) := by
  exact ⟨rfl, rfl, rfl, rfl, rfl⟩
/-! ## One step of an instruction -/

/-- The boot master's control context with some registers. -/
def boot (g : Map Reg Word) (v : Map Reg Line := []) (k : Map (BitVec 3) Word := []) : State :=
  State.reset.modMe fun x => { x with g := g, v := v, k := k }

/-- What the instruction leaves, seen through `f`. -/
def after {α : Type} (i : Instr) (s : State) (f : State → α) : Option α :=
  match exec i s with
  | .next t => some (f t)
  | _ => none

/-- Partition 1: its record (PID, ASID 1, active, field 0 valid on die 0 with 16 MiB at base 0, one bank, capacity 1). -/
def rec1 : Record := BitVec.ofNat 1024 (resetRecord.toNat + 1 + 65536 + 2 ^ 31 + 2 ^ (416 + 17) * 1024 + 2 ^ (416 + 37))

def blk1 : BlockId := { pid := 1, estate := 0, field := 0, vblock := 0 }

/-- A machine with partition 1: one block, on cluster 0, with no context running; its core 0 at issue in context n. -/
def lab (n : Nat := 0) (x : Ctx := {}) : State :=
  { State.reset with
    cur := (.virt 1 0, n)
    clusters := [((0, 0, 0), { owner := some 1 })]
    blocks := [(blk1, { residence := .resident (0, 0, 0), blank := false })]
    parts := [(1, { record := [(0, rec1)], banks := [(0, 0, 0)], bvmode := 0, svec := 0x8000 })]
    cores := [(.virt 1 0, { ctxs := [(n, x)] })] }

/-- An address of the own window. -/
def own (off : Nat) : Word := BitVec.ofNat 64 (0xFC * 2 ^ 56 + off)

/-- The bytes of an address of the core at issue's scratchpad. -/
def stored (off n : Nat) (t : State) : Nat := t.peekNat (scratchLoc t.cur.1 off) n

/-- R112: 2^31 − 1 + 1 wraps in i32 and is sign-extended; under the clamp bit it stays at the largest number. -/
theorem test_add : after (.add { d := 5, a := 6, b := 7, ty := .i32 }) (boot [(6, 0x7FFFFFFF), (7, 1)]) (·.readG 5) = some 0xFFFFFFFF80000000
    ∧ after (.add { d := 5, a := 6, b := 7, ty := .i32, clamp := true }) (boot [(6, 0x7FFFFFFF), (7, 1)]) (·.readG 5) = some 0x7FFFFFFF := by
  decide

/-- R112: 0 − 1 in n32 is zero-extended; g0 discards its write. -/
theorem test_sub : after (.sub { d := 5, a := 6, b := 7, ty := .n32 }) (boot [(7, 1)]) (·.readG 5) = some 0xFFFFFFFF
    ∧ after (.sub { d := 0, a := 6, b := 7 }) (boot [(7, 1)]) (·.readG 0) = some 0 := by decide

/-- R112: the high half of −1 times 1 is −1; of 2^64 − 1 times 2, 1. -/
theorem test_mulh : after (.mulh { d := 5, a := 6, b := 7 }) (boot [(6, 0xFFFFFFFFFFFFFFFF), (7, 1)]) (·.readG 5) = some 0xFFFFFFFFFFFFFFFF
    ∧ after (.mulhu { d := 5, a := 6, b := 7 }) (boot [(6, 0xFFFFFFFFFFFFFFFF), (7, 2)]) (·.readG 5) = some 1 := by decide

/-- R113: a zero divisor gives all ones and leaves the dividend; the most negative number by −1 gives itself. -/
theorem test_div : after (.div { d := 5, a := 6, b := 7 }) (boot [(6, 9)]) (·.readG 5) = some 0xFFFFFFFFFFFFFFFF
    ∧ after (.div { d := 5, a := 6, b := 7, ty := .i32 }) (boot [(6, 0x80000000), (7, 0xFFFFFFFF)]) (·.readG 5) = some 0xFFFFFFFF80000000 := by
  decide

/-- R111, R113: under the clamp bit 255 by 2 in n8 is 127, both read as U(). -/
theorem test_div_clamped : after (.div { d := 5, a := 6, b := 7, ty := .n8, clamp := true }) (boot [(6, 0xFF), (7, 2)]) (·.readG 5) = some 127 := by
  decide

/-- R113: −7 by 2 leaves −1; a zero divisor leaves the dividend. -/
theorem test_rem : after (.rem { d := 5, a := 6, b := 7 }) (boot [(6, 0xFFFFFFFFFFFFFFF9), (7, 2)]) (·.readG 5) = some 0xFFFFFFFFFFFFFFFF
    ∧ after (.remu { d := 5, a := 6, b := 7 }) (boot [(6, 9)]) (·.readG 5) = some 9 := by decide

/-- R112: shifts of an 8-bit number by 8 or more; a rotation counts modulo 8. -/
theorem test_shifts : after (.sar { d := 5, a := 6, b := 7, ty := .i8 }) (boot [(6, 0x80), (7, 63)]) (·.readG 5) = some 0xFFFFFFFFFFFFFFFF
    ∧ after (.shr { d := 5, a := 6, b := 7, ty := .n8 }) (boot [(6, 0x80), (7, 8)]) (·.readG 5) = some 0
    ∧ after (.rol { d := 5, a := 6, b := 7, ty := .n8 }) (boot [(6, 0x81), (7, 9)]) (·.readG 5) = some 0x03 := by decide

/-- R95, R112: −1 is below 1 signed and above it unsigned. -/
theorem test_cset : after (.cset .lt { d := 5, a := 6, b := 7 }) (boot [(6, 0xFFFFFFFFFFFFFFFF), (7, 1)]) (·.readG 5) = some 1
    ∧ after (.cset .ltu { d := 5, a := 6, b := 7 }) (boot [(6, 0xFFFFFFFFFFFFFFFF), (7, 1)]) (·.readG 5) = some 0 := by decide

/-- R114: 1 has 31 leading zeros in 32 bits; bit 0 becomes bit 7. -/
theorem test_bit_counts : after (.clz { d := 5, a := 6, ty := .n32 }) (boot [(6, 1)]) (·.readG 5) = some 31
    ∧ after (.brev { d := 5, a := 6, ty := .n8 }) (boot [(6, 1)]) (·.readG 5) = some 0x80 := by decide

/-- R114, R115: immediates are sign-extended in arithmetic and zero-extended in logic; `movl` is two words. -/
theorem test_immediates : after (.addi { d := 5, a := 6, imm := 0xFFFFFFFD }) (boot [(6, 5)]) (·.readG 5) = some 2
    ∧ after (.ori { d := 5, a := 6, imm := 0x80000000 }) (boot []) (·.readG 5) = some 0x80000000
    ∧ after (.movl { d := 5, imm := 7 }) (boot []) (·.me.pc) = some (Config.firmwareEntry + 16) := by decide

/-- R117: a taken branch goes to its own address plus eight times its offset. -/
theorem test_branch : after (.b .ne .none 6 0 0xFFFFFFFFFF) (boot [(6, 1)]) (·.me.pc) = some (Config.firmwareEntry - 8)
    ∧ after (.b .ne .none 6 0 0xFFFFFFFFFF) (boot []) (·.me.pc) = some (Config.firmwareEntry + 8) := by decide

/-- R117: `callr` links the next address; `jr` to an odd address faults with code 0x03, from firmware to firmware, one word. -/
theorem test_jumps : after (.callr { d := 1, a := 6 }) (boot [(6, 0x20000)]) (fun t => (t.me.pc, t.readG 1))
      = some (0x20000, Config.firmwareEntry + 8)
    ∧ after (.jr { a := 6 }) (boot [(6, 0x20001)]) (fun t => (t.me.trapF.cause, t.me.trapF.addr)) = some (0x603, 0x20001) := by decide

/-- R119: the first helper starts at the address, with its argument in g3. -/
theorem test_hstart : after (.hstart { d := 5, a := 6, b := 7 }) (boot [(6, 0x20000), (7, 9)])
      (fun t => (t.readG 5, (t.ctx t.cur.1 1).pc, (t.ctx t.cur.1 1).getG 3)) = some (1, 0x20000, 9) := by decide

/-- R120: `fdone` ends a firing's context. -/
theorem test_fdone : after (.fdone {}) (lab 3 { run := .ready, firing := some 4 }) (fun t => (t.me.run, t.me.firing)) = some (.free, none) := by
  decide +kernel

/-- R89, R165: 1 + 1 is 2 in binary32; 1 / 0 is infinity. -/
theorem test_float : after (.fadd { d := 5, a := 6, b := 7, ty := .f32 }) (boot [(6, 0x3F800000), (7, 0x3F800000)]) (·.readG 5) = some 0x40000000
    ∧ after (.fdiv { d := 5, a := 6, b := 7, ty := .f32 }) (boot [(6, 0x3F800000)]) (·.readG 5) = some 0x7F800000 := by decide

/-- R165: a product and sum rounded once: 1.5 × 2 − 3 is zero. -/
theorem test_ffms : after (.ffms { d := 5, a := 6, b := 7, c := 8, ty := .f32 }) (boot [(6, 0x3FC00000), (7, 0x40000000), (8, 0x40400000)])
    (·.readG 5) = some 0 := by decide

/-- R168: −2.5 toward zero is −2; under round to nearest even, 2.5 is 2. -/
theorem test_fcvt : after (.fcvt .f64 { d := 5, a := 6, ty := .i32, rnd := 2 }) (boot [(6, 0xC004000000000000)]) (·.readG 5)
      = some 0xFFFFFFFFFFFFFFFE
    ∧ after (.fcvt .f64 { d := 5, a := 6, ty := .i32, rnd := 1 }) (boot [(6, 0x4004000000000000)]) (·.readG 5) = some 2 := by decide

/-- R90, R172: only the lane that the mask enables is written. -/
theorem test_vadd : after (.vadd { d := 5, a := 6, b := 7, k := 1, ty := .i32 }) (boot [] [(5, 0x300000009), (6, 0x100000001), (7, 0x200000002)] [(1, 1)])
    (·.readV 5) = some 0x300000003 := by decide +kernel

/-- R174: the whole mask is written, a disabled lane as 0. -/
theorem test_vcmp : after (.vcmp .lt { d := 2, a := 6, b := 7, k := 1, ty := .i8 }) (boot [] [(7, 0x010101)] [(1, 0b101), (2, 0xFF)])
    (·.readK 2) = some 0b101 := by decide +kernel

/-- R179: the sum of the lanes is in lane 0, every other lane zero. -/
theorem test_vred_add : after (.vredAdd { d := 5, a := 6, ty := .i32 }) (boot [] [(5, 0x900000000), (6, 0x300000004)]) (·.readV 5) = some 7 := by
  decide +kernel

/-- R178: index lane 17 of 16 lanes is lane 1 of the second register. -/
theorem test_vshuf : after (.vshuf { d := 5, a := 6, b := 7, c := 8, ty := .n32 }) (boot [] [(7, 0x0000000B0000000A), (8, 17)])
    (fun t => laneOf 32 (t.readV 5) 0) = some 0xB := by decide +kernel

/-- R183: `kseti` sets the lanes below its immediate; k0 keeps no write. -/
theorem test_masks : after (.kseti { d := 3, ty := .f32, imm := 13 }) (boot []) (·.readK 3) = some 0x1FFF
    ∧ after (.kseti { d := 0, ty := .f32, imm := 13 }) (boot []) (·.readK 0) = some 0xFFFFFFFFFFFFFFFF := by decide

/-- R260: a byte loaded as i8 is sign-extended, as n8 it is not. -/
theorem test_load : after (.ld { data := 5, base := 10, ty := 0 }) ((boot [(10, own 64)]).pokeBytes (scratchLoc (.phys 0 0 0) 64) [0x80]) (·.readG 5)
      = some 0xFFFFFFFFFFFFFF80
    ∧ after (.ld { data := 5, base := 10, ty := 4 }) ((boot [(10, own 64)]).pokeBytes (scratchLoc (.phys 0 0 0) 64) [0x80]) (·.readG 5)
      = some 0x80 := by decide

/-- R14, R261: a store is little-endian; a store past the end of the scratchpad is an address fault, code 0x06. -/
theorem test_store : after (.st { data := 5, base := 10, ty := 6 }) (boot [(5, 0x11223344), (10, own 64)]) (stored 64 2) = some 0x3344
    ∧ after (.st { data := 5, base := 10, ty := 6 }) (boot [(10, own 0x7FFFF)]) (·.me.trapF.cause.toNat % 256) = some 6 := by decide

/-- R273: the old value is the result and the sum is stored. -/
theorem test_amo_add : after (.amoAdd { data := 5, base := 10, index := 6, ty := 7 }) ((boot [(6, 3), (10, own 64)]).pokeBytes (scratchLoc (.phys 0 0 0) 64) [4])
    (fun t => (t.readG 5, stored 64 8 t)) = some (4, 7) := by decide

/-- R127, R128: an absent mailbox register makes `xget` wait and `xtry` answer 0. -/
theorem test_mailbox : after (.xget { d := 5, a := 9 }) (boot []) (·.me.run) = some (.waiting (.xget { d := 5, a := 9 }))
    ∧ after (.xtry { d := 5, a := 9, b := 6 }) (boot [(6, 7)]) (·.readG 6) = some 0 := by decide

/-- R310: `rset` at application level raises the privilege fault, which the supervisor takes: code 0x02, one word. -/
theorem test_rset : after (.rset { d := 5, a := 6, b := 7 }) (lab) (fun t => (t.me.level, t.me.trapS.cause, t.me.pc)) = some (.sup, 0x402, 0x8000) := by
  decide +kernel

/-- R200: a free slot is claimed; one that another core holds raises code 0x1F with its number. -/
theorem test_mclaim : after (.mclaim { cmd := 4 }) (lab) (fun t => (t.block blk1).claim 4) = some (.excl 0)
    ∧ after (.mclaim { cmd := 4 }) (lab.modBlock blk1 fun b => { b with claims := [(4, .excl 2)] }) (fun t => (t.me.trapS.cause, t.me.trapS.trec.get 0 4))
      = some (0x41F, 4) := by decide +kernel

/-- R334: a copy that passes its checks is queued; a length of 2^40 raises code 0x1E. -/
theorem test_cpy : after (.cpy { d := 6, a := 7, b := 8 }) (boot [(6, own 0), (7, own 64), (8, 64)]) (·.myCore.cmds.length) = some 1
    ∧ after (.cpy { d := 6, a := 7, b := 8 }) (boot [(6, own 0), (7, own 64), (8, 0x10000000000)]) (·.me.trapF.cause.toNat % 256) = some 0x1E := by
  decide

/-- R346, R347: `swait` waits for a count that is not there; `smset` keeps 16 bits. -/
theorem test_semaphores : after (.swait { idx := 3, count := 1 }) (boot []) (·.me.run) = some (.waiting (.swait { idx := 3, count := 1 }))
    ∧ after (.smset { idx := 3, a := 6 }) (boot [(6, 0x50007)]) (fun t => (t.myCore.semOf 3).count) = some 7 := by decide

/-- R351: the only member's arrival completes the generation. -/
theorem test_bar : after (.bar false { idx := 1 }) ((lab 0 { run := .ready }).modBlock blk1 fun b => { b with bars := [(1, { mask := 1, per := 1 })] })
    (fun t => (t.me.run, t.me.pc, (t.barrier (.blk blk1 1)).gen)) = some (.ready, 8, 1) := by decide +kernel

/-- R132, R134: the context number; the core number of virtual core 0; a firmware register at application level. -/
theorem test_sget : after (.sget 5 0) (lab 3) (·.readG 5) = some 3
    ∧ after (.sget 5 0xF03) (lab) (·.me.trapS.cause.toNat % 256) = some 2 := by decide +kernel

/-- R184: `fflags` is cleared by writing ones. -/
theorem test_sset : after (.sset 6 5) ((boot [(5, 3)]).setFlags 6) (·.me.fflags) = some 4 := by decide

/-- R374: `trap` from application level enters the supervisor with code 0x20, TLEN 1, its operand in the record. -/
theorem test_trap : after (.trap 7) (lab) (fun t => (t.me.level, t.me.trapS.cause, t.me.trapS.trec.get 0 4, t.me.pc)) = some (.sup, 0x420, 7, 0x8000) := by
  decide +kernel

/-- R375: `tret.next` goes past the word that trapped, to the level it came from. -/
theorem test_tret_next : after .tretNext (lab 0 { level := .sup, busyS := true, trapS := { pc := 0x100, cause := 0x420 } })
    (fun t => (t.me.pc, t.me.level, t.me.busyS)) = some (0x108, .app, false) := by decide +kernel

/-- R376, R377: `brk` faults with code 0x21 where no debugger asks for it; a word of class 0xF enters firmware with 0x22. -/
theorem test_breakpoint : after .brk (lab) (·.me.trapS.cause) = some 0x421
    ∧ after (.deferredEncoding 0xF000000000000000) (lab) (fun t => (t.me.level, t.me.trapF.cause)) = some (.fw, 0x422) := by decide +kernel

/-- R382: the gang stop is taken once. -/
theorem test_gstop : after (.gstop 5) (lab 0 { level := .sup }) (fun t => (t.readG 5, (t.part 1).stopped)) = some (0, some (.virt 1 0, 0)) := by
  decide +kernel

/-- R397: the block cipher of the links, on the example of its standard (FIPS 197, appendix C.3). -/
theorem test_aes : aesBlock (aesSchedule (List.range 32)) ((List.range 16).map fun i => 17 * i)
    = [0x8E, 0xA2, 0xB7, 0xCA, 0x51, 0x67, 0x45, 0xBF, 0xEA, 0xFC, 0x49, 0x90, 0x4B, 0x49, 0x60, 0x89] := by decide +kernel

/-- R111, R412: the first step from reset fetches at the firmware entry; the word 0 that stands there is `add.i8 g0, g0, g0`. -/
theorem test_reset_step : (match step State.reset with
    | .next t => some (t.me.pc, t.me.icount)
    | _ => none) = some (0x10008, 1) := by decide

/-! ## The hypotheses of the statements are met

Each theorem lists, in the order of a statement's clauses, states and operands that meet the clause's hypotheses together. -/

/-- The targets that an access resolves to. -/
def tsOf (s : State) (a : Access) : List Target :=
  match s.locate s.cur.1 a.kind.xkind a.addr a.size with
  | .remote ts => ts
  | _ => []

theorem witness_IntegerDivision :
    (readU 32 ((boot [(6, 9)]).readG 7) = 0)
    ∧ (readU 32 ((boot [(6, 9), (7, 0xFFFFFFFF)]).readG 7) ≠ 0)
    ∧ (let s := boot [(6, 0x80000000), (7, 0xFFFFFFFF)]
       readU 32 (s.readG 7) ≠ 0 ∧ readS 32 (s.readG 6) = -2 ^ 31 ∧ readS 32 (s.readG 7) = -1)
    ∧ (let s := boot [(6, 0x80000000), (7, 1)]
       readU 32 (s.readG 7) ≠ 0 ∧ ¬(readS 32 (s.readG 6) = -2 ^ 31 ∧ readS 32 (s.readG 7) = -1))
    ∧ ETy.isSigned .i32 = true ∧ ETy.isSigned .n32 = false := by decide +kernel

theorem witness_Branches :
    ((boot [(6, 0xFFFFFFFFFFFFFFF8)]).readG 6).toNat % 8 = 0 ∧ ((boot [(6, 0xFFFFFFFFFFFFFFFF)]).readG 6).toNat % 8 ≠ 0 := by decide +kernel

/-- Lanes, whole-vector instructions and reductions: a type with whole elements; an index that is a lane, and one that is none. -/
theorem witness_VectorTypes : wholeElement .f32 ∧ wholeElement .f8 ∧ wholeElement .i64
    ∧ ((boot [(7, 15)]).readG 7).toNat < ETy.lanes .f32 ∧ ETy.lanes .f32 ≤ ((boot [(7, 16)]).readG 7).toNat := by
  refine ⟨.inr (.inr (.inl rfl)), .inl rfl, .inr (.inr (.inr rfl)), ?_, ?_⟩ <;> decide +kernel

theorem witness_OwnLoads :
    (let o : OpM := { data := 5, base := 10, order := .acq, scope := .blk }
     let s := boot [(10, own 0x7FFF8)]
     (s.ea o).toNat % o.size = 0 ∧ OwnReady s (OpM.access o .load (s.ea o) o.size) (.g o.data o.ety) 0x7FFF8 false)
    ∧ (let o : OpM := { data := 5, base := 10, shape := 1 }
       let s := boot [(10, own 0x7FFC0)]
       o.order = .plain ∧ OwnReady s (OpM.access o .load (s.ea o) o.size) (.v o.data) 0x7FFC0 false)
    ∧ (let o : OpM := { data := 6, base := 10, shape := 2 }
       let s := boot [(10, own 0)]
       o.order = .plain ∧ OwnReady s (OpM.access o .load (s.ea o) o.size) (.pair o.data) 0 false) := by
  refine ⟨⟨by decide +kernel, ?_⟩, ⟨rfl, ?_⟩, ⟨rfl, ?_⟩⟩ <;>
    exact ⟨by decide +kernel, by decide +kernel, by decide +kernel, by decide +kernel, .inl (by decide +kernel), by decide +kernel⟩

theorem witness_OwnStores :
    (let o : OpM := { data := 5, base := 10, ty := 6, order := .rel, scope := .blk }
     let s := boot [(10, own 0x7FFFC)]
     MemoryWf s ∧ (s.ea o).toNat % o.size = 0 ∧ (s.storeData o).length = o.size
       ∧ OwnReady s (OpM.access o .store (s.ea o) o.size (s.storeData o)) .none 0x7FFFC true)
    ∧ (let o : OpM := { data := 6, base := 10, shape := 2 }
       let s := boot [(10, own 0)]
       MemoryWf s ∧ (s.storeData o).length = o.size
         ∧ OwnReady s (OpM.access o .store (s.ea o) o.size (s.storeData o)) .none 0 true) := by
  refine ⟨⟨by unfold MemoryWf; decide +kernel, by decide +kernel, by decide +kernel, ?_⟩, by unfold MemoryWf; decide +kernel, by decide +kernel, ?_⟩ <;>
    exact ⟨by decide +kernel, by decide +kernel, by decide +kernel, by decide +kernel, .inl (by decide +kernel), by decide +kernel⟩

theorem witness_OwnGatherScatter :
    let o : OpM := { data := 5, base := 10, index := 7, shape := 1, ty := 6 }
    let s := boot [(10, own 0)]
    let gets (j : Nat) := OpM.access o .load (s.laneAddr o j) o.bytes [] j
    let data (j : Nat) := leBytes o.bytes (laneOf (8 * o.bytes) (s.readV o.data) j)
    let puts (j : Nat) := OpM.access o .store (s.laneAddr o j) o.bytes (data j) j
    MemoryWf s ∧ s.modeOf s.cur.1 = 0 ∧ wholeElement o.ety ∧ Map.get? s.me.progress s.me.level = none ∧ o.order.releases = false
    ∧ (∀ j, j < laneCount o → s.poisonedAt (scratchLoc s.cur.1 0) o.bytes = false)
    ∧ (∀ j, j < laneCount o → s.locate s.cur.1 .read (s.laneAddr o j) o.bytes = .own 0)
    ∧ s.mustWait s.cur.1 s.cur.2 ((List.range (laneCount o)).map fun j => want s (gets j) (.lanes o.data o.bytes)) = false
    ∧ (∀ j, j < laneCount o → s.locate s.cur.1 .write (s.laneAddr o j) o.bytes = .own 0)
    ∧ s.mustWait s.cur.1 s.cur.2 ((List.range (laneCount o)).map fun j => want s (puts j) .none) = false :=
  ⟨by unfold MemoryWf; decide +kernel, by decide +kernel, .inr (.inr (.inl rfl)), by decide +kernel, rfl, by decide +kernel, by decide +kernel,
    by decide +kernel, by decide +kernel, by decide +kernel⟩

/-- An addition, and a compare-and-swap that matches and stores; a reduction. -/
theorem witness_OwnAtomics :
    let o : OpM := { data := 5, base := 10, index := 6, ty := 7, order := .acqrel, scope := .dom }
    let s := boot [(6, 3), (10, own 0x7FFF8)]
    let old := s.peekBytes (scratchLoc s.cur.1 0x7FFF8) o.bytes
    let d : Dest := .g o.data .n64
    MemoryWf s ∧ (s.baseAddr o).toNat % o.bytes = 0 ∧ wholeElement o.ety
    ∧ OwnReady s (OpM.access o (.amo .add o.ety 3 0) (s.baseAddr o) o.bytes) d 0x7FFF8 (atomicOp .add o.ety 3 0 old).1.isSome
    ∧ OwnReady s (OpM.access o (.amo .cas o.ety 3 0) (s.baseAddr o) o.bytes) d 0x7FFF8 (atomicOp .cas o.ety 3 0 old).1.isSome
    ∧ OwnReady s (OpM.access o (.red .max o.ety 3) (s.baseAddr o) o.bytes) .none 0x7FFF8 (atomicOp .max o.ety 3 0 old).1.isSome := by
  refine ⟨by unfold MemoryWf; decide +kernel, by decide +kernel, .inr (.inr (.inr rfl)), ?_, ?_, ?_⟩ <;>
    exact ⟨by decide +kernel, by decide +kernel, by decide +kernel, by decide +kernel, .inl (by decide +kernel), by decide +kernel⟩

theorem witness_RemoteAccesses :
    let s := boot [(6, 3), (10, 0x20000)]
    (let o : OpM := { data := 5, base := 10, order := .acq, scope := .dom }
     let a := OpM.access o .load (s.ea o) o.size
     (s.ea o).toNat % o.size = 0 ∧ SendReady s a (.g o.data o.ety) (tsOf s a))
    ∧ (let o : OpM := { data := 5, base := 10, shape := 1 }
       let a := OpM.access o .load (s.ea o) o.size
       SendReady s a (.v o.data) (tsOf s a))
    ∧ (let o : OpM := { data := 5, base := 10, order := .rel, scope := .dom }
       let a := OpM.access o .store (s.ea o) o.size (s.storeData o)
       SendReady s a .none (tsOf s a))
    ∧ (let o : OpM := { data := 5, base := 10, index := 6, ty := 7 }
       let a := OpM.access o (.amo .add o.ety 3 0) (s.baseAddr o) o.bytes
       (s.baseAddr o).toNat % o.bytes = 0 ∧ SendReady s a (.g o.data .n64) (tsOf s a))
    ∧ (let o : OpM := { base := 10, index := 6, ty := 7 }
       let a := OpM.access o (.red .add o.ety 3) (s.baseAddr o) o.bytes
       SendReady s a .none (tsOf s a))
    ∧ (let o : OpM := { data := 4, base := 10 }
       let a := OpM.access o .rld (s.ea o) 8
       (s.myCore.mail o.data).pres = false ∧ (s.myCore.mail o.data).await = false ∧ (s.ea o).toNat % 8 = 0
         ∧ SendReady s a (.x o.data) (tsOf s a))
    ∧ (let o : OpM := { data := 4, base := 10, shape := 2 }
       let a := OpM.access o .rld (s.ea o) o.size
       (s.ea o).toNat % o.size = 0 ∧ SendReady s a (.pair o.data) (tsOf s a)) := by
  refine ⟨⟨by decide +kernel, ?_⟩, ?_, ?_, ⟨by decide +kernel, ?_⟩, ?_, ⟨by decide +kernel, by decide +kernel, by decide +kernel, ?_⟩,
    ⟨by decide +kernel, ?_⟩⟩ <;>
    exact ⟨by decide +kernel, by decide +kernel, by decide +kernel, by decide +kernel, by decide +kernel, by decide +kernel, by decide +kernel⟩

theorem witness_MulticastCloseAndPrefetch :
    let s (m : Word) : State := lab 0 { g := [(7, m), (10, 0xFD00000000000000)] }
    let o : OpM := { data := 5, base := 10, index := 7 }
    (o.order = .plain ∧ (s 0).baseAddr o = 0xFD00000000000000#64 ∧ (s 0).readG 7 = 0 ∧ (s 0).me.failures = [])
    ∧ ((s 1).readG 7 ≠ 0 ∧ o.stream = 0 ∧ (s 1).me.failures = [] ∧ Map.get? (s 1).me.progress (s 1).me.level = none
      ∧ (let acc := OpM.access o .store (replica false ((s 1).baseAddr o) 0) o.size ((s 1).storeData o)
         (List.range 64).filter ((s 1).readG 7).getLsbD = [0]
         ∧ (s 1).mustWait (s 1).cur.1 (s 1).cur.2 [want (s 1) acc .none] = false
         ∧ tsOf (s 1) acc ≠ [] ∧ (s 1).locate (s 1).cur.1 .write acc.addr o.size = .remote (tsOf (s 1) acc)))
    ∧ (s 1).unackedAll (s 1).cur.1 (s 1).cur.2 = 0 ∧ (s 1).me.failureFor 0 = none
    ∧ ({ s 1 with msgs := [(0, { core := .virt 1 0, ctx := 0, body := .access { kind := .store, addr := 0, size := 8 } [], stage := .sent })] } : State).unackedAll (.virt 1 0) 0
      ≠ 0 := by decide +kernel
/-- A message of context 0 of core 0 of partition 1. -/
def msg (body : Body) (stage : Stage := .sent) : Msg := { core := .virt 1 0, ctx := 0, body := body, stage := stage }

/-- n stores of stream 0 on their way. -/
def stores (n : Nat) : Map Nat Msg := (List.range n).map fun i => (i, msg (.access { kind := .store, addr := 0, size := 8 } []))

/-- A tile of class 1 with key 0; a rule for it of span 1, one for every tile of its class (R17, R308). -/
def tile1 : Line := 1
def rule1 (span : Nat := 1) (coreside : Nat := 0) : Line := BitVec.ofNat 512 (1 + 2 ^ 16 + 2 ^ 128 + span * 2 ^ 133 + coreside * 2 ^ 146 + 0x40000 * 2 ^ 256)

theorem witness_ThreadsStartAndEnd :
    let s (n : Nat) (x : Ctx) : State := lab n x
    let busy : State := { lab with cores := [(.virt 1 0, { ctxs := (List.range 11).map fun n => (n, { run := .ready }) })] }
    let load : State := { lab 3 with msgs := [(0, { msg (.access { kind := .load, addr := 0, size := 8 } []) with ctx := 3, tag := some (0, 1) })] }
    (s 3 {}).cur.2 ≠ 0
    ∧ ((s 0 { g := [(6, 1)] }).cur.2 = 0 ∧ ((s 0 { g := [(6, 1)] }).readG 6).toNat % 8 ≠ 0)
    ∧ (busy.cur.2 = 0 ∧ (busy.readG 6).toNat % 8 = 0 ∧ busy.myCore.freeHelper = none)
    ∧ ((s 0 {}).cur.2 = 0 ∧ ((s 0 {}).readG 6).toNat % 8 = 0 ∧ (s 0 {}).myCore.freeHelper = some 1)
    ∧ (s 3 { firing := some 0 }).me.firing.isSome = true ∧ (s 3 { hown := true }).me.hown = true
    ∧ ((s 3 {}).cur.2 ≠ 0 ∧ (s 3 {}).me.firing = none ∧ (s 3 {}).me.hown = false ∧ (s 3 {}).loadsDone (.virt 1 0) 3 = true)
    ∧ (load.cur.2 ≠ 0 ∧ load.me.firing = none ∧ load.me.hown = false ∧ load.loadsDone (.virt 1 0) 3 = false) := by decide +kernel

theorem no_wait_one (c : CoreId) (s : State) (m : Nat) (x : Ctx) (i : Instr) (h : (s.core c).ctxs = [(m, x)])
    (hx : x.run ≠ .waiting i) (n : Nat) : (s.ctx c n).run ≠ .waiting i := by
  by_cases e : m = n <;> simp [State.ctx, Core.ctx, h, Map.get, e, hx]

theorem witness_MailboxInstructions :
    let c := CoreId.virt 1 0
    let s : State := lab 0 { g := [(6, 0), (7, 0x100000), (8, 0xFFFFF)] }
    let full : State := { s with msgs := stores 256 }
    let word (e : Bool) : State := s.modMyCore fun k => { k with x := [(9, { value := 5, pres := true, err := e })] }
    let m (u : State) := (u.mailCycle c).myCore.mail 9
    ((s.readG 6).toNat < 2 ^ 20 ∧ c.isVirt = true ∧ s.hasCore (.virt 1 0) = true ∧ s.hasRoute c.estate 0 = true
      ∧ s.fabricHolds c 0 = false ∧ s.unacked c 0 0 < 256 ∧ s.unackedAll c 0 < 1024)
    ∧ (full.hasCore (.virt 1 0) = true ∧ 256 ≤ full.unacked c 0 0)
    ∧ 2 ^ 20 ≤ (s.readG 7).toNat ∧ s.hasCore (.virt 1 0xFFFFF) = false
    ∧ (s.myCore.hold = [] ∧ s.overflow c = [] ∧ ∀ k a, (s.ctx c k).run ≠ .waiting (.xget a))
    ∧ (m s).pres = false ∧ ((m (word true)).pres = true ∧ (m (word true)).err = true)
    ∧ ((m (word false)).pres = true ∧ (m (word false)).err = false) := by
  refine ⟨by decide +kernel, by decide +kernel, by decide +kernel, by decide +kernel, ⟨by decide +kernel, by decide +kernel, fun k a => ?_⟩,
    by decide +kernel, by decide +kernel, by decide +kernel⟩
  exact no_wait_one _ _ 0 _ _ rfl (by simp) k

theorem no_waiter (c : CoreId) (s : State) (h : (s.core c).ctxs = []) (n : Nat) (i : Instr) : (s.ctx c n).run ≠ .waiting i := by
  simp [State.ctx, Core.ctx, h, Map.get]

theorem witness_PostDelivery :
    let c := CoreId.virt 1 1
    let p (stage : Stage) : State := { lab with msgs := [(5, msg (.post (.virt 1 1) 3 7) stage)], cycle := 2000000 }
    let k (s : State) (k : Core) : State := s.setCore c k
    let h (n : Nat) (r : Reg := 3) : List HeldPost := (List.range n).map fun i => { x := r, value := 1, snap := none, since := i }
    let flying : State := { p .sent with estates := [(0, { links := [(5, { sendq := [{ vc := 0, cargo := .msg 5, dest := 0, num := 1 }] })] })] }
    (Map.get? (p .unsent).msgs 5 = some (msg (.post c 3 7) .unsent) ∧ (p .unsent).cleared (msg (.post c 3 7) .unsent) = true)
    ∧ (flying.flown (.msg 5) = false ∧ (p .sent).flown (.msg 5) = true)
    ∧ ((p .sent).unitHolds (coreUnit c) = false ∧ (p .sent).isFenced c = false ∧ (p .sent).overflow c = [] ∧ ((p .sent).core c).mailFree 3 = true
      ∧ ∀ n o, ((p .sent).ctx c n).run = .waiting (.xget o) → o.a ≠ 3)
    ∧ (let s := k (p .sent) { x := [(3, { pres := true })], hold := h 15 }
       s.unitHolds (coreUnit c) = false ∧ s.isFenced c = false ∧ s.overflow c = [] ∧ (s.core c).mailFree 3 = false ∧ (s.core c).hold.length < 16)
    ∧ (let s := k (p .sent) { x := [(3, { pres := true })], hold := h 16 }
       s.unitHolds (coreUnit c) = false ∧ s.isFenced c = false ∧ (s.core c).takesPost 3 = false)
    ∧ (let s := (p .sent).modBlock blk1 fun b => { b with fenced := true }
       s.unitHolds (coreUnit c) = false ∧ s.isFenced c = true)
    ∧ ((p .sent).modBlock blk1 fun b => { b with held := true }).unitHolds (coreUnit c) = true
    ∧ ((p (.refused 2000000)).cycle = 2000000)
    ∧ (let s := k (p .held) { hold := h 1 4 }
       ((s.core c).mail 4).pres = false ∧ ((s.core c).mail 4).await = false
         ∧ ((s.core c).hold.find? fun p => p.x == 4) = some { x := 4, value := 1, snap := none, since := 0 }
         ∧ ({ s with msgs := [] } : State).overflow c = [] ∧ ∀ n o, (({ s with msgs := [] } : State).ctx c n).run = .waiting (.xget o) → o.a ≠ 4)
    ∧ (let s := k (p .sent) { hold := h 1 }
       { x := 3, value := 1, snap := none, since := 0 } ∈ (s.core c).hold ∧ 0 + 1000000 ≤ s.cycle) := by
  refine ⟨by decide +kernel, by decide +kernel, ⟨by decide +kernel, by decide +kernel, by decide +kernel, by decide +kernel, fun n o h => absurd h (no_waiter _ _ rfl _ _)⟩,
    by decide +kernel, by decide +kernel, by decide +kernel, by decide +kernel, by decide +kernel,
    ⟨by decide +kernel, by decide +kernel, by decide +kernel, by decide +kernel, fun n o h => absurd h (no_waiter _ _ rfl _ _)⟩, by decide +kernel⟩

/-- A tile of class 1 in the own scratchpad at 0x7FFC0, and what an insertion of it needs; each cause to wait: a full buffer, a bank or
a grant in another estate while estate 0 is reconfigured. -/
theorem witness_Insertions :
    let at_ (off : Nat) (x : Ctx := {}) : State :=
      (lab 0 { x with g := [(7, own off)] }).pokeBytes (scratchLoc (.virt 1 0) 0x7FFC0) [1]
    let o : OpM := { base := 7, ty := 0 }
    let s := at_ 0x7FFC0
    let entry : Insert := { core := .virt 1 0, ctx := 0, buf := some (0, 0, 0), img := 1, pid := 1, home := some 0, keep := false }
    let full : State := { s with inserts := (List.range 32).map fun i => (i, entry) }
    let fir : Firing := { pid := 1, rule := 0, img := rule1, bank := 0, tiles := [], roundM := true, place := .running }
    let rm : State := { (at_ 0x7FFC0 { firing := some 4 }).modPart 1 fun p => { p with record := [(0, rec1 ||| BitVec.ofNat 1024 (2 ^ 30))] } with
      firings := [(4, fir)] }
    let gr (e : Nat) (u : State) : State := u.modPart 1 fun p =>
      { p with grants := [(0, BitVec.ofNat 64 (e * 2 ^ 16 + 2 ^ 22 + 2 ^ 32 + 2 ^ 48 + 1))] }
    let phased : State := { s with estates := [(0, { phase := 1 })] }
    let away : State := phased.modPart 1 fun p => { p with banks := [(0, 0, 1)] }
    let f : Failure := { stream := 0, cause := 4 }
    let bad := gr 0 (at_ 0x7FFC0 { failures := [f] })
    let img (u : State) := lineOfBytes (ownBytes u (u.ea o) 64)
    let isFull (u : State) : Bool := match u.place u.cur.1 with
      | some q => decide (32 ≤ (u.bufferOf q).length)
      | none => false
    let to_ (u : State) : Bool := ((u.bankAt u.pid (u.homeOf u.pid (tileKey0 (img u)))).map fun b => b.2.2).any (u.fabricHolds u.cur.1)
    let grant (u : State) := u.myPart.grants.get 0 (u.readG o.data).toNat
    let dest (u : State) : Nat := (grant u).toNat / 65536 % 64
    let granted (u : State) : Prop := (u.readG o.data).toNat < 16 ∧ (grant u).getLsbD 22 = true
      ∧ tileClass (img u) &&& ((grant u).toNat / 2 ^ 48) = (grant u).toNat / 2 ^ 32 % 65536
    let slot (u : State) : Prop := (u.ea o).toNat / 2 ^ 19 = 0xFC * 2 ^ 37 ∧ (u.ea o).toNat % 64 = 0
    let none_ : State := lab 0 { g := [(7, own 0x7FFC0)] }
    let spent : State := rm.modMe fun x => { x with inserted := (rm.share fir).2 }
    (((lab 0 { g := [(7, 64)] }).ea o).toNat / 2 ^ 19 ≠ 0xFC * 2 ^ 37)
    ∧ (((at_ 8).ea o).toNat / 2 ^ 19 = 0xFC * 2 ^ 37 ∧ ((at_ 8).ea o).toNat % 64 ≠ 0)
    ∧ (slot full ∧ isFull full = true)
    ∧ (slot away ∧ tileClass (img away) ≠ 0 ∧ to_ away = true)
    ∧ (let u := gr 1 phased; slot u ∧ tileClass (img u) ≠ 0 ∧ granted u ∧ u.fabricHolds u.cur.1 (dest u) = true)
    ∧ (slot bad ∧ isFull bad = false ∧ bad.me.failureFor 0 = some f ∧ to_ bad = false ∧ bad.fabricHolds bad.cur.1 (dest bad) = false)
    ∧ (ReadsOwn s (s.ea o) 64 ∧ isFull s = false ∧ s.me.failureFor 0 = none ∧ tileClass (img s) ≠ 0 ∧ to_ s = false ∧ s.roundFiring = none)
    ∧ (ReadsOwn rm (rm.ea o) 64 ∧ isFull rm = false ∧ rm.me.failureFor 0 = none ∧ tileClass (img rm) ≠ 0 ∧ to_ rm = false
        ∧ rm.roundFiring = some fir ∧ rm.me.inserted < (rm.share fir).2)
    ∧ (ReadsOwn spent (spent.ea o) 64 ∧ isFull spent = false ∧ spent.me.failureFor 0 = none ∧ tileClass (img spent) ≠ 0 ∧ to_ spent = false
        ∧ spent.roundFiring = some fir ∧ (spent.share fir).2 ≤ spent.me.inserted)
    ∧ (ReadsOwn none_ (none_.ea o) 64 ∧ isFull none_ = false ∧ none_.me.failureFor 0 = none ∧ tileClass (img none_) = 0)
    ∧ ¬granted s
    ∧ (∀ u ∈ [gr 0 s, gr 1 s], isFull u = false ∧ u.me.failureFor 0 = none ∧ tileClass (img u) ≠ 0 ∧ granted u
        ∧ u.fabricHolds u.cur.1 (dest u) = false)
    ∧ (ReadsOwn (gr 0 s) ((gr 0 s).ea o) 64 ∧ (gr 0 s).hasRoute 0 (dest (gr 0 s)) = true)
    ∧ (ReadsOwn (gr 1 s) ((gr 1 s).ea o) 64 ∧ (gr 1 s).hasRoute 0 (dest (gr 1 s)) = false) := by
  refine ⟨by decide +kernel, by decide +kernel, by decide +kernel, by decide +kernel, by decide +kernel, by decide +kernel,
    ⟨?_, by decide +kernel⟩, ⟨?_, by decide +kernel⟩, ⟨?_, by decide +kernel⟩, ⟨?_, by decide +kernel⟩, by decide +kernel, by decide +kernel,
    ⟨?_, by decide +kernel⟩, ?_, by decide +kernel⟩ <;>
    exact ⟨by decide +kernel, by decide +kernel, by decide +kernel, by decide +kernel, .inl (by decide +kernel)⟩

/-- A store by way of a core's address, to bytes 64 to 127 of the scratchpad of the block's core 0. -/
def storing : Msg := msg (.access { kind := .store, addr := 0, size := 64 } [(lab).scratchTarget (.virt 1 0) (.virt 1 0) 64 64])

theorem witness_BankRequests :
    let s : State := lab 0 { g := [(6, own 64), (7, 64)] }
    let tags : State := { s with msgs := (List.range 16).map fun i => (i, { msg (.probe 0 0 0 0) with tag := some (i, 1) }) }
    let fir : Firing := { pid := 1, rule := 0, img := rule1, bank := 0, tiles := [], roundM := true, place := .running }
    let rm : State := { (lab 0 { firing := some 4, g := [(6, own 64)] }).modPart 1 fun p => { p with record := [(0, rec1 ||| BitVec.ofNat 1024 (2 ^ 30))] } with
      firings := [(4, fir)] }
    (rm.roundFiring.isSome = true ∧ (rm.readG 6).toNat / 2 ^ 19 = 0xFC * 2 ^ 37 ∧ (rm.readG 6).toNat % 64 = 0)
    ∧ (s.readG 7).toNat / 2 ^ 19 ≠ 0xFC * 2 ^ 37
    ∧ (s.roundFiring = none ∧ s.bankAt s.pid (s.homeOf s.pid ((s.readG 0).toNat % 2 ^ 32)) = some (0, 0, 0) ∧ s.hasRoute 0 0 = true
        ∧ s.fabricHolds s.cur.1 0 = false ∧ s.loadsOut s.cur.1 s.cur.2 < 16 ∧ s.freeTags s.cur.1 ≠ [])
    ∧ (tags.roundFiring = none ∧ ¬tags.loadsOut tags.cur.1 tags.cur.2 < 16)
    ∧ ((s.readG 6).toNat / 2 ^ 19 = 0xFC * 2 ^ 37 ∧ (s.readG 6).toNat % 64 = 0 ∧ s.ownBusy (s.readG 6) 64 = false)
    ∧ ({ s with msgs := [(0, storing)] } : State).ownBusy (s.readG 6) 64 = true := by decide +kernel

theorem witness_RuleTable :
    let s (l : Level) (q : Word) (img : Line) : State :=
      (lab 0 { level := l, g := [(6, q), (7, own 64), (8, 64)] }).pokeBytes (scratchLoc (.virt 1 0) 64) (lineBytes img)
    let image (u : State) : Line := lineOfBytes (ownBytes u (u.readG 7) 64)
    let w (q : Word) := s .sup q rule1
    let bad := s .sup 255 (BitVec.ofNat 512 (2 ^ 128))
    (s .app 0 0).me.level = .app ∧ ((w 0).readG 8).toNat / 2 ^ 19 ≠ 0xFC * 2 ^ 37
    ∧ ((w 256).me.level ≠ .app ∧ ReadsOwn (w 256) ((w 256).readG 7) 64 ∧ 256 ≤ ((w 256).readG 6).toNat)
    ∧ (bad.me.level ≠ .app ∧ ReadsOwn bad (bad.readG 7) 64 ∧ (bad.readG 6).toNat < 256 ∧ Rule.v (image bad) = true ∧ Rule.ok (image bad) = false)
    ∧ (ReadsOwn (w 255) ((w 255).readG 7) 64 ∧ ((w 255).readG 6).toNat < 256 ∧ Rule.v (image (w 255)) = true ∧ Rule.ok (image (w 255)) = true)
    ∧ (let u := w 255
       MemoryWf u ∧ u.ownBusy (u.readG 7) 64 = false ∧ ownQuiet u { kind := .store, addr := u.readG 7, size := 64, data := lineBytes (u.myPart.rules.get 0 255) } true) := by
  refine ⟨by decide +kernel, by decide +kernel, ⟨by decide +kernel, ?_, by decide +kernel⟩,
    ⟨by decide +kernel, ?_, by decide +kernel, by decide +kernel, by decide +kernel⟩, ⟨?_, by decide +kernel, by decide +kernel, by decide +kernel⟩,
    by unfold MemoryWf; decide +kernel, by decide +kernel, .inl (by decide +kernel)⟩ <;>
    exact ⟨by decide +kernel, by decide +kernel, by decide +kernel, by decide +kernel, .inl (by decide +kernel)⟩
/-- A shape record of extents 4, 1, …, 1 and strides 1: four bytes (R335). -/
def shape4 : List Byte := wordBytes [4 + 2 ^ 32, 1 + 2 ^ 32, 1 + 2 ^ 32, 1 + 2 ^ 32, 1, 1, 1, 1]

theorem witness_CopyCommands :
    let o : OpE := { d := 6, a := 7, b := 8 }
    let g (n : Word) : State := lab 0 { g := [(6, own 0), (7, own 64), (8, n), (9, 0x8001)] }
    let far : State := lab 0 { g := [(6, own 0), (7, own 0x7FFFF), (8, 2)] }
    let full : State := (g 64).modMyCore fun k => { k with cmds := (List.range 96).map fun i => (i, { ctx := 0, kind := .nop }) }
    let c := CoreId.virt 1 0
    decide (2 ^ 40 ≤ ((g 0x10000000000).readG o.b).toNat) = true
    ∧ (decide (2 ^ 40 ≤ (far.readG o.b).toNat) = false ∧ far.rangesFault c [(far.readG 7, 2), (far.readG 6, 2)] = some (0x06, own 0x7FFFF))
    ∧ (let u : State := { (g 64).modPart 1 fun p => { p with record := [(0, rec1), (1, rec1)] } with estates := [(0, { phase := 1 })] }
       decide (2 ^ 40 ≤ (u.readG o.b).toNat) = false ∧ u.rangesFault c [(0xFD00040000000000, 64), (own 0, 64)] = some (0x09, 0xFD00040000000000)
         ∧ u.fabricHolds c ((0xFD00040000000000 : Word).toNat / 2 ^ 42 % 64) = true)
    ∧ (decide (2 ^ 40 ≤ ((g 64).readG o.b).toNat) = false ∧ (g 64).rangesFault c [(own 64, 64), (own 0, 64)] = none ∧ (g 64).myCore.queued < 96)
    ∧ (full.rangesFault c [(own 64, 64), (own 0, 64)] = none ∧ ¬full.myCore.queued < 96)
    ∧ (decide (2 ^ 24 < 2 ∨ (own 0).toNat % 64 ≠ 0 ∨ (own 64).toNat % 64 ≠ 0) = false
        ∧ (g 2).rangesFault c [(own 64, 64 * 2), (own 0, 64 * 2)] = none)
    ∧ (let s := (g 64).modMe fun x => { x with cdealpat := 0x8001 }
       dealMembers s.me.cdealpat ≠ [] ∧ (s.me.cdealpat.extractLsb' 16 4).toNat ≤ 10 ∧ s.me.cdealpat.extractLsb' 20 44 = 0
         ∧ (s.readG 6).toNat / 2 ^ 19 = 0xFC * 2 ^ 37 ∧ dealTop s.me.cdealpat (s.readG 6) 64 ≤ 2 ^ 19 ∧ s.rangesFault c [(own 64, 64)] = none
         ∧ c.block.isSome = true ∧ s.myCore.queued < 96
         ∧ dealMembers (g 64).me.cdealpat = [] ∧ ¬(s.readG 7).toNat / 2 ^ 19 ≠ 0xFC * 2 ^ 37 ∧ (s.readG 9).toNat / 2 ^ 19 ≠ 0xFC * 2 ^ 37
         ∧ s.rangesFault c [(0x7FFFF + own 0, 64)] = some (0x06, own 0x7FFFF))
    ∧ (let s : State := boot [(6, own 0), (7, own 64), (8, 64), (9, 0x8001)]
       s.cur.1.block = none ∧ s.rangesFault s.cur.1 [(own 64, 64)] = none ∧ (s.readG 6).toNat / 2 ^ 19 = 0xFC * 2 ^ 37
         ∧ (s.readG 6).toNat % 2 ^ 19 + 64 ≤ 2 ^ 19 ∧ dealTop 0x8001 (s.readG 6) 64 ≤ 2 ^ 19 ∧ ¬(2 ^ 19 < 64 ∨ s.readG 9 = 0 ∨ 2 ^ 16 ≤ (s.readG 9).toNat))
    ∧ 2 ^ 19 < ((g 0x10000000000).readG 8).toNat
    ∧ (((g 64).readG 9) ≠ 0 ∧ ((g 64).readG 9).toNat < 2 ^ 16 ∧ ((g 64).readG 6).toNat / 2 ^ 19 = 0xFC * 2 ^ 37
        ∧ ((g 64).readG 6).toNat % 2 ^ 19 + 64 ≤ 2 ^ 19) := by decide +kernel

/-- `cpyt` with one shape, and with two. -/
theorem witness_CopyShapes :
    let s : State := ((lab 0 { g := [(6, own 0x1000), (7, own 0x2000), (8, own 0), (9, own 128)] }).pokeBytes (scratchLoc (.virt 1 0) 0) shape4).pokeBytes
      (scratchLoc (.virt 1 0) 128) shape4
    let c := CoreId.virt 1 0
    let h := shapeOf (ownBytes s (s.readG 8) 128)
    let k := shapeOf (ownBytes s (s.readG 9) 128)
    let q := (s.ownRead (s.readG 8) 128).2.2
    let full (u : State) : State := u.modMyCore fun k => { k with cmds := (List.range 96).map fun i => (i, { ctx := 0, kind := .nop }) }
    (¬((s.readG 6).toNat / 2 ^ 19 = 0xFC * 2 ^ 37 ∧ (s.readG 6 + 64).toNat % 128 = 0) ∧ shapeOk (ownBytes s (own 0x3000) 128) = false
      ∧ q.rangesFault c [walkRange h (own 0x7FFFF), (s.readG 6, h.length)] = some (0x06, own 0x7FFFF)
      ∧ (full q).rangesFault c [walkRange h (s.readG 7), (s.readG 6, h.length)] = none ∧ 96 ≤ (full q).myCore.queued ∧ ¬2 ^ 40 ≤ h.length)
    ∧ ReadsOwn s (s.readG 8) 128 ∧ ReadsOwn (s.ownRead (s.readG 8) 128).2.2 (s.readG 9) 128
    ∧ (s.ownBusy (s.readG 9) 128 = false ∧ shapeOk (ownBytes s (s.readG 8) 128) = true ∧ shapeOk (ownBytes s (s.readG 9) 128) = true ∧ h.length = 4 ∧ k.length = h.length
      ∧ s.rangesFault c [walkRange h (s.readG 7), (s.readG 6, h.length)] = none
      ∧ s.rangesFault c [walkRange h (s.readG 7), walkRange k (s.readG 6)] = none ∧ s.myCore.queued < 96) := by
  refine ⟨by decide +kernel, ?_, ?_, by decide +kernel⟩ <;>
    exact ⟨by decide +kernel, by decide +kernel, by decide +kernel, by decide +kernel, .inl (by decide +kernel)⟩

/-- The block's core 0 with slots 4 and 5 its own. -/
def claimed (x : Ctx := {}) : State := (lab 0 x).modBlock blk1 fun b => { b with claims := [(4, .excl 0), (5, .excl 0), (6, .shared [0, 2]), (7, .excl 2)] }

theorem witness_SlotFills :
    let o : OpE := { a := 7, cmd := 5 }
    let m : OpE := { cmd := 4 * 2 ^ 3 + 5 * 2 ^ 9 }
    let s := claimed { g := [(7, own 0)] }
    let full : State := s.modMyCore fun k => { k with cmds := (List.range 96).map fun i => (i, { ctx := 0, kind := .nop }) }
    ((lab).slotFault o = some (0x1A, 0)) ∧ (s.slotFault o = none ∧ s.myCore.queued < 96) ∧ (full.slotFault o = none ∧ ¬full.myCore.queued < 96)
    ∧ (s.cur.1.block = some blk1 ∧ s.holdsBoth blk1 m = true ∧ s.oddPair (accOf m) = false
      ∧ ∀ x ∈ s.myCore.pendingAccs, x ≠ accOf m ∧ (fmtPair s.myCore.mfctx = true → x ≠ accOf m + 1))
    ∧ s.holdsBoth blk1 { m with cmd := 7 * 2 ^ 3 } = false
    ∧ (let u := s.modMyCore fun k => { k with mfctx := 0x2CC }
       u.oddPair (accOf { m with cmd := m.cmd ||| 1 }) = true ∧ u.holdsBoth blk1 { m with cmd := m.cmd ||| 1 } = true)
    ∧ (let u := s.modMyCore fun k => { k with mreqs := [{ ord := 0, ctx := 0, op := .zero, acc := 0 }] }
       ¬∀ x ∈ u.myCore.pendingAccs, x ≠ accOf m) := by decide +kernel

/-- Ranges of R200: free, own, shared and foreign slots; slot 5 being filled. -/
theorem witness_SlotClaims :
    let own (n : Nat) := ((claimed).block blk1).claim n
    let can (sh : Bool) (c : Claim) : Bool := match c with
      | .free => true
      | .excl n => n == 0
      | .shared ms => sh || ms == [0]
    let fills : State := (claimed).modMyCore fun k => { k with cmds := [(3, { ctx := 0, kind := .slot 5 })] }
    (claimed).cur.1.block = some blk1 ∧ numCore (claimed).cur.1.num = 0
    ∧ slotRange 0xC3 = [3, 4, 5, 6] ∧ slotRange 0x43 = [3, 4]
    ∧ ((∀ n ∈ slotRange 0x43, can false (own n) = true) ∧ (∀ n ∈ slotRange 0xC3, can true (own n) = true)
      ∧ (claimed).myCore.filling ((slotRange 0xC3).filter fun n => own n == .excl 0) false = false)
    ∧ (fills.myCore.filling ((slotRange 0xC3).filter fun n => own n == .excl 0) false = true)
    ∧ ((slotRange 0xC3).find? (fun n => !can false (own n)) = some 6) ∧ ((slotRange 0x103).find? (fun n => !can true (own n)) = some 7)
    ∧ ((∃ n ∈ slotRange 0x43, (own n).holds 0 = false) ∧ (∀ n ∈ slotRange 0x44, (own n).holds 0 = true))
    ∧ ((fills.myCore.filling (slotRange 0x44) true || fills.myCore.reading (slotRange 0x44)) = true)
    ∧ (((claimed).myCore.filling (slotRange 0x44) true || (claimed).myCore.reading (slotRange 0x44)) = false) := by decide +kernel

theorem witness_MatrixRequests :
    let o : OpE := { d := 6, a := 7, b := 8, cmd := 4 * 2 ^ 3 + 5 * 2 ^ 9 }
    let s := claimed { g := [(6, own 0), (7, 256), (8, 255)] }
    let busy : State := s.modMyCore fun k => { k with mreqs := [{ ord := 0, ctx := 0, op := .zero, acc := 0 }] }
    let x : Word := BitVec.ofNat 64 (leNat ((ownBytes s (s.readG 6) 64).take 8))
    (boot []).cur.1.block = none
    ∧ (s.cur.1.block = some blk1 ∧ (lab).holdsBoth blk1 o = false)
    ∧ (s.holdsBoth blk1 o = true ∧ s.oddPair (accOf o) = false ∧ ∀ y ∈ s.myCore.pendingAccs, y ≠ accOf o ∧ (true = true → y ≠ accOf o + 1))
    ∧ (busy.holdsBoth blk1 o = true ∧ ¬∀ y ∈ busy.myCore.pendingAccs, y ≠ accOf o)
    ∧ ((s.readG 6).toNat % 64 = 0 ∧ (s.readG 7).toNat % 64 = 0 ∧ 64 * ((fmtOut s.myCore.mfctx).width / 8) ≤ (s.readG 7).toNat ∧ (s.readG 7).toNat < 2 ^ 32)
    ∧ ((∀ r ∈ s.myCore.mreqs, r.started = true ∨ r.linked = true) ∧ leNat ((ownBytes s (s.readG 6) 64).drop 8) = 0 ∧ fmtOk x = true)
    ∧ ((s.readG o.b).toNat < (if fmtPair s.myCore.mfctx then 512 else 256) ∧ (∀ p ∈ s.myCore.mpoison, p ≠ accOf o ∧ (fmtPair s.myCore.mfctx = true → p ≠ accOf o + 1))) := by decide +kernel

theorem witness_FormatLoad : let s := claimed { g := [(6, own 0)] }
    ReadsOwn s (s.readG 6) 64 := ⟨by decide +kernel, by decide +kernel, by decide +kernel, by decide +kernel, .inl (by decide +kernel)⟩

/-- Context 0 of the block's core 0, Ready. -/
def ready (x : Ctx := {}) : State := lab 0 { x with run := .ready }

theorem witness_SemaphoreInstructions :
    let sem (n : Nat) : State := (ready).modMyCore fun k => { k with sem := [(3, { count := n })] }
    let c := CoreId.virt 1 0
    SemQuiet (sem 2) c ∧ Awake (sem 2) c 0 ∧ 2 ≤ ((sem 2).myCore.semOf 3).count ∧ ((sem 2).myCore.semOf 3).count < 3
    ∧ ((sem 2).before c 0 0 = [] ∧ (sem 2).me.failures = []) ∧ ({ sem 2 with msgs := stores 1 } : State).before c 0 0 ≠ [] := by
  refine ⟨⟨rfl, by decide +kernel, by decide +kernel, fun n o => ?_⟩, ⟨rfl, rfl, rfl, rfl, rfl, by decide⟩, by decide +kernel⟩
  exact no_wait_one _ _ 0 _ _ rfl (by simp) n

theorem witness_SemaphoreCycle :
    let c := CoreId.virt 1 1
    let o : OpS := { idx := 3, count := 2 }
    let with_ (k : Core) : State := (lab).setCore c k
    let cmd : Cmd := { ctx := 0, kind := .nop, w := { wIdx := 3, wThr := 2 } }
    (∀ k, (with_ k).blockHolds c.block = false)
    ∧ (let s := with_ { sigs := [{ sm := 3, inc := 255, port := 0 }, { sm := 3, inc := 65535, port := 2 }] }
     SemQuiet (s.modCore c fun k => { k with sigs := [] }) c ∧ ∀ g ∈ (s.core c).sigs, g.port ≤ 2)
    ∧ (∀ n, let s := with_ { cmds := [(7, cmd)], sem := [(3, { count := n })] }
      (s.core c).cmds = [(7, cmd)] ∧ cmd.passed = false ∧ (s.core c).mreqs = [] ∧ (s.core c).sigs = []
        ∧ (∀ m p, (s.ctx c m).run ≠ .waiting (.swait p)) ∧ s.isResident c = true ∧ s.isFenced c = false
        ∧ cmd.w.wThr ≠ 0 ∧ ((s.core c).semOf 3).count = n)
    ∧ (let s := with_ { ctxs := [(4, { run := .waiting (.swait o) })], sem := [(3, { count := 2 })] }
       (s.core c).sigs = [] ∧ (s.core c).cmds = [] ∧ (s.core c).mreqs = [] ∧ (s.ctx c 4).run = .waiting (.swait o)
         ∧ (∀ m p, m ≠ 4 → (s.ctx c m).run ≠ .waiting (.swait p)) ∧ Awake s c 4 ∧ o.count.toNat ≤ ((s.core c).semOf o.idx.toNat).count) := by
  refine ⟨fun k => rfl, ⟨⟨rfl, by decide +kernel, by decide +kernel, fun n o => no_waiter _ _ rfl _ _⟩, by decide +kernel⟩, fun n => ⟨rfl, rfl, rfl, rfl,
    fun m p => no_waiter _ _ rfl _ _, rfl, rfl, by decide, rfl⟩, rfl, rfl, rfl, rfl, fun m p h => ?_, ⟨rfl, rfl, rfl, rfl, rfl, by decide⟩, by decide +kernel⟩
  have e : ¬4 = m := fun e => h e.symm
  simp [State.ctx, Core.ctx, State.setCore, State.core, lab, Map.get, Map.set, e]

theorem witness_Barriers :
    let k : BarId := .blk blk1 1
    let f : BarId := .fld 1 0 0 7
    let c := CoreId.virt 1 0
    let o : OpS := { idx := 1, a := 6, d := 5, count := 1 }
    let bar (x : Barrier) : State := (ready).modBlock blk1 fun b => { b with bars := [(1, x)] }
    let arrived (done : Option (Option HeldRef)) : State := ready { arrived := some { fld := false, idx := 1, gen := 0, done := done } }
    (barOf c false 1 = some k ∧ barOf c true 7 = some f ∧ c.isVirt = true ∧ memberOf c false = 0)
    ∧ (let s := bar { mask := 2, per := 1 }
       s.me.arrived = none ∧ ¬(s.barrier k).mask.getLsbD 0 = true)
    ∧ (let s := bar { mask := 3, per := 1 }
       (s.barrier k).per ≠ 0 ∧ (s.barrier k).mask.getLsbD 0 = true ∧ (s.barrier k).arr.get 0 0 ≠ (s.barrier k).per
         ∧ s.before c 0 0 = [] ∧ s.me.failures = [] ∧ (s.barrier k).total + 1 ≠ (s.barrier k).need)
    ∧ (({ bar { mask := 3, per := 1 } with msgs := stores 1 } : State).before c 0 0 ≠ [])
    ∧ (let s := bar { mask := 3, per := 1, total := 1, arr := [(1, 1)] }
       (s.barrier k).per ≠ 0 ∧ (s.barrier k).mask.getLsbD 0 = true ∧ (s.barrier k).arr.get 0 0 ≠ (s.barrier k).per ∧ (s.barrier k).mask ≠ 0
         ∧ s.before c 0 0 = [] ∧ s.me.failures = [] ∧ (s.barrier k).total + 1 = (s.barrier k).need)
    ∧ Awake (bar { mask := 3, per := 1, total := 1, arr := [(1, 1)] }) c 0
    ∧ ((arrived none).me.arrived = some { fld := false, idx := 1, gen := 0 })
    ∧ ((arrived (some none)).me.arrived = some { fld := false, idx := 1, gen := 0, done := some none })
    ∧ ((bar { mask := 3, per := 1, total := 1 }).barrier k).total ≠ 0
    ∧ (((ready).barrier k).total = 0 ∧ ((ready).readG o.a) = 0)
    ∧ (let s := ready { g := [(6, 0xFFFF)] }
       (s.barrier k).total = 0 ∧ s.readG o.a ≠ 0 ∧ ¬2 ^ 16 ≤ (s.readG o.a).toNat)
    ∧ (let s := ready { g := [(6, 1)] }
       (s.barrier f).total = 0 ∧ s.readG o.a ≠ 0 ∧ ∀ u, u < 64 → (s.readG o.a).getLsbD u = true → s.noSuchUnit 1 0 0 u = false)
    ∧ (let s := ready { g := [(6, 2)] }
       (s.barrier f).total = 0 ∧ (s.readG o.a).getLsbD 1 = true ∧ s.noSuchUnit 1 0 0 1 = true) := by
  refine ⟨by decide +kernel, by decide +kernel, by decide +kernel, by decide +kernel, by decide +kernel, ⟨rfl, rfl, rfl, rfl, rfl, by decide⟩,
    by decide +kernel⟩

theorem witness_LeveeAndStability :
    let w : OpS := { d := 5 }
    let c := CoreId.virt 1 0
    let s (x : Ctx) (smp : Option Nat) : State := { lab 0 x with cycle := 100000 }.modPart 1 fun p => { p with sampled := smp }
    let busy := s { run := .ready } none
    let idle := s {} none
    let calm := s {} (some 0)
    let asks := s { run := .waiting (.wstill w) } (some 0)
    let calmly (u : State) : Prop := u.laneIdle 1 = true ∧ u.settled 1 = true ∧ u.roundHolds 1 = false ∧ u.unbegun 1 = false ∧ (u.part 1).disturbed = true
      ∧ u.countedInserts 1 = 0 ∧ (∀ k ∈ u.barriersOf 1, (u.barrier k).total = 0) ∧ u.partialSets 1 = []
    1 ∈ (lab).activeParts ∧ busy.laneIdle 1 = false ∧ (idle.laneIdle 1 = true ∧ (idle.part 1).sampled = none)
    ∧ calmly calm ∧ calm.dcc 1 = c ∧ (∀ o, (calm.ctx c 0).run ≠ .waiting (.wstill o))
    ∧ calmly asks ∧ (asks.ctx c 0).run = .waiting (.wstill w) ∧ Awake asks c 0
    ∧ (let u := asks.modBlock blk1 fun b => { b with residence := .absent, fenced := true }
       calmly u ∧ (u.ctx c 0).run = .waiting (.wstill w) ∧ u.isResident c = false)
    ∧ (let u : State := { lab with cycle := 50000000 }.modBlock blk1 fun b => { b with bars := [(1, { mask := 3, per := 1, total := 1 })] }
       (u.part 1).barwd ≠ 0 ∧ u.starving (.blk blk1 1) = true ∧ (u.barrier (.blk blk1 1)).since + (u.part 1).barwd.toNat ≤ u.cycle ∧ blk1.pid = 1)
    ∧ (let u := (lab).modPart 1 fun p => { p with pend := true }
       u.cur.2 = 0 ∧ u.cur.1.isVirt = true ∧ u.cur.1 = u.dcc u.pid ∧ u.myPart.pend = true)
    ∧ (lab 0 { released := true }).me.released = true
    ∧ ((lab).myPart.pend = false ∧ (lab).me.released = false) := by
  refine ⟨by decide +kernel, by decide +kernel, by decide +kernel, ?_, by decide +kernel, fun o => no_wait_one _ _ 0 _ _ rfl (by simp) 0, ?_,
    by decide +kernel, ⟨rfl, rfl, rfl, rfl, rfl, by decide⟩, by decide +kernel, by decide +kernel, by decide +kernel, by decide +kernel,
    by decide +kernel⟩ <;> decide +kernel

theorem witness_RoundsClose :
    let rec2 : Record := rec1 ||| BitVec.ofNat 1024 (2 ^ 30)
    let s : State := { lab with cycle := 100000 }.modPart 1 fun p => { p with sampled := some 0, record := [(0, rec2)], inRound := true }
    s.roundHolds 1 = true ∧ s.laneIdle 1 = true ∧ s.settled 1 = true ∧ s.closable 1 = true ∧ (∀ x ∈ s.inserts, x.2.stage ≠ .held)
      ∧ 0 < (s.part 1).banks.length := by decide +kernel
/-- Faults of code 0x05 (delegable), 0x02 (not) and 0x23 (firmware's own), from each level, with each level BUSY or not. -/
theorem witness_FaultDelivery :
    let to_ (s : State) (code : Nat) : Bool × Bool × Bool :=
      let x := s.me
      (x.level == .app && delegable code && s.myPart.tdeleg.getLsbD code && x.avec != 0 && !x.busyA,
        x.level != .fw && s.myPart.svec != 0 && !x.busyS && !(code == 0x22 || code == 0x23), x.busyF)
    let d (x : Ctx) : State := (lab 0 x).modPart 1 fun p => { p with tdeleg := 0xFFFFFFFF }
    ({} : Info).race = none ∧ to_ (d { avec := 0x100 }) 5 = (true, true, false) ∧ to_ (d { avec := 0x100 }) 2 = (false, true, false)
    ∧ (to_ (lab 0 { level := .fw }) 2 = (false, false, false) ∧ (lab 0 { level := .fw }).me.level = .fw)
    ∧ to_ (lab) 0x23 = (false, false, false)
    ∧ (to_ (lab 0 { busyS := true }) 2 = (false, false, false) ∧ (lab 0 { busyS := true }).me.level ≠ .fw)
    ∧ to_ (lab 0 { level := .fw, busyF := true }) 0xFF = (false, false, true) := by decide +kernel

theorem witness_ServiceTraps :
    let none_ : State := (lab).modPart 1 fun p => { p with svec := 0 }
    (lab 0 { level := .fw }).me.level = .fw
    ∧ ((lab).me.level = .app ∧ (lab).myPart.svec ≠ 0 ∧ (lab).me.busy .sup = false)
    ∧ (none_.me.level = .app ∧ none_.myPart.svec = 0 ∧ none_.me.busy .fw = false)
    ∧ ((lab 0 { level := .sup }).me.level = .sup ∧ (lab 0 { level := .sup, busyF := true }).me.busy .fw = true)
    ∧ (lab 0 { busyS := true }).me.busy .sup = true := by decide +kernel

theorem witness_TrapReturns : (lab 0 { level := .sup, busyS := true }).me.busy .sup = true ∧ (lab 0 { level := .sup }).me.busy .sup = false := by
  decide +kernel

theorem witness_BreakpointAndDeferredWords :
    ((lab).modMyCore fun k => { k with dbgctl := 0x1000 }).myCore.dbgctl.getLsbD 12 = true ∧ (lab).myCore.dbgctl.getLsbD 12 = false
    ∧ (lab).me.busyF = false ∧ (lab 0 { busyF := true }).me.busyF = true := by decide +kernel

theorem witness_PrivilegeFaults :
    (lab).me.level = .app ∧ (lab 0 { level := .sup }).me.level ≠ .fw ∧ (lab).mayUse 0x100 = false
    ∧ (lab 0 { level := .sup }).mayUse 0xF00 = false ∧ (boot []).mayUse 0x013 = false := by decide +kernel

theorem witness_SupervisorNotices :
    let s (x : Ctx) : State := (lab 0 x).modPart 1 fun p => { p with snotice := 1, snmask := 1 }
    let c := CoreId.virt 1 0
    ((((s { run := .ready }).part 1).snotice &&& ((s { run := .ready }).part 1).snmask) ≠ 0
      ∧ (s { run := .ready }).hasCore c = true ∧ (s { run := .ready }).takesNotice c = true)
    ∧ ((lab).part 1).snotice &&& ((lab).part 1).snmask = 0 ∧ (s { run := .ready, busyS := true }).takesNotice c = false := by decide +kernel

/-- A firmware context may use every assigned register; an application context those of its level. -/
theorem witness_SpecialRegisterReads : (∀ n ∈ [0x000, 0x012, 0x100, 0x180, 0x203, 0x304, 0x314, 0x400, 0x551, 0xE1B, 0xF13], (boot []).mayUse n = true)
    ∧ (lab).mayUse 0x006 = true ∧ (lab 0 { level := .sup }).mayUse 0x313 = true := by decide +kernel

/-- Every register named, and the clauses of `preqhead` and of boot mode. -/
theorem witness_SpecialRegisterWrites :
    let lost (d : Bool) : State := (lab 0 { level := .sup, g := [(5, 1)] }).modPart 1 fun p => { p with preqDropped := d, preqtail := 1 }
    let busy : State := (boot []).modMyCore fun k => { k with cwstat := cwBusyBit }
    (∀ n ∈ [0x006, 0x105, 0x1C0, 0x206, 0x2C0, 0x503, 0x101, 0x102, 0x104, 0x205, 0x214, 0x321, 0x322, 0x323, 0x324, 0x32A, 0x400, 0x402, 0x403, 0x405, 0x510,
      0x511, 0x1C4, 0x200, 0x210, 0x211, 0x240, 0x27F, 0x212, 0x213, 0x540, 0x502, 0x506, 0x508, 0x507, 0x535, 0x538, 0x300, 0x301, 0x302, 0x303, 0x304, 0x305,
      0x308, 0x30F, 0x310, 0x311, 0x312, 0x313, 0x314, 0x315, 0x318, 0x31F, 0xF00, 0xF01, 0xF02, 0xF03, 0xF04, 0xF05, 0xF08, 0xF0F, 0x000, 0x001, 0x003, 0x004, 0x007, 0x00D, 0x00E, 0x00F, 0x103, 0x10B, 0x201, 0x203,
      0x204, 0x207, 0x320, 0x401, 0x404], (boot []).mayUse n = true)
    ∧ ((lost true).mayUse 0x403 = true ∧ (lost true).myPart.preqDropped = true ∧ ringFull (ringSize (lost true).myPart.preqbase) 1 (lost true).myPart.preqtail = false
      ∧ (lost false).myPart.preqDropped = false)
    ∧ ((bootAt (boot []).cur.1).isSome = true ∧ cwBusy (boot []).myCore.cwstat = false ∧ cwBusy busy.myCore.cwstat = true)
    ∧ ((bootAt (lab).cur.1).isSome = false ∧ (lab 0 { level := .fw }).mayUse 0x538 = true) := by decide +kernel

/-- Orangery of one slot at 16 MiB. -/
def recO : Record := BitVec.ofNat 1024 (rec1.toNat + 2 ^ 384 * 192 + 2 ^ 320 * 0x1000000)

theorem witness_OwnRegisterWrites :
    let fw (g : Map Reg Word) : State := lab 0 { level := .fw, g := g }
    let host : State := (lab 0 { level := .sup }).modPart 1 fun p => { p with slot := some 3 }
    let ora (r : Record) : State := (fw [(5, 1)]).modPart 1 fun p => { p with record := [(0, r)] }
    let image (bs : List Byte) : State := (boot [(5, 0x30000)]).pokeBytes (physLoc 0 0x30000) bs
    let status (s : State) : Nat := s.commitStatus s.cur.1.estate (BitVec.ofNat 1024 (s.peekNat (physLoc s.cur.1.estate ((s.readG 5).toNat % 2 ^ 52)) 128))
    ((boot []).mayUse 0x012 = true ∧ (boot []).mayUse 0x005 = true ∧ (boot []).mayUse 0x100 = true ∧ (boot []).mayUse 0xF10 = true)
    ∧ (lab 0 { g := [(5, 1)] }).myPart.bvmode = 0 ∧ (boot []).me.level = .fw ∧ (boot []).cur.1 = .phys 0 0 0
    ∧ (fw []).cur.1.isVirt = true
    ∧ (host.me.level ≠ .app ∧ host.myPart.slot = some 3 ∧ (host.estate (host.homeEstate host.pid)).host = true)
    ∧ (lab 0 { level := .sup }).myPart.slot = none
    ∧ (let s := ora recO
       coordsOf s.pid (s.readG 5) = blk1 ∧ (s.readG 5).getLsbD 0 = true ∧ s.comates blk1 = [blk1] ∧ (s.block blk1).swap = .none
         ∧ s.mayBegin blk1 = true ∧ (s.block blk1).slotless = false ∧ s.freeSlot 1 0 = some 0)
    ∧ (let s := ora rec1
       s.freeSlot 1 0 = none ∧ coordsOf s.pid (s.readG 5) = blk1 ∧ (s.readG 5).getLsbD 0 = true ∧ s.comates blk1 = [blk1]
         ∧ (s.block blk1).swap = .none ∧ s.mayBegin blk1 = true ∧ (s.block blk1).slotless = false)
    ∧ ((fw []).readG 5).getLsbD 0 = false
    ∧ status (image []) = 1 ∧ status (image (List.replicate 18 0 ++ [0x10])) = 7 := by decide +kernel

theorem witness_BootInstructions :
    let s := boot [(5, 64 * 2 ^ 19)]
    let root : State := s.modMyCore fun k => { k with cwtree := 0x14 }
    let full : State := { s with msgs := (List.range 256).map fun i => (i, { core := .phys 0 0 0, ctx := 0, body := .post (.phys 0 0 1) 28 0, stage := .sent }) }
    bootAt s.cur.1 = some (0, 0, 0) ∧ s.me.level = .fw
    ∧ ([0, 1, 2, 3].any fun d => (s.neighbour (0, 0, 0) d).isNone) = true ∧ ([0, 1, 2, 3].any fun d => (s.neighbour (0, 0, 0) d).isSome) = true
    ∧ s.unacked s.cur.1 s.cur.2 0 < 256 ∧ s.unackedAll s.cur.1 s.cur.2 < 1024
    ∧ 256 ≤ full.unacked full.cur.1 full.cur.2 0
    ∧ s.cwRefuses s.cur.1 (0, 0, 0) ((s.readG 5).toNat % 2 ^ 19) ((s.readG 5).toNat / 2 ^ 19 % 2 ^ 20) = true
    ∧ root.cwRefuses s.cur.1 (0, 0, 0) 0 64 = false := by decide +kernel

/-- A frozen block with a waiting context. -/
theorem witness_ThawAndRevive :
    let b (k : Block) : State := { lab with blocks := [(blk1, k)] }
    let w : Run := .waiting (.swait { idx := 3, count := 1 })
    let frozen : State := (b { swap := .frozen }).setCore (.virt 1 15) { ctxs := [(10, { run := w })] }
    InRange blk1 ∧ ((frozen.block blk1).swap = .frozen ∧ (frozen.ctx (blk1.core 15) 10).run = w)
    ∧ ((b {}).block blk1).swap ≠ .frozen ∧ ((b { fenced := true }).block blk1).fenced = true ∧ ((b {}).block blk1).fenced = false :=
  ⟨⟨by decide, by decide, by decide⟩, by decide +kernel, by decide +kernel, by decide +kernel, by decide +kernel⟩

/-- Page tables of partition 1: the first GiB is one page, at physical 1 GiB, writable; and one that is read-only. -/
def mapped (s : State) (leaf : Nat := 0x40000007) : State :=
  ((s.modPart 1 fun p => { p with ttroot := 0x100000 }).pokeBytes (physLoc 0 0x100000) (leBytes 8 0x200001)).pokeBytes (physLoc 0 0x200000) (leBytes 8 leaf)

/-- A TLB with a page of ASID 1, and a message whose translation used it. -/
def tlbLab (m : List (Nat × Msg)) : State :=
  { lab 0 { level := .sup, g := [(5, 1), (6, 16383), (7, 16384)] } with
    msgs := m
    phys := [((0, 0, 0), { dtlb := [{ asid := 1, page := { va := 0x20000, size := 65536 }, leaf := 0 }] })] }

/-- Accesses that used an entry that stands there; walks of pages so named; a removal tried again. -/
theorem witness_TlbRemoval :
    let e : TlbEntry := { asid := 1, page := { va := 0x20000, size := 65536 }, leaf := 0 }
    let t : Target := { loc := 0, len := 8, va := 0x20000, unit := .estate 0, estate := 0 }
    let m : List (Nat × Msg) := [(4, { msg (.access { kind := .load, addr := 0x20000, size := 8 } [t]) with leafs := [e], tcore := some (0, 0, 0) })]
    let hit : Nat → TlbEntry → Bool := fun _ x => x.asid == 1
    let walked : State := mapped (tlbLab [(4, msg (.access { kind := .load, addr := 0x40000, size := 8 } []) .walk)])
    let under (s : State) (id : Nat) : Bool := match Map.get? s.msgs id with
      | some m => m.stage != .parked
      | none => false
    let left (s : State) (all : Bool) : List Nat := (s.dependents hit all ++ s.walksHit hit).filter (under s)
    let open_ (m : List (Nat × Msg)) (p : Word) : State := (tlbLab m).modMe fun x => { x with shootdown := some (p, [4]) }
    ((tlbLab []).me.level ≠ .app ∧ (tlbLab []).me.shootdown = none) ∧ left (tlbLab []) false = [] ∧ left (tlbLab m) false = [4]
    ∧ left (tlbLab m) true = [4] ∧ (walked.walksHit hit = [4] ∧ left walked false = [4])
    ∧ ((open_ m 8).me.shootdown = some (8, [4]) ∧ 8 ≠ (open_ m 8).me.pc)
    ∧ ((open_ m 0).me.shootdown = some ((open_ m 0).me.pc, [4]) ∧ [4].filter (under (open_ m 0)) = [4] ∧ [4].filter (under (open_ [] 0)) = [])
    ∧ ((tlbLab []).readG 6).toNat < 16384 ∧ 16384 ≤ ((tlbLab []).readG 7).toNat := by decide +kernel

theorem witness_PageResolution :
    let c := CoreId.virt 1 0
    let page : Page := { va := 0x20000, size := 65536 }
    let s (ps : List Page) : State := (lab 0 { level := .sup, g := [(5, 0x20000), (6, 1), (7, 16384)] }).modCtx c 3 fun x =>
      { x with run := .parked, waitPages := ps }
    let parked : Msg := { msg (.access { kind := .load, addr := 0x2FFF8, size := 8 } []) .parked with ctx := 3 }
    let many : State := { s [page] with msgs := [(4, parked)] }.modCore c fun k =>
      { k with cmds := [(5, { ctx := 0, kind := .cpy, park := some page })], mreqs := [{ ord := 6, ctx := 0, op := .st 0 0, acc := 0, park := some page }] }
    (s []).me.level ≠ .app ∧ 16384 ≤ ((s []).readG 7).toNat ∧ ((s []).readG 6).toNat < 16384
    ∧ ({ s [] with msgs := stores 1 } : State).writesDone c 0 = false ∧ (s []).writesDone c 0 = true
    ∧ (many.writesDone c 0 = true ∧ (∀ x ∈ (many.core c).cmds, onPage 0x20000 x.2.park = true) ∧ (∀ r ∈ (many.core c).mreqs, onPage 0x20000 r.park = true)
        ∧ Map.get? many.msgs 4 = some parked ∧ parked.core = c ∧ parked.ctx = 3 ∧ parked.stage = .parked ∧ c ∈ many.coresOfAsid 1
        ∧ (∀ p ∈ (many.ctx c 3).waitPages, p.has 0x20000 = true) ∧ many.isResident c = true)
    ∧ (c ∈ (s [page]).coresOfAsid 1 ∧ (c, 3) ≠ (s [page]).cur ∧ page.has 0x20000 = true ∧ ((s [page]).ctx c 3).waitPages = [page]
        ∧ (s [page]).isResident c = true) := by decide +kernel

theorem witness_GangStop :
    let c := CoreId.virt 1 0
    let s (h : Word) (n : Option (CoreId × Nat)) : State := (lab 0 { level := .sup }).modPart 1 fun p => { p with stopped := n, haltbase := h }
    (s 0 none).me.level ≠ .app ∧ (s 0 none).myPart.stopped = none ∧ (s 0 (some (c, 0))).myPart.stopped ≠ none
    ∧ (c.isVirt = true ∧ (s 0 (some (c, 0))).hasCore c = true ∧ ((s 0 (some (c, 0))).part c.pid).stopped ≠ none
        ∧ ((s 0 (some (c, 0))).core c).gang = false ∧ (s 0 (some (c, 0))).onWire (.halt c.pid c.estate) = false ∧ ((s 0 (some (c, 0))).part c.pid).haltbase = 0)
    ∧ ((s 0x10000 (some (c, 0))).part c.pid).haltbase ≠ 0 ∧ Memory.wf (s 0x10000 (some (c, 0))).mem = true := by decide +kernel
/-- A package's state in a phase of a reconfiguration. -/
def fab (e : Estate) : State := { State.reset with estates := [(0, e)] }

theorem witness_Reconfiguration :
    let up (k : Link) : Estate := { phase := 2, links := [(5, { k with st := .up })] }
    let r : TrainResult := { link := 127, light := true, farEstate := 1, farLink := 0, lanes := 3 }
    let trains (far : Nat) : State := { State.reset with estates := [(0, { phase := 4, image := [255#16] }),
      (1, { phase := far, links := [(0, { st := .training })] })] }
    let far : State := { fab {} with msgs := [(0, { core := .virt 1 0, ctx := 0, body := .post (.virt 1 8192) 1 0, stage := .sent })] }
    ((fab {}).estate 0).phase = 0 ∧ ((fab { phase := 4 }).estate 0).phase ≠ 0
    ∧ (((fab { phase := 3 }).estate 0).phase = 3 ∧ (fab { phase := 3 }).physBacked 0 0x1000 = true
        ∧ (fab { phase := 3 }).physBacked 0 0xC000000000 = false)
    ∧ ((fab { phase := 3, imgAddr := some 0x1000 }).poisonedAt (physLoc 0 0x1000) 128 = false
        ∧ ({ fab { phase := 3, imgAddr := some 0x1000 } with poison := [physLoc 0 0x1040 / 64] } : State).poisonedAt (physLoc 0 0x1000) 128 = true)
    ∧ (((fab { phase := 1 }).estate 0).phase = 1 ∧ (fab { phase := 1 }).crossing 0 = false) ∧ far.crossing 0 = true
    ∧ ((fab (up {})).linkOf { estate := 0, link := 5 }).st = .up
    ∧ (((fab (up { markers := [3, 2, 1, 0] })).estate 0).phase = 2
        ∧ ∀ k ∈ ((fab (up { markers := [3, 2, 1, 0] })).estate 0).links, k.2.st ≠ .up ∨ (k.2.replay = [] ∧ k.2.sendq = [] ∧ ∀ v, v < 4 → v ∈ k.2.markers))
    ∧ (((trains 4).estate 0).phase = 4 ∧ (trains 4).trains r = true ∧ r.link < 128 ∧ r.farEstate ≠ 0
        ∧ (([255#16] : List (BitVec 16)).getD 0 0).getLsbD 0 = true ∧ (([255#16] : List (BitVec 16)).getD 0 0).toNat / 2 % 128 = 127)
    ∧ [r].Pairwise (fun a b => (a.farEstate, a.farLink) ≠ (b.farEstate, b.farLink))
    ∧ (((trains 3).estate 0).phase = 4 ∧ r.light = true ∧ (trains 3).trains r = false
        ∧ ((trains 3).linkOf { estate := 0, link := r.link }).st ≠ .up) := by
  decide +kernel

/-- A packet of three flits; a good data flit, with its CRC, at a link in clear and at one that ends its packet here or elsewhere; a flit
of a stopped and of a secured channel; a control flit; a replay buffer. -/
theorem witness_LinkTraffic :
    let l : LinkId := { estate := 0, link := 5 }
    let s (k : Link) : State := fab { links := [(5, k)] }
    let f : Line := BitVec.ofNat 512 (crc48 (List.replicate 58 0) * 2 ^ 464)
    let ctl : Line := flitOf 0 0 1 [0, 0, 0, 0, 5]
    let k := (s { st := .up }).linkOf l
    let p : Packet := { vc := 3, cargo := .note, dest := 1, num := 1, data := List.replicate 65 7 }
    let sends := (s { st := .up, sendq := [p], txSeq := 4095, allow := [(3, 3)] }).linkOf l
    let sent (n : Nat) (q : Packet) : Sent := { seq := n, flit := f, pkt := q, lanes := [0, 1], beat := 0 }
    let hop : Packet := { vc := 0, cargo := .note, dest := 2, num := 1, sent := 1 }
    -- estate 0's link 5 comes from link 6 of estate 1; its link 7 leads on to estate 2
    let through (lanes : List Nat) : State := { State.reset with estates :=
      [(0, { links := [(5, { st := .up, far := some (1, 6), lanes := (List.range 2).map fun n => ((true, n), { st := .inService }) }),
          (7, { st := .up })], routes := [(2, 7)] }),
        (1, { links := [(6, { st := .up, far := some (0, 5), replay := [{ sent 0 hop with lanes := lanes }] })] })] }
    let secured : Link := { st := .up, liveR := 2 }
    (sends.st = .up ∧ sends.sendq = [p] ∧ p.sent = 0 ∧ p.vc < 4 ∧ sends.txSeq < 4096 ∧ 64 < p.data.length ∧ 3 ≤ sends.allowance p.vc
      ∧ sends.replay.length + 3 ≤ 512 ∧ modeOfVc sends.liveT p.vc = 0)
    ∧ (k.st = .up ∧ ((s { st := .up }).estate 0).phase < 3 ∧ flitType f = 0 ∧ flitOk f = true ∧ flitVc f ∉ k.stopped
        ∧ modeOfVc k.liveR (flitVc f) = 0 ∧ flitSeq f = k.rxSeq ∧ (s { st := .up }).farOf l = none)
    ∧ (let u := through [0, 1]
       u.farOf l = some { estate := 1, link := 6 } ∧ ((u.linkOf { estate := 1, link := 6 }).replay.find? (·.out)).map (fun x => (x.seq, x.pkt.dest)) = some (0, 2)
        ∧ (∀ x ∈ (u.linkOf { estate := 1, link := 6 }).replay, (∀ w ∈ x.uses, w ∈ (u.linkOf l).inService true) ∧ x.pkt.sent = flitsOf x.pkt.data.length)
        ∧ u.cut 0 2 0 = false ∧ Map.get? (u.estate 0).routes 2 = some 7 ∧ (u.linkOf { estate := 0, link := 7 }).st = .up)
    ∧ (let u := through [0, 7]
       ∃ x ∈ (u.linkOf { estate := 1, link := 6 }).replay, ∃ w ∈ x.uses, w ∉ (u.linkOf l).inService true)
    ∧ (0 ∈ ((s { st := .up, stopped := [0] }).linkOf l).stopped)
    ∧ (modeOfVc secured.liveR (flitVc f) = 2
        ∧ tagFits 2 (secured.keys.get 0 (true, 0)).toNat (flitNonce l l 0 (secured.rcounts.get 0 0)) f = false)
    ∧ flitOk (f ^^^ 1) = false ∧ flitSeq f ≠ ((s { st := .up, rxSeq := 4095 }).linkOf l).rxSeq ∧ ((s {}).linkOf l).st ≠ .up
    ∧ (flitType ctl = 1 ∧ flitOk ctl = true ∧ lineBits ctl 32 16 = 5)
    ∧ (let q := (s { replay := [sent 4094 p, sent 4095 p, sent 0 p] }).linkOf l
       q.replay = [sent 4094 p] ++ sent (4095#12).toNat p :: [sent 0 p] ∧ ∀ x ∈ [sent 4094 p], x.seq ≠ (4095#12).toNat) := by decide +kernel

theorem witness_LanesLinksAndPackages :
    let l : LinkId := { estate := 0, link := 5 }
    let s (k : Link) : State := fab { links := [(5, k)] }
    let lane (x : LaneState) : Link := { st := .up, lanes := [((true, 7), { st := x })] }
    let both (k : Link) : State := { State.reset with estates := [(0, { links := [(5, k)] }),
      (1, { links := [(6, { st := .up, far := some (0, 5), lanes := [((false, 7), { st := .retraining })] })] })] }
    (((s (lane .inService)).estate 0).fecthr.toNat < 4028 ∧ 4027 ≤ ((s (lane .inService)).estate 0).fecthr.toNat
      ∧ (((s (lane .inService)).linkOf l).lane true 7).st = .inService ∧ (s (lane .inService)).farOf l = none)
    ∧ ((((both { lane .inService with far := some (1, 6) }).linkOf l).lane true 7).st = .inService
        ∧ (both { lane .inService with far := some (1, 6) }).farOf l ≠ none)
    ∧ ((((both { lane .retraining with far := some (1, 6) }).linkOf l).lane true 7).st = .retraining
        ∧ (both { lane .retraining with far := some (1, 6) }).farOf l = some { estate := 1, link := 6 }
        ∧ (both { lane .retraining with far := some (1, 6) }).farOf { estate := 1, link := 6 } = some l
        ∧ (((both { lane .retraining with far := some (1, 6) }).linkOf { estate := 1, link := 6 }).lane false 7).st = .retraining)
    ∧ (((s (lane .retraining)).linkOf l).lane true 7).st = .retraining ∧ (s (lane .retraining)).farOf l ≠ some l
    ∧ ((s (lane .out)).linkOf l).st = .up ∧ ((s {}).linkOf l).st ≠ .up
    ∧ (let p (n : Nat) : Packet := { vc := 1, cargo := .msg n, dest := 1, num := 1 }
       let k : Link := { st := .up, replay := [{ seq := 0, flit := 0, pkt := p 3, lanes := [], beat := 0 }], sendq := [p 4] }
       k.carries 0 (.msg 3) = true ∧ k.carries 0 (.msg 4) = true ∧ k.carries 0 (.msg 5) = false
         ∧ k.carries ((s k).expects k) (.msg 3) = true)
    ∧ (let u : State := { State.reset with cycle := 54000000, estates := [(1, {}), (0, { lost := [(1, 0)] })] }
       u.linkedTo 1 ≠ [] ∧ (∀ v ∈ u.linkedTo 1, u.lostFor v 1 = true) ∧ 0 ≠ 1
       ∧ u.msgEstate { core := .virt 1 0, ctx := 0, body := .post (.virt 1 8192) 1 0, stage := .sent } = 1 ∧ (CoreId.virt 1 0).estate = 0) := by
  decide +kernel

/-- A machine whose partition's bank holds tiles. -/
def banked (ts : List Tile) : State := { lab with banks := [((1, 0), { tiles := ts, ctr := 7 })] }

theorem witness_InsertionsTravel :
    let x (st : IStage) : Insert := { core := .virt 1 0, ctx := 0, buf := some (0, 0, 0), img := 1, pid := 1, home := some 0, keep := false, stage := st }
    let s (st : IStage) (ts : List Tile) : State := { banked ts with inserts := [(4, x st)], cycle := 64 }
    let full := (List.range 1024).map fun i => ({ img := 1, seq := i } : Tile)
    let flying : State := { s .sent [] with estates := [(0, { links := [(5, { sendq := [{ vc := 0, cargo := .insert 4, dest := 1, num := 1 }] })] })] }
    let stuck : State := { lab with cycle := 1000000, banks := [((1, 0), { refusing := some 0 })] }
    Map.get? (s .waiting []).inserts 4 = some (x .waiting)
    ∧ ((s .waiting []).insertEstate (x .waiting) = some 0 ∧ (s .waiting []).allGone (x .waiting).after = true
        ∧ (s .waiting []).firstInLine 4 (x .waiting) = true ∧ (s .waiting []).fabricHolds (.virt 1 0) 0 = false)
    ∧ (((s .waiting []).ctx (.virt 1 0) 0).failureFor 0 = none
        ∧ (((s .waiting []).modCtx (.virt 1 0) 0 fun k => { k with failures := [{ stream := 0, cause := 4 }] }).ctx (.virt 1 0) 0).failureFor 0 ≠ none)
    ∧ ((s .sent []).flown (.insert 4) = true ∧ (s .done []).flown (.insert 4) = true ∧ flying.flown (.insert 4) = false)
    ∧ ((s .sent []).behind 4 (x .sent) = false
        ∧ ({ s .sent [] with inserts := [(3, x .sent), (4, x .sent)] } : State).behind 4 (x .sent) = true)
    ∧ ((s (.refused 64) []).cycle = 64 ∧ (s (.refused 64) []).firstInLine 4 (x (.refused 64)) = true)
    ∧ (x .done).home.isSome = true
    ∧ ((s .sent []).bankAt 1 0 = some (0, 0, 0) ∧ (s .sent []).bankMoves 1 0 = false ∧ (s .sent []).roundMode 1 = false
        ∧ ((s .sent []).bank 1 0).tiles.length < (s .sent []).regionCap 1 0)
    ∧ (s .sent full).regionCap 1 0 ≤ ((s .sent full).bank 1 0).tiles.length
    ∧ ((stuck.bank 1 0).refusing = some 0 ∧ (stuck.bank 1 0).reported = false) := by decide +kernel

theorem witness_SluiceDecisions :
    let s := (banked [{ img := 1, seq := 3 }]).modPart 1 fun p => { p with rules := [(255, rule1)] }
    let out : State := { s with firings := (List.range 8).map fun i => (i, { pid := 1, rule := 255, img := rule1, bank := 0, tiles := [] }) }
    (min 4 (8 - (s.outBuffer 1 0).length) ≠ 0 ∧ s.bankMoves 1 0 = false ∧ s.roundMode 1 = false
      ∧ (decideGroups ((s.reachRules 1 0).rulesAt 1 0) 4 ((s.bank 1 0).tiles.filter (·.matchable)) (s.bank 1 0).rot).groups.length = 1)
    ∧ (s.bank 1 0).lag = []
    ∧ min 4 (8 - (out.outBuffer 1 0).length) = 0 ∧ (s.modPart 1 fun p => { p with moving := [((0, 0), 1)] }).bankMoves 1 0 = true := by
  decide +kernel

theorem witness_BankAnswers :
    let p := msg (.probe 0x10001 0 5 0)
    let t := msg (.take 0x10001 0 (own 0))
    let s (m : Msg) (ts : List Tile) : State := { banked ts with msgs := [(4, m)] }
    let rec2 : Record := rec1 ||| BitVec.ofNat 1024 (2 ^ 30)
    let two : List Tile := [{ img := 1, seq := 3 }, { img := 1, seq := 5 }]
    Map.get? (s p two).msgs 4 = some p ∧ p.core.pid = 1 ∧ p.stage = .sent ∧ p.bankKey.map ((s p two).homeOf 1) = some 0 ∧ (s p two).bankMoves 1 0 = false
    ∧ (s p two).flown (.msg 4) = true
    ∧ ((s p two).modPart 1 fun x => { x with record := [(0, rec2)], inRound := true }).roundHolds 1 = true ∧ (s p two).roundHolds 1 = false
    ∧ t.bankKey.map ((s t two).homeOf 1) = some 0 ∧ matching 0x10001 0 (((s t []).decision 1 0).bank 1 0).tiles = []
    ∧ (matching 0x10001 0 (((s t two).decision 1 0).bank 1 0).tiles).map (·.seq) = [3, 5] := by decide +kernel

/-- A machine with one firing, of one tile, in a place. -/
def fired (span : Nat) (place : FPlace) (coreside : Nat := 0) : State :=
  { lab with firings := [(9, { pid := 1, rule := 0, img := rule1 span coreside, bank := 0, tiles := [{ img := 1, seq := 3 }], place := place })] }

theorem witness_FiringsLeave :
    let s := fired 1 .out
    let f : Firing := { pid := 1, rule := 0, img := rule1, bank := 0, tiles := [{ img := 1, seq := 3 }] }
    let full : State := { s with firings := s.firings ++ (List.range 256).map fun i => (10 + i, { f with place := .core (0, 0, meshOf 0 (i / 16)) }) }
    s.outBuffer 1 0 = [(9, f)] ∧ Map.get? s.firings 9 = some f ∧ (s.target53 f).isSome = true
    ∧ full.outBuffer 1 0 = [(9, f)] ∧ full.target53 f = none := by decide +kernel

theorem witness_FiringsStart :
    let f (span : Nat) (place : FPlace) (cs : Nat := 0) : Firing :=
      { pid := 1, rule := 0, img := rule1 span cs, bank := 0, tiles := [{ img := 1, seq := 3 }], place := place }
    let c := CoreId.virt 1 0
    (let s := (fired 1 (.core (0, 0, 0))).offer
     s.liveAt c = some (0, 0, 0) ∧ (s.queue (.core (0, 0, 0))).find? (fun g => ((s.core c).reservedFor g.1).isSome) = some (9, f 1 (.core (0, 0, 0)))
       ∧ Map.get? s.firings 9 = some (f 1 (.core (0, 0, 0))) ∧ ((s.core c).reservedFor 9).isSome = true
       ∧ (fired 1 (.core (0, 0, 0))).modeOf c = 0)
    ∧ (let s := (fired 2 (.cluster (0, 0, 0))).offer
       s.runs blk1 = true ∧ s.clusterAt blk1 = some (0, 0, 0) ∧ s.qhead (.cluster (0, 0, 0)) = some (9, f 2 (.cluster (0, 0, 0)))
         ∧ Rule.coreside (f 2 (.cluster (0, 0, 0))).img = 0 ∧ blk1.cores.Nodup ∧ blk1.cores ≠ []
         ∧ (∀ k ∈ blk1.cores, ((s.core k).reservedFor 9).isSome = true ∧ (fired 2 (.cluster (0, 0, 0))).modeOf k = 0))
    ∧ (let s := (fired 2 (.cluster (0, 0, 0)) 1).offer
       s.qhead (.cluster (0, 0, 0)) = some (9, f 2 (.cluster (0, 0, 0)) 1) ∧ Rule.coreside (f 2 (.cluster (0, 0, 0)) 1).img ≠ 0
         ∧ (s.firings.filter fun g => g.2.place == .coreside && g.2.pid == 1).length < 64)
    ∧ (let s := (fired 3 (.die (0, 0))).offer
       s.qhead (.die (0, 0)) = some (9, { f 3 (.die (0, 0)) with blocks := some [blk1] })
         ∧ ∀ k ∈ [blk1].flatMap BlockId.cores, ((s.core k).reservedFor 9).isSome = true)
    ∧ (let s := fired 2 .coreside 1
       s.heldFor 1 0 = [(9, f 2 .coreside 1)] ∧ Map.get? s.firings 9 = some (f 2 .coreside 1) ∧ Rule.coreside (f 2 .coreside 1).img = 1
         ∧ Rule.span (f 2 .coreside 1).img = 2 ∧ s.blocksOf 1 = [blk1] ∧ s.runs blk1 = true ∧ s.runsRule blk1 0 = false
         ∧ ∀ k ∈ blk1.cores, (s.core k).freeHelper.isSome = true ∧ (s.core k).reservedFor 9 = none) := by decide +kernel

theorem witness_Inlets :
    let h (p : Part) : State := { State.reset with parts := [(1, { p with slot := some 0, record := [(0, rec1)], banks := [(0, 0, 0)] })] }
    let q (n : Nat) : List InletTile := List.replicate n { img := 1 }
    let gated (t : Nat) : InletTile := { img := tileStamped 1 t, gate := true }
    let x : Insert := { core := .virt 2 0, ctx := 0, buf := none, img := 1, pid := 1, home := none, keep := false, stage := .sent }
    (h {}).hasHost 1 = true ∧ (64 = 64 ∧ 0x7FFC0 % 64 = 0 ∧ tileClass tile1 ≠ 0) ∧ ((h { inletq := q 255 }).part 1).inletq.length < 256
    ∧ 256 ≤ ((h { inletq := q 256 }).part 1).inletq.length ∧ tileClass 0 = 0
    ∧ 0x7FFF + 1 ≤ 2 ^ 36 ∧ 0x7FFF + 2 ≤ 2 ^ 36
    ∧ ((mapped (h {})).apertureWrite 1 0x7FFF [1]).isSome = true ∧ ((h {}).apertureWrite 1 0 [1]).isNone = true
    ∧ ((mapped (h {})).apertureRead 1 0x7FFF 2).isSome = true ∧ ((h {}).apertureRead 1 0 1).isNone = true
    ∧ (((h { inletq := q 1 }).part 1).inletq = { img := 1 } :: [] ∧ ((h {}).part 1).banks ≠ [])
    ∧ gateMet 0 (gated 0).img = true ∧ gateMet 0 (gated 1).img = false
    ∧ ((h {}).inletSends 1 = false ∧ ({ h {} with inserts := [(4, { x with home := some 0, rank := .inlet })] } : State).inletSends 1 = true)
    ∧ (let u : State := { h {} with inserts := [(4, x)] }; u.behind 4 x = false ∧ u.flown (.insert 4) = true ∧ x.core.pid ≠ 1)
    ∧ (Map.get? ({ h {} with inserts := [(4, x)] } : State).inserts 4 = some x ∧ x.pid = 1 ∧ x.home = none ∧ x.stage = .sent) := by decide +kernel
/-- The block in a state of its own, over a record with an Orangery slot or without. -/
def blockIs (k : Block) (r : Record := recO) (cs : Map CoreId Core := []) : State :=
  { lab with
    blocks := [(blk1, k)]
    parts := [(1, { record := [(0, r)], banks := [(0, 0, 0)], bvmode := 0, svec := 0x8000 })]
    cores := cs
    cycle := 5000 }

/-- The record with a swap threshold of 2000 cycles. -/
def recT : Record := BitVec.ofNat 1024 (recO.toNat + 2000 * 2 ^ 256 - 200000 * 2 ^ 256)

/-- A target in field memory, and a machine with one message. -/
def there : Target := { loc := fieldLoc 0 0 0 64, len := 8, va := 0xFD00000000000040, unit := .field 0 0, estate := 0 }
def with_ (m : Msg) (x : Ctx := {}) : State := { lab 0 x with msgs := [(4, m)], nextId := 5, cycle := 3000000 }

theorem witness_AccessesPerformed :
    let acc (k : AKind) (st : Nat := 0) : Access := { kind := k, addr := 0xFD00000000000040, size := 8, data := List.replicate 8 1, stream := st }
    let key : WeirKey := { core := .virt 1 0, ctx := 0, stream := 2, unit := there.unit }
    let m (k : AKind) (st : Nat := 0) (n : Nat := 0) : Msg := { msg (.access (acc k st) [there]) with seq := n }
    let weir (n : Nat) (e : WeirEntry) : State := { with_ (m .store 2 n) with weirs := [(key, e)] }
    let odd : Target := { there with loc := there.loc + 1, va := there.va + 1 }
    let split : Access := { acc .store with addr := 0xFD00000000000041 }
    let part : Msg := msg (.access split [odd])
    let away : State := blockIs { residence := .absent, blank := false, slot := some 0, valid := true, image := 0x1000000 }
    let off := away.scratchTarget (.virt 1 1) (.virt 1 0) 64 8
    let fits (u : State) (t : Target) : Prop := t.loc % 64 = t.va % 64 ∧ (u.mirrorLoc t.loc).all (fun l => decide (l + t.len ≤ 2 ^ 90)) = true
    (∀ k ∈ [AKind.load, .rld, .store, .amo .add .n64 3 0, .red .add .n64 3], Map.get? (with_ (m k)).msgs 4 = some (m k) ∧ (m k).stage = .sent
      ∧ (with_ (m k)).flown (.msg 4) = true ∧ (m k).pos = 0 ∧ (m k).void = false ∧ (m k).seqUnit = none
      ∧ fits (with_ (m k)) there)
    ∧ ((acc .load).size = there.len ∧ (m .load).detached = false ∧ (acc .store).data.length = there.len ∧ (acc .load).grain = 8
      ∧ (acc .store 2).grain = 8)
    ∧ (MemoryWf (with_ (m .load)) ∧ MemoryWf (weir 0 {}))
    ∧ (split.grain ≠ split.size ∧ split.data.length = odd.len ∧ 0 < odd.len ∧ split.stream = 0 ∧ fits (with_ part) odd)
    ∧ ({ m (.amo .add .n64 3 0) with detached := true } : Msg).detached = true
    ∧ (fits away off ∧ (away.mirrorLoc off.loc).isSome = true ∧ away.unitHolds (firstUnit [off]) = false)
    ∧ AtUnit (with_ (m .load)) (m .load) (acc .load) [there] false ∧ AtUnit (with_ (m .store)) (m .store) (acc .store) [there] true
    ∧ AtUnit (with_ (m (.amo .add .n64 3 0))) (m (.amo .add .n64 3 0)) (acc (.amo .add .n64 3 0)) [there] true
    ∧ AtUnit (with_ (m (.red .add .n64 3))) (m (.red .add .n64 3)) (acc (.red .add .n64 3)) [there] true
    ∧ AtUnit (weir 65535 {}) (m .store 2 65535) (acc .store 2) [there] true ∧ AtUnit (with_ part) part split [odd] true
    ∧ (∀ n, Map.get? (weir n { expected := 65535 }).weirs key = some { expected := 65535 })
    ∧ Map.get? (weir 9 { expected := 9, failed := 1 }).weirs key = some { expected := 9, failed := 1 }
    ∧ (weir 9 { expected := 8 }).weirHeld there.unit < 512
    ∧ wholeElement .n64 ∧ there.len = ETy.width .n64 / 8 ∧ (atomicOp .add .n64 3 0 (List.replicate 8 0)).1.isSome = true := by
  refine ⟨by decide +kernel, by decide +kernel, ⟨by unfold MemoryWf; decide +kernel, by unfold MemoryWf; decide +kernel⟩, by decide +kernel,
    by decide +kernel, by decide +kernel, ?_, ?_, ?_, ?_, ?_, ?_, fun n => rfl, by decide +kernel, by decide +kernel, .inr (.inr (.inr rfl)), rfl,
    by decide +kernel⟩ <;>
    exact ⟨by decide +kernel, by decide +kernel, by decide +kernel, by decide +kernel, .inl rfl⟩

theorem witness_AnswersArrive :
    let a : Access := { kind := .load, addr := 0x20000, size := 8 }
    let m (st : Stage) : Msg := { msg (.access a [there]) st with dst := .g 31 .i64 }
    let r (st : Stage) : Msg := { msg (.access { a with kind := .rld } [there]) st with dst := .x 31 }
    let p : Msg := msg (.probe 0 0 31 0) (.done 0)
    let k (st : Stage) : Msg := { msg (.take 0 0 (own 0x7FFC0)) st with reply := List.replicate 64 1 }
    (∀ y ∈ [k (.done 0), k (.done 2)], Map.get? (with_ y).msgs 4 = some y ∧ y.race = none ∧ ((with_ y).ctx y.core y.ctx).owed = none
      ∧ y.detached = false ∧ y.mode = 0 ∧ y.reply.length = 64 ∧ Memory.wf (with_ y).mem = true ∧ (with_ y).absentImage blk1 = none
      ∧ (with_ y).flown (.msg 4) = true)
    ∧ (∀ k ∈ [m (.done 0), m (.done 1), r (.done 0), r (.done 1), p], Map.get? (with_ k).msgs 4 = some k ∧ k.race = none
      ∧ ((with_ k).ctx k.core k.ctx).owed = none ∧ k.detached = false ∧ k.mode ≠ 2 ∧ (with_ k).flown (.msg 4) = true
      ∧ (with_ k).absentImage blk1 = none)
    ∧ a.own = false ∧ (CoreId.virt 1 0).block = some blk1
    ∧ (∀ n i, (({ with_ (r (.done 0)) with cores := [] } : State).ctx (.virt 1 0) n).run ≠ .waiting i)
    ∧ ({ m (.done 0) with dst := .v 31 } : Msg).dst = .v 31
    ∧ ({ m (.done 5) with detached := true } : Msg).stage = .done 5 ∧ (lab).place (.virt 1 0) = some (0, 0, 0) := by
  refine ⟨by decide +kernel, by decide +kernel, rfl, by decide +kernel, fun n i => no_waiter _ _ rfl n i, rfl, rfl, by decide +kernel⟩

theorem witness_StoresAnswered :
    let a : Access := { kind := .store, addr := 0x20000, size := 8 }
    let m (st : Stage) : Msg := msg (.access a [there]) st
    let key : WeirKey := { core := .virt 1 0, ctx := 0, stream := 2, unit := there.unit }
    let c (st : Stage) : Msg := { msg (.close 2 there.unit) st with seq := 7 }
    let rel : Msg := msg (.access { a with order := .rel, scope := .dom } [there]) .unsent
    (∀ k ∈ [m (.done 0), m (.done 3), m (.refused 3000000), c .sent, c (.done 0), rel], Map.get? (with_ k).msgs 4 = some k ∧ 4 < (with_ k).nextId
      ∧ k.race = none ∧ ((with_ k).ctx k.core k.ctx).owed = none ∧ k.detached = false ∧ k.mode ≠ 2 ∧ (with_ k).flown (.msg 4) = true)
    ∧ a.kind.isStore = true ∧ ((with_ (m (.done 3))).ctx (.virt 1 0) 0).failures = [] ∧ a.stream = 0
    ∧ (with_ (c .sent)).unitHolds there.unit = false
    ∧ Map.get? ({ with_ (c .sent) with weirs := [(key, { expected := 7 })] } : State).weirs key = some { expected := 7 }
    ∧ (with_ (m (.refused 3000000))).cycle = 3000000 ∧ (m (.refused 3000000)).isStore = true
    ∧ (with_ rel).cleared rel = true ∧ ((with_ rel).ctx rel.core rel.ctx).failureFor 0 = none ∧ a.own = false
    ∧ (∀ k ∈ (with_ rel).together 4 rel, (with_ rel).cleared k.2 = true)
    ∧ ((with_ (m .sent)).ctx key.core key.ctx).slotOpen key.stream key.unit = false
    ∧ 1000000 + (with_ (m .sent)).timeout key.core ≤ (with_ (m .sent)).cycle := by decide +kernel

/-- A failed store of an ordered stream, with a later one to its unit on its way and its slot open; a release behind a failure. -/
theorem witness_OrderedFailures :
    let a (o : Order := .plain) : Access := { kind := .store, addr := 0x20000, size := 8, stream := 2, order := o, scope := .dom }
    let m : Msg := { msg (.access (a) [there]) (.done 3) with seq := 7 }
    let later : Msg := { msg (.access (a) [there]) with seq := 8 }
    let x : Ctx := { slots := [{ stream := 2, unit := there.unit, next := 9 }] }
    let s : State := { with_ m x with msgs := [(4, m), (5, later)], nextId := 6 }
    let f : Failure := { stream := 2, cause := 4 }
    let rel : Msg := msg (.access (a .rel) [there]) .unsent
    let u : State := with_ rel { failures := [f] }
    (Map.get? s.msgs 4 = some m ∧ m.race = none ∧ (s.ctx m.core m.ctx).owed = none ∧ s.flown (.msg 4) = true ∧ m.detached = false
      ∧ m.mode ≠ 2 ∧ (s.ctx m.core m.ctx).failures = [] ∧ m.unit = some there.unit ∧ s.olderFailed 4 m = false)
    ∧ ((5, later) ∈ s.msgsOf m.core m.ctx ∧ later.isStore = true ∧ later.streamOf = 2 ∧ later.unit = some there.unit ∧ later.stage = .sent)
    ∧ (Map.get? u.msgs 4 = some rel ∧ rel.race = none ∧ (u.ctx rel.core rel.ctx).owed = none ∧ u.flown (.msg 4) = true ∧ u.cleared rel = true
      ∧ rel.detached = false ∧ rel.mode ≠ 2 ∧ (a .rel).own = false ∧ (a .rel).order.releases = true
      ∧ (u.ctx rel.core rel.ctx).failureFor 2 = some f ∧ ∀ k ∈ u.together 4 rel, u.cleared k.2 = true) := by decide +kernel

theorem witness_RequestTimeouts :
    let a : Access := { kind := .load, addr := 0x20000, size := 8 }
    let m : Msg := { msg (.access a [there]) with dst := .g 31 .i64, tag := some (127, 3), issued := 1000000 }
    Map.get? (with_ m).msgs 4 = some m ∧ m.translating = false ∧ m.detached = false ∧ m.mode ≠ 2 ∧ 4 < (with_ m).nextId ∧ a.own = false
    ∧ m.issued + (with_ m).timeout m.core = (with_ m).cycle ∧ ((with_ m).ctx m.core m.ctx).owed = none := by decide +kernel

/-- A page that is not present, a page that is, and one that is read-only for a store. -/
theorem witness_PageWalks :
    let m (k : AKind) : Msg := msg (.access { kind := k, addr := 0x2FFF8, size := 8 } []) .walk
    let no := with_ (m .load)
    let yes := mapped (with_ (m .load))
    let bad := mapped (with_ (m .store)) 0x40000003
    let isLeaf (w : WalkEnd) : Bool := match w with
      | .leaf .. => true
      | _ => false
    (∀ s ∈ [no, yes], Map.get? s.msgs 4 = some (m .load) ∧ s.walksNext 4 (m .load) = true ∧ s.hasWalker 4 (m .load) = true
      ∧ (m .load).noFill = false ∧ (∀ k ∈ s.walking (.virt 1 0) 0, k.1 = 4) ∧ s.locate (.virt 1 0) .read 0x2FFF8 8 = .walk 0x2FFF8)
    ∧ (let t : Msg := { m .load with tag := some (0, 1) }
       let u := mapped (with_ t)
       Map.get? u.msgs 4 = some t ∧ u.walksNext 4 t = true ∧ u.hasWalker 4 t = true ∧ isLeaf (u.walk (.virt 1 0) 0x2FFF8 .read) = true
         ∧ t.detached = false ∧ t.after = [] ∧ t.leafs = [] ∧ (0x2FFF8 : Nat) % 65536 + 8 ≤ 65536 ∧ (∀ k ∈ u.msgsOf (.virt 1 0) 0, k.1 = 4)
         ∧ u.fabricHolds (.virt 1 0) 0 = false ∧ u.hasRoute 0 0 = true)
    ∧ no.walk (.virt 1 0) 0x2FFF8 .read = .park { va := 0x20000, size := 65536 } false
    ∧ { va := 0x20000, size := 65536 } ∉ (no.ctx (.virt 1 0) 0).waitPages
    ∧ ringFull (ringSize (no.part 1).preqbase) (no.part 1).preqhead (no.part 1).preqtail = false
    ∧ isLeaf (yes.walk (.virt 1 0) 0x2FFF8 .read) = true ∧ Memory.wf yes.mem = true
    ∧ (Map.get? bad.msgs 4 = some (m .store) ∧ bad.walksNext 4 (m .store) = true ∧ bad.hasWalker 4 (m .store) = true ∧ bad.locate (.virt 1 0) .write 0x2FFF8 8 = .walk 0x2FFF8
        ∧ bad.walk (.virt 1 0) 0x2FFF8 .write = .fault 0x0B 2 0x40000003 ∧ (m .store).detached = false
        ∧ (bad.ctx (.virt 1 0) 0).level = .app ∧ (bad.part 1).tdeleg = 0 ∧ (bad.part 1).svec ≠ 0 ∧ (bad.ctx (.virt 1 0) 0).busyS = false) := by
  decide +kernel

theorem witness_RolloverSweeps :
    let u := rollUnit 3 (1 * 2 ^ 15)
    let s : State := (lab).modBlock blk1 fun b => { b with ctr := sweeping }
    (lab).rollCounter u ≠ sweeping ∧ s.rollCounter u = sweeping
    ∧ (let c := CoreId.virt 1 0
       c.isVirt = true ∧ u.of c.pid = true ∧ s.isResident c = true ∧ sameUnit (u.level + 1) u.who (partyOf c 5) = true) := by decide +kernel
theorem witness_SwapOut :
    let k : Nat × Nat × Nat := (0, 0, 0)
    let blk2 : BlockId := { blk1 with vblock := 1 }
    let stood : Block := { residence := .resident k, blank := false }
    let parked : Map CoreId Core := [(.virt 1 0, { ctxs := [(3, { run := .parked })] })]
    let s := blockIs { stood with parkedSince := some 2999 } recT parked
    let going : State := { blockIs stood with clusters := [(k, { owner := some 1, leaving := true })] }
    let stop := blockIs { stood with swap := .stopping false }
    let leave := blockIs { stood with swap := .leaving 5000 none }
    let gone : Block := { residence := .absent, blank := false, spill := some k, slot := some 0, image := 0x1000000 }
    let valid := blockIs gone recO [(.virt 1 0, { ctxs := [(10, { clk := [((4, 63), 9)] })] })]
    let freed : State := { valid with clusters := [(k, { owner := some 1, leaving := true })] }
    let comes (y : Block) : State :=
      { blockIs gone with blocks := [(blk1, gone), (blk2, { y with residence := .resident k, slot := some 1, image := 0x1000000 })] }
    (∀ u ∈ [s, going, stop, leave, valid, freed, comes {}, comes { fill := 5 }, blockIs { stood with slotless := true }], u.comates blk1 = [blk1])
    ∧ recT.toNat / 2 ^ 256 % 2 ^ 32 = 2000 ∧ (s.freeSlot 1 0 = some 0 ∧ (blockIs stood rec1).freeSlot 1 0 = none)
    ∧ (s.mayBegin blk1 = true ∧ Record.swapthr (s.record 1 0) = 2000 ∧ (s.block blk1).parkedSince = some 2999 ∧ 2999 + 2000 < s.cycle
        ∧ (s.block blk1).slotless = false ∧ s.parks blk1 = true ∧ s.anyRuns blk1 = false)
    ∧ (going.mustLeave blk1 = true ∧ going.mayBegin blk1 = true ∧ (blockIs { stood with slotless := true }).mayBegin blk1 = true)
    ∧ (let u := blockIs { stood with parkedSince := some 3000 } recT parked
       (u.block blk1).parkedSince = some 3000 ∧ u.cycle ≤ 3000 + 2000)
    ∧ ((stop.block blk1).swap = .stopping false ∧ (stop.block blk1).residence = .resident k ∧ stop.drained blk1 false = true
        ∧ stop.readyBlocks 1 (0, 0) = [])
    ∧ ((leave.block blk1).swap = .leaving 5000 none ∧ 5000 ≤ leave.cycle)
    ∧ (∀ u ∈ [valid, freed], (u.block blk1).spill = some k ∧ (u.block blk1).slot = some 0 ∧ (u.block blk1).array = none ∧ Memory.wf u.mem = true
        ∧ u.imageBacked blk1 = true ∧ (∀ c ∈ blk1.cores, ∀ y ∈ (u.core c).ctxs, y.1 < 11 ∧ ∀ e ∈ y.2.clk, e.1.2 < 64)
        ∧ ∀ y ∈ u.blocks, u.clusterAt y.1 ≠ some k)
    ∧ ((freed.blocks.map Prod.fst).Nodup ∧ (freed.cluster k).leaving = true ∧ freed.occupied k = false
        ∧ ∀ y ∈ freed.blocks, y.1 ≠ blk1 → y.2.spill ≠ some k)
    ∧ ((blockIs { stood with fill := 2 }).block blk1).fill = 0 + 2
    ∧ (let u := blockIs { stood with fill := 1, slot := some 0 }
       (u.block blk1).fill = 1 ∧ ∀ x ∈ u.blocks, x.2.spill ≠ some k)
    ∧ (∀ u ∈ [comes {}, comes { fill := 5 }], (u.blocks.find? fun y => u.clusterAt y.1 == some k).map Prod.fst = some blk2)
    ∧ (((comes {}).block blk2).fill = 0 ∧ ((comes { fill := 5 }).block blk2).fill = 5 ∧ ((comes { fill := 5 }).block blk2).fenced = false
        ∧ ((comes { fill := 5 }).block blk2).slot.isSome = true ∧ (comes { fill := 5 }).imageBacked blk2 = true) := by
  and_intros <;> decide +kernel

/-- A block to pre-empt; one that leaves with another behind it; one that comes in and whose slot, or whose predecessor's, fails. -/
theorem witness_SwapsAndFailures :
    let k : Nat × Nat × Nat := (0, 0, 0)
    let blk2 : BlockId := { blk1 with vblock := 1 }
    let stood : Block := { residence := .resident k, blank := false }
    let pre := blockIs { stood with preempt := true }
    let two (x y : Block) : State := { blockIs x with blocks := [(blk1, x), (blk2, y)] }
    let next := two { stood with swap := .stopping false } { residence := .absent }
    let goes : Block := { residence := .absent, blank := false, spill := some k, slot := some 1, image := 0x1000000 }
    let comes (y : Block) : State := two { y with residence := .resident k, slot := some 0, image := 0x1000000 } goes
    ((pre.block blk1).preempt = true ∧ pre.mayBegin blk1 = true ∧ (pre.block blk1).slotless = false ∧ pre.freeSlot 1 0 = some 0
      ∧ pre.comates blk1 = [blk1])
    ∧ ((next.block blk1).swap = .stopping false ∧ (next.block blk1).residence = .resident k ∧ next.drained blk1 false = true
      ∧ next.readyBlocks 1 (0, 0) = [blk2] ∧ next.comates blk2 = [blk2] ∧ (next.cluster k).leaving = false ∧ next.comates blk1 = [blk1])
    ∧ (∀ u ∈ [comes {}, comes { fill := 5 }, comes { fenced := true }], u.comates blk1 = [blk1] ∧ (u.block blk1).spill = none
      ∧ (u.block blk1).residence = .resident k ∧ u.spillerOf k = some blk2)
    ∧ (((comes { fill := 5 }).block blk1).fill ≠ 0 ∧ ((comes { fill := 5 }).block blk1).fenced = false) := by decide +kernel

/-- A block out of the machine, parked and with no page to wait for, and one that never ran; a cluster that is free, one in test. -/
theorem witness_Readmission :
    let k : Nat × Nat × Nat := (0, 0, 0)
    let off : Block := { residence := .absent, blank := false, slot := some 0, valid := true, image := 0x1000000 }
    let s := ((blockIs off).pokeBytes (physLoc 0 0x1000000) [3]).modDie (0, 0) fun d => { d with cmap := [(0, BitVec.ofNat 64 (2 ^ cmapBlock + 0xFFFF))] }
    let full : State := { s with clusters := [] }
    let enters (t : Nat) (b : Block) : State := blockIs { b with swap := .entering k t, held := true } recO
      [(.virt 1 15, { ctxs := [(10, { run := .parked })] })]
    let fresh : Block := { off with blank := true, slot := none, valid := false }
    let invalid : Block := { off with valid := false }
    let testing : State := { enters 5000 off with clusters := [(k, { owner := some 1, testing := true })] }
    (∀ u ∈ [s, full, enters 5001 off, enters 5000 off, enters 5000 fresh, enters 5000 invalid, testing], u.comates blk1 = [blk1])
    ∧ (s.isReadyBlock blk1 = true ∧ (s.readyBlocks 1 (s.fieldDie 1 0 0)).head? = some blk1 ∧ (s.freeClusters 1 (s.fieldDie 1 0 0)).head? = some k)
    ∧ full.freeClusters 1 (full.fieldDie 1 0 0) = []
    ∧ ((enters 5001 off).cycle < 5001 ∧ ((enters 5001 off).block blk1).swap = .entering k 5001)
    ∧ ((testing.cluster k).testing = true ∧ (testing.block blk1).swap = .entering k 5000)
    ∧ (∀ u ∈ [enters 5000 off, enters 5000 fresh, enters 5000 invalid], 5000 ≤ u.cycle ∧ (u.block blk1).swap = .entering k 5000
        ∧ (u.cluster k).testing = false ∧ (∀ x ∈ u.blocks, u.clusterAt x.1 ≠ some k) ∧ u.msgs = [])
    ∧ (∀ u ∈ [enters 5000 off, enters 5000 invalid], (u.block blk1).blank = false ∧ Memory.wf u.mem = true
        ∧ (u.ctx (blk1.core 15) 10).run = .parked ∧ (u.ctx (blk1.core 15) 10).waitPages = [])
    ∧ ((enters 5000 invalid).absentImage blk1 = none
        ∧ (let u := (enters 5000 off).pokeBytes (physLoc 0 0x1000000 + 0x90000 + 0xB0000 * 15 + 0xA0000 + 0x1000 * 10 + 0x108) [3]
           Memory.wf u.mem = true ∧ u.absentImage blk1 = some (physLoc 0 0x1000000) ∧ physLoc 0 0x1000000 + 0xC00000 ≤ 2 ^ 90
             ∧ u.peekNat (physLoc 0 0x1000000 + 0x90000 + 0xB0000 * 15 + 0xA0000 + 0x1000 * 10 + 0x108) 8 % 8 = 3))
    ∧ ((enters 5000 fresh).block blk1).blank = true := by
  and_intros <;> decide +kernel

theorem witness_ResizeAndFieldMoves :
    let k : Nat × Nat × Nat := (0, 0, 0)
    let z : Nat × Nat × Nat := (0, 0, 63)
    let s : State := (lab).modDie (0, 0) fun d => { d with cmap := [(63, BitVec.ofNat 64 (2 ^ cmapBlock + 0xFFFF))] }
    let away := blockIs { residence := .absent }
    let stays := blockIs { residence := .resident k, blank := false }
    let moves : State := away.modPart 1 fun p => { p with moving := [((0, 0), 7)] }
    let spare : State := (lab).modDie (0, 0) fun d => { d with cmap := [(63, BitVec.ofNat 64 (2 ^ cmapSpare + 0xFFFF))] }
    let q := (0, 0, meshOf 63 0)
    let taken : State := spare.modPart 1 fun p => { p with loose := [(2 ^ 19, q)] }
    (taken.mapClash 1 { addBlocks := [(0, 0, 60)] } = true ∧ s.mapClash 1 { addClusters := [z] } = false)
    ∧ (s.isBlock z = true ∧ (s.cluster z).owner = none ∧ s.looseIn z = false)
    ∧ (s.isBlock k = false ∧ (s.cluster k).owner ≠ none ∧ taken.looseIn z = true)
    ∧ (away.mapClash 1 { delClusters := [k] } = false ∧ (away.cluster k).owner = some 1 ∧ away.occupied k = false
        ∧ ∀ x ∈ away.blocks, away.clusterAt x.1 ≠ some k ∧ x.2.spill ≠ some k)
    ∧ ((stays.blocks.find? fun y => stays.clusterAt y.1 == some k).map Prod.fst = some blk1 ∧ stays.comates blk1 = [blk1]
        ∧ stays.mapClash 1 { delClusters := [k] } = false ∧ (stays.cluster k).owner = some 1 ∧ stays.mayBegin blk1 = true
        ∧ (stays.block blk1).slotless = false ∧ stays.freeSlot 1 0 = some 0 ∧ stays.occupied k = true)
    ∧ (s.hasBlock { pid := 1, estate := 63, field := 7, vblock := 63 } = false ∧ s.mapClash 1 { addBlocks := [(63, 7, 63)] } = false
        ∧ s.restored { pid := 1, estate := 63, field := 7, vblock := 63 } = none)
    ∧ (let u := (blockIs {}).pokeBytes (physLoc 0 0x1000000) (wordBytes [3, BitVec.ofNat 64 (headerOf blk1)])
       ({ u with blocks := [] } : State).restored blk1 = some 0 ∧ ({ u with blocks := [] } : State).hasBlock blk1 = false
         ∧ ({ u with blocks := [] } : State).mapClash 1 { addBlocks := [(0, 0, 0)] } = false)
    ∧ (spare.looseNum 1 q = some (2 ^ 19) ∧ (∀ x ∈ spare.parts, ∀ y ∈ x.2.loose, y.2 ≠ q)
        ∧ (spare.cluster (q.1, q.2.1, clusterOf q.2.2)).owner = none ∧ spare.mapClash 1 { addLoose := [q] } = false)
    ∧ (let r := away.record 1 0
       let moved : Record := (r &&& ~~~(BitVec.ofNat 1024 (7 * 2 ^ (416 + 64 * 0 + 34)))) ||| BitVec.ofNat 1024 (7 * 2 ^ (416 + 64 * 0 + 34))
       Record.active r = true ∧ Record.fvalid r 0 = true ∧ 7 ≠ Record.fdie r 0 ∧ Map.get? (away.part 1).moving (0, 0) = none
         ∧ (∀ b ∈ away.blocksOf 1, b.estate = 0 → b.field = 0 → (away.block b).residence = .absent ∧ (away.block b).swap = .none)
         ∧ away.otherParts 1 = [] ∧ away.allocClash 1 0 moved (away.part 1).banks (7, Record.fbase r 0, Record.flen r 0) = false)
    ∧ (Map.get? (moves.part 1).moving (0, 0) = some 7 ∧ 7 ≠ Record.fdie (moves.record 1 0) 0 ∧ Memory.wf moves.mem = true
        ∧ Record.fbase (moves.record 1 0) 0 + Record.flen (moves.record 1 0) 0 ≤ 2 ^ 19 ∧ (∀ m ∈ moves.msgs, m.2.stage ≠ .rehold)
        ∧ ∀ x ∈ moves.inserts, x.2.stage ≠ .rehold) := by
  and_intros <;> decide +kernel

/-- The block's core 15 with one command. -/
def copying (x : Cmd) : State := (lab).setCore (.virt 1 15) { cmds := [(4, x)] }

theorem witness_CopyEngine :
    let c := CoreId.virt 1 15
    let x : Cmd := { ctx := 0, kind := .cpy, dst := own 0x7FFC0, src := own 0x40, len := 64, passed := true }
    let fill : Cmd := { x with kind := .fill, running := true }
    let going : Cmd := { x with running := true }
    let done : Cmd := { x with running := true, ended := true, pos := 64, w := { sIdx := 255, sInc := 1, cmd := 0x8000 } }
    let r : MReq := { ord := 0, ctx := 0, op := .mmac true 4 5, acc := 3, linked := true }
    (∀ y ∈ [x, fill, going, done], ((copying y).core c).cmd? 4 = some y ∧ (copying y).enginesRun c = true)
    ∧ ((copying x).swapping c = false ∧ ((copying x).core c).running < 8
        ∧ ((copying x).core c).cmds.find? ((copying x).mayStart ((copying x).core c)) = some (4, x))
    ∧ (∀ y ∈ [fill, going], y.active = true ∧ y.got = none ∧ y.flight = none ∧ y.written = 0 ∧ (copying y).preempting c = false
        ∧ (copying y).onWire (.piece c 4) = false
        ∧ (copying y).mirrorLoc (scratchLoc c 0x7FFC0) = none
        ∧ (copying y).behindThread c y.ctx 4 (y.dstAt c y.pos) 64 [(copying y).scratchTarget c c 0x7FFC0 64] = false ∧ y.pos < y.len ∧ Memory.wf (copying y).mem = true
        ∧ (copying y).isFenced c = false ∧ y.piece c = 64 ∧ (y.dstAt c y.pos).toNat = 0xFC * 2 ^ 56 + 0x7FFC0 ∧ 0x7FFC0 + 64 ≤ 2 ^ 19)
    ∧ ((going.srcAt 0).toNat = 0xFC * 2 ^ 56 + 0x40 ∧ 0x40 + 64 ≤ 2 ^ 19 ∧ (copying fill).modeOf c = 0)
    ∧ (done.kind = .cpy ∧ done.running = true ∧ done.ended = true ∧ done.handing = false ∧ done.w.cmd.getLsbD 15 = true ∧ done.link = none)
    ∧ (∀ g ∈ [({ lost := true } : Flight), { host := true }], let y : Cmd := { going with flight := some g }
        ((copying y).core c).cmd? 4 = some y ∧ (copying y).enginesRun c = true ∧ y.active = true ∧ y.flight = some g ∧ y.got = none)
    ∧ (let u := (copying going).modBlock blk1 fun b => { b with swap := .stopping true }
       u.preempting c = true ∧ (u.core c).cmd? 4 = some going ∧ u.enginesRun c = true)
    ∧ ({ done with link := some r, code := 1 } : Cmd).link = some r ∧ ({ done with link := some r, code := 5 } : Cmd).code ≠ 1
    ∧ (let mc : Cmd := { done with kind := .mc 0x8001 }
       let told : Cmd := { mc with signalled := true }
       let u (g : List Sig) : State := (copying told).modCore c fun k => { k with sigs := g }
       mc.running = true ∧ mc.ended = true ∧ mc.handing = false ∧ mc.link = none ∧ 0x8001 < 2 ^ 16 ∧ c.block = some blk1
         ∧ mc.signalled = false ∧ (u [{ sm := 255, inc := 1, port := 0, cmd := some 4 }]).signalDue c 4 told = true
         ∧ (u []).signalDue c 4 told = false) := by decide +kernel

theorem witness_CopyPieces :
    let x : Cmd := { ctx := 0, kind := .cpy, dst := own 0x7FFC0, src := own 0x40, len := 64, passed := true, running := true }
    PieceClean (copying x) (.virt 1 15) x 0x40 0x7FFC0 64
    ∧ PieceClean (copying { x with kind := .fill }) (.virt 1 15) { x with kind := .fill } 0x7FFC0 0x7FFC0 64 := by
  constructor <;> exact ⟨by decide +kernel, by decide +kernel, by decide +kernel, .inl (by decide +kernel)⟩

theorem witness_LinkedHandover :
    let c := CoreId.virt 1 15
    let r : MReq := { ord := 0, ctx := 0, op := .mmac true 4 5, acc := 3, linked := true }
    let x : Cmd := { ctx := 0, kind := .slot 5, link := some r, running := true, ended := true, handing := true }
    let y : Cmd := { ctx := 0, kind := .slot 4, running := true }
    let s (l : List (Nat × Cmd)) : State := (lab).setCore c { cmds := l ++ [(4, x)] }
    (((s []).core c).cmd? 4 = some x ∧ x.link = some r ∧ x.handing = true ∧ (s []).enginesRun c = true)
    ∧ (¬∃ y ∈ ((s []).core c).cmds, y.1 < 4 ∧ y.2.ctx = x.ctx ∧ y.2.handing = false)
    ∧ (((s [(3, y)]).core c).cmd? 4 = some x ∧ (3, y) ∈ ((s [(3, y)]).core c).cmds ∧ y.ctx = x.ctx ∧ y.handing = false ∧ y.kind = .slot 4) := by
  decide +kernel

/-- The grant with two members asking, where the one ahead in the rotation is the higher; with poison, and for an odd half of a pair. -/
theorem witness_MatrixGrants :
    let c := blk1.core 15
    let r : MReq := { ord := 7, ctx := 0, op := .mmac true 4 5, acc := 7, passed := some 4999 }
    let early : MReq := { r with ord := 6, passed := some 5000 }
    let pair : Word := 0x2CC
    let s (b : Block) (fmt : Word := 0) : State :=
      (blockIs { b with residence := .resident (0, 0, 0), rotPtr := 15 }).setCore c { mreqs := [early, r], mfctx := fmt }
        |>.setCore (blk1.core 2) { mreqs := [{ r with ord := 9 }] }
    (∀ u ∈ [s {}, s { spoison := [5] }, s {} pair], (u.block blk1).rotPtr = 15 ∧ (u.block blk1).fenced = false ∧ u.isResident (blk1.core 0) = true
      ∧ (u.block blk1).array = none ∧ (u.block blk1).swap = .none ∧ u.arrayHeld blk1 = false ∧ (u.core c).mreqs = [early] ++ r :: []
      ∧ u.eligible r = true ∧ u.eligible early = false ∧ early.ord ≠ r.ord
      ∧ (∀ i, i < 16 → (i + 16 - 15) % 16 < (15 + 16 - 15) % 16 → ∀ q ∈ (u.core (blk1.core i)).mreqs, u.eligible q = false)
      ∧ ∀ q ∈ (u.core (blk1.core 2)).mreqs, u.eligible q = true)
    ∧ (fmtPair ((s {} pair).core c).mfctx = true ∧ r.acc % 2 = 1 ∧ fmtPair ((s {}).core c).mfctx = false)
    ∧ (5 ∈ ((s { spoison := [5] }).block blk1).spoison ∧ ((s {}).block blk1).spoison = [] ∧ ((s {}).core c).mpoison = []) := by decide +kernel

/-- A step of an integer and of a binary32 accumulation, the last and one before it, clean and poisoned; what has ended; `mzero`. -/
theorem witness_MatrixSteps :
    let c := blk1.core 15
    let s (r : MReq) (b : Block := {}) : State := (blockIs { b with residence := .resident (0, 0, 0) }).setCore c { mreqs := [r] }
    let ones : List (List Nat) := List.replicate 64 (List.replicate 16 1)
    let r : MReq := { ord := 0, ctx := 0, op := .mmac true 4 5, acc := 7, passed := some 4999, started := true, as := ones, bs := ones }
    let step (n : Nat) (b : Block := {}) : State := s { r with step := n } { b with array := some (15, 7) }
    let zero : MReq := { r with op := .zero }
    (∀ u ∈ [step 7, step 0, step 0 { spoison := [5] }], (u.block blk1).array = some (15, 7) ∧ (u.block blk1).fenced = false
      ∧ u.isResident (blk1.core 0) = true ∧ Memory.wf u.mem = true ∧ ∀ q ∈ (u.core c).mreqs, q.started = true ∧ q.ended = false)
    ∧ (fmtAcc r.fmt = .i32 ∧ (fmtA r.fmt).isFloat = false ∧ (fmtB r.fmt).isFloat = false
      ∧ ∀ i, i < 64 → (r.as.getD i []).length = 16 ∧ (r.bs.getD i []).length = 16)
    ∧ (fmtAcc 0x122 = .f32 ∧ fmtAcc 0x2CC = .f64)
    ∧ (5 ∈ ((step 0 { spoison := [5] }).block blk1).spoison ∧ ((step 0).block blk1).spoison = [] ∧ ((step 0).core c).mpoison = [])
    ∧ (({ r with ended := true } : MReq).isMmac = true ∧ ∀ i, i < 16 → i ≠ 15 → ((s r).core (blk1.core i)).mreqs = [])
    ∧ (zero.op = .zero ∧ zero.passed.isSome = true ∧ ((s zero).block blk1).swap = .none ∧ Memory.wf (s zero).mem = true) := by decide +kernel

/-- A capture, of clean and of poisoned accumulators, and the last row. -/
theorem witness_MatrixStores :
    let c := blk1.core 15
    let base := own 0x40000
    let r : MReq := { ord := 0, ctx := 0, op := .st base 256, acc := 7, passed := some 4999 }
    let row : MReq := { r with started := true, rows := 63 }
    let s (p : List Nat) (r : MReq) : State := (blockIs { residence := .resident (0, 0, 0) }).setCore c { mreqs := [r], mpoison := p }
    let off := base.toNat % 2 ^ 19 + 63 * 256
    (∀ q ∈ [r, row], (((s [] q).core c).mreqs = [q] ∧ (s [] q).isFenced c = false ∧ c.isVirt = true ∧ (s [] q).isResident c = true
      ∧ q.ended = false ∧ q.park = none ∧ q.passed.isSome = true ∧ (s [] q).allGone q.after = true))
    ∧ (r.started = false ∧ (s [] r).swapping c = false ∧ 7 ∈ ((s [7] r).core c).mpoison ∧ ((s [] r).core c).mpoison = [])
    ∧ (∀ q ∈ [row, { row with line := 3 }], q.started = true ∧ q.flight = none ∧ (s [] q).preempting c = false ∧ (s [] q).modeOf c = 0
      ∧ Memory.wf (s [] q).mem = true ∧ fmtOut q.fmt = .i32 ∧ (fmtOut q.fmt).width / 8 = 4 ∧ q.line < 4
      ∧ base.toNat / 2 ^ 19 = 0xFC * 2 ^ 37 ∧ base.toNat % 64 = 0 ∧ off + 64 * q.line + 64 ≤ 2 ^ 19
      ∧ (s [] q).mirrorLoc (scratchLoc c (off + 64 * q.line)) = none
      ∧ (s [] q).behindThread c q.ctx q.ord (base + BitVec.ofNat 64 q.rows * 256 + BitVec.ofNat 64 (64 * q.line)) 64
          [(s [] q).scratchTarget c c (off + 64 * q.line) 64] = false)
    ∧ (let q : MReq := { row with flight := some { lost := true } }
       ((s [] q).core c).mreqs = [q] ∧ q.started = true ∧ q.ended = false ∧ q.park = none ∧ (s [] q).allGone q.after = true)
    ∧ ({ r with ended := true } : MReq).ended = true := by decide +kernel

theorem witness_Fences :
    let s : State := { lab with inserts := [(4, { core := .virt 1 15, ctx := 1, buf := some (0, 0, 0), img := 1, pid := 1, home := some 0, keep := false })] }
    InRange blk1 ∧ InRange { pid := 1, estate := 63, field := 7, vblock := 63 } ∧ (1 ≤ 1 ∧ 5 ≤ 5)
    ∧ ((s.block blk1).residence = .resident (0, 0, 0) ∧ (s.block blk1).fenced = false)
    ∧ (∀ k, ((blockIs { residence := .absent }).block blk1).residence ≠ .resident k) :=
  ⟨⟨by decide, by decide, by decide⟩, ⟨by decide, by decide, by decide⟩, by decide, by decide +kernel, fun k h => by cases h⟩

theorem witness_ClusterTestsAndGating :
    let s : State := { lab with clusters := [((0, 0, 63), { testing := true, owner := some 1 })] }
    (s.cluster (0, 0, 63)).testing = true ∧ (∀ x ∈ s.blocks, s.clusterAt x.1 ≠ some (0, 0, 63)) ∧ (s.estate 63).gating = false := by decide +kernel

theorem witness_FetchesAhead :
    let c := CoreId.virt 1 0
    let s (x : Ctx) : State := mapped (lab 10 { x with pc := 0x2FFF8 }) 0x4000000F
    let turn (u : State) (n : Nat) : Prop := u.fetchTurn c = some n ∧ u.isResident c = true
    let fetched (u : State) : Bool := match (u.modCore c fun k => { k with rotF := (10 + 1) % 11 }).fetchWord c 10 (nextLine (u.ctx c 10).pc) with
      | .ok _ => true
      | _ => false
    ¬turn (s {}) 10 ∧ (turn (s { run := .parked }) 10 ∧ ((s { run := .parked }).ctx c 10).run ≠ .ready)
    ∧ (turn (s { run := .ready }) 10 ∧ ((s { run := .ready }).ctx c 10).run = .ready ∧ (s { run := .ready }).isHalted c 10 = false
        ∧ (s { run := .ready }).keptRequest c 10 = false ∧ fetched (s { run := .ready }) = true)
    ∧ (s {}).place c = some (0, 0, 0) := by decide +kernel

theorem witness_Causeway :
    let c := CoreId.phys 0 0 0
    let n := CoreId.phys 0 0 1
    let s (k : Core) (u : Core := {}) : State := (State.reset.setCore c k).setCore n u
    let line (f : Nat) : CwLine := { from_ := f, off := 0, count := 64, line := 0, bytes := List.replicate 64 1 }
    let root : Core := { cwtree := 0x14, cwImage := some (0x7FFC0, 64), cwstat := cwBusyBit }
    let ends : Core := { cwtree := 0x14, cwImage := some (0, 64), cwstat := cwBusyBit ||| BitVec.ofNat 64 64 }
    let child : Core := { cwtree := 3, cwstat := BitVec.ofNat 64 (2 ^ 20) }
    (cwRoot root.cwtree = true ∧ root.cwq = [] ∧ cwBusy root.cwstat = true ∧ cwBytes root.cwstat < 64 ∧ Memory.wf (s root).mem = true)
    ∧ (cwRoot 1 = false ∧ (line 0).from_ ≠ cwParent 1 ∧ (line 1).from_ = cwParent 1 ∧ (line 1).line = 0 / 64 ∧ (line 1).bytes.length = 64)
    ∧ (cwImageSent root = false ∧ cwImageSent ends = true ∧ child.cwq = [] ∧ ({ child with cwq := [line 0] } : Core).cwq ≠ []
        ∧ child.cwTold = false ∧ cwRoot child.cwtree = false ∧ cwParent child.cwtree = (1 + 2) % 4)
    ∧ (let u := s ends child
       u.neighbour (0, 0, 0) 1 = some n ∧ 1 ∈ cwChildren ends.cwtree ∧ (u.core n).cwstat.getLsbD 20 = true ∧ 1 ∉ ends.cwDone
         ∧ cwBusy ends.cwstat = true ∧ cwBytes ends.cwstat = 64 ∧ ∀ x ∈ cwChildren ends.cwtree, x = 1 ∨ x ∈ ends.cwDone) := by decide +kernel

theorem witness_Resets : (State.reset.phys.map Prod.fst).Nodup ∧ (0 : Nat) < 2 ^ 90 ∧ 2 ^ 90 ≤ scratchLoc (.phys 0 0 0) 0 := by decide +kernel

theorem witness_PortsHostAndManagement :
    let s : State := fab { host := true }
    let tg : Target := { loc := physLoc 0 0x400000000000, len := 8, va := 0x400000000000, unit := .estate 0, estate := 0 }
    let a : Access := { kind := .load, addr := 0x400000000000, size := 8 }
    let m : Msg := { core := .phys 0 0 0, ctx := 0, body := .access a [tg], stage := .sent }
    let u : State := { s with msgs := [(4, m)] }
    (7 < 8 ∧ 2 ^ 41 % 65536 = 0 ∧ ¬(7 = 0 ∧ (s.estate 0).host = true) ∧ ¬(0 = 0 ∧ ((fab { host := false }).estate 0).host = true))
    ∧ (Map.get? u.msgs 4 = some m ∧ a.kind.writes = false ∧ u.toHost [tg] = true ∧ u.onWire (.msg 4) = false ∧ m.detached = false ∧ (List.replicate 8 (1 : Byte)).length = a.size
      ∧ tg.len = a.size ∧ Memory.wf u.mem = true ∧ u.poisonStops a.kind [tg] = false ∧ m.mode = 0
      ∧ a.grain = a.size ∧ m.pos = 0 ∧ tg.loc % 64 = tg.va % 64 ∧ tg.loc < 2 ^ 90)
    ∧ ((.red .add .n64 3 : AKind) ≠ .store ∧ u.toHost [tg] = true)
    ∧ (let c := CoreId.phys 0 0 0
       let x : Cmd := { ctx := 0, kind := .cpy, flight := some { host := true } }
       let w : State := s.setCore c { cmds := [(5, x)] }
       Map.get? w.msgs 5 = none ∧ (w.cores.find? fun y => (y.2.cmd? 5).isSome) = some (c, w.core c) ∧ (w.core c).cmd? 5 = some x)
    ∧ ((s.estate 0).session = false ∧ ((fab { session := true }).estate 0).session = true)
    ∧ s.commitStatus 0 (BitVec.ofNat 1024 (s.peekNat (physLoc 0 0) 128)) = 1
    ∧ (let v : State := s.pokeBytes (physLoc 0 0x1000) (List.replicate 18 0 ++ [0x10])
       v.commitStatus 0 (BitVec.ofNat 1024 (v.peekNat (physLoc 0 0x1000) 128)) ≠ 1) := by decide +kernel

/-- The boot master's context has its turn, at a word. -/
def turn (w : Nat) (x : Ctx := bootCtx) : State :=
  { (State.reset.withFetchWord 64 w).modMe (fun _ => x) with agenda := [.issue (.phys 0 0 0) 0] }

/-- The machine as the turn of the context finds it. -/
def taking (s : State) : State :=
  let c := CoreId.phys 0 0 0
  let r : State := { s with agenda := [] }
  { r with cur := (c, 0) }

/-- The context is the one that its slot picks. -/
def picked (s : State) (n : Nat := 0) : Prop :=
  let r : State := { s with agenda := [] }
  s.barred = false ∧ r.pickSlot (.phys 0 0 0) (r.vectorNext (.phys 0 0 0) n) = some n

theorem witness_IllegalWords :
    (let w : Word := 0xD000000000000000
     majorOf w / 16 = 13) ∧ majorOf 0xEFFFFFFFFFFFFFFF / 16 = 14 ∧ (majorOf 0xC8FFFFFFFFFFFFFF / 16 = 12 ∧ 0xC7 < majorOf 0xC8FFFFFFFFFFFFFF)
    ∧ (let s := turn 0xD000000000000000
       picked s ∧ s.agenda = .issue (.phys 0 0 0) 0 :: [] ∧ (taking s).verdictDue (.phys 0 0 0) 0 = false
       ∧ (∃ u, (taking s).fetchInstr (.phys 0 0 0) 0 (taking s).me.pc = .words [0xD000000000000000] u)
       ∧ decode (wordBytes [0xD000000000000000]) = .error .reservedMajor) :=
  ⟨by decide, by decide, by decide, ⟨rfl, by decide +kernel⟩, rfl, by decide +kernel, ⟨_, rfl⟩, rfl⟩

/-- An addition that goes, one that a pending register holds back, one that meets an error; a `preempt` at application level; an
access whose verdict is due; a context that is not picked. -/
theorem witness_StepRunsDecoded :
    let w := 0x00294C0060000000
    let i : Instr := .add { d := 5, a := 5, b := 6 }
    let held := turn w { bootCtx with pend := [(.g 5, 4)] }
    let err := turn w { bootCtx with errs := [(some (.g 6), 1, 0x20000)] }
    let low := turn 0xC101400300000F11 { bootCtx with level := .app }
    let due : State := { turn w { bootCtx with holdOn := [4] } with
      msgs := [(4, { core := .phys 0 0 0, ctx := 0, body := .access { kind := .load, addr := 0, size := 8 } [], stage := .sent, mode := 2 })] }
    let fetched (s : State) (w : Word) (g : State → Prop) : Prop := picked s ∧ (taking s).verdictDue (.phys 0 0 0) 0 = false
      ∧ ∃ u, (taking s).fetchInstr (.phys 0 0 0) 0 (taking s).me.pc = .words [w] u ∧ g { u with words := [w] }
    let gates (i : Instr) (g : Gate → Bool) (s : State) : Prop := s.tooLow i = false ∧ g (s.gate i) = true
    decode (wordBytes [0x00294C0060000000]) = .ok (i, []) ∧ decode (wordBytes [0xC101400300000F11]) = .ok (.preempt 5, [])
    ∧ fetched (turn w) 0x00294C0060000000 (gates i fun g => match g with
      | .go => true
      | _ => false)
    ∧ fetched held 0x00294C0060000000 (gates i fun g => match g with
      | .wait => true
      | _ => false)
    ∧ fetched err 0x00294C0060000000 (gates i fun g => match g with
      | .fault _ _ => true
      | _ => false)
    ∧ fetched low 0xC101400300000F11 (fun s => s.tooLow (.preempt 5) = true)
    ∧ (picked due ∧ (taking due).verdictDue (.phys 0 0 0) 0 = true) ∧ ¬picked (turn w) 5 :=
  ⟨rfl, rfl, ⟨⟨rfl, by decide +kernel⟩, by decide +kernel, _, rfl, by decide +kernel, by decide +kernel⟩,
    ⟨⟨rfl, by decide +kernel⟩, by decide +kernel, _, rfl, by decide +kernel, by decide +kernel⟩,
    ⟨⟨rfl, by decide +kernel⟩, by decide +kernel, _, rfl, by decide +kernel, by decide +kernel⟩,
    ⟨⟨rfl, by decide +kernel⟩, by decide +kernel, _, rfl, by decide +kernel⟩, ⟨⟨rfl, by decide +kernel⟩, by decide +kernel⟩,
    fun h => absurd h.2 (by decide +kernel)⟩

theorem witness_DecodeInvertsEncode : encode (.mst { d := 9, a := 10, w := { sIdx := 7, sInc := 1, fr := true, fo := true, scope := .fld } }) ≠ []
    ∧ WellFormed (.mst { d := 9, a := 10, w := { sIdx := 7, sInc := 1, fr := true, fo := true, scope := .fld } }) = true := by decide +kernel

theorem witness_MemoryStaysCanonical : MemoryWf State.reset ∧ ∃ t, step State.reset = .next t := ⟨rfl, _, rfl⟩

theorem witness_FirmwareStateKept : isEncoded (.add {}) = true ∧ (lab).me.level ≠ .fw ∧ (lab).isFenced (.virt 1 0) = false
    ∧ ∃ t, exec (.add {}) (lab) = .next t := ⟨rfl, by decide, rfl, _, rfl⟩

theorem witness_ResetState :
    let s : State := { turn 0 with estates := [(0, { recovery := true })] }
    (s.estate (CoreId.phys 0 0 0).estate).recovery = true ∧ s.agenda = .issue (.phys 0 0 0) 0 :: [] := by decide

/-- R370: a fatal fault frees a helper, detaches its load and clears the mark; of context 0 it fences the block; a context that is
not at firmware level for a fault goes on. -/
theorem test_fatal :
    let at_ (n : Nat) (b : Bool) : State := { lab n { run := .ready, level := .fw, busyF := b, pend := [(.g 5, 4)] } with
      msgs := [(4, { msg (.access { kind := .load, addr := 0, size := 8 } []) with ctx := n, dst := .g 5 .n64 })] }
    let h := (at_ 3 true).fatal (.virt 1 0) 3
    ((h.ctx (.virt 1 0) 3).run = .free ∧ (h.ctx (.virt 1 0) 3).pend = [] ∧ h.msgs.map (fun m => m.2.detached) = [true])
    ∧ (((at_ 0 true).fatal (.virt 1 0) 0).block blk1).fenced = true
    ∧ (((at_ 3 false).fatal (.virt 1 0) 3).ctx (.virt 1 0) 3).run = .ready := by decide +kernel

end Sys2Proof.Tests
end

section
/-! Class 0x1 without the context instructions (R95, R116, R117): a jump, and a jump that links, as frames; then the
statement about them. -/

namespace Sys2Proof.Machine

open Sys2Proof.Safety

/-- A change of the context at issue depends only on what it makes of that context. -/
theorem State.modMe_congr {s : State} {f g : Ctx → Ctx} (h : f s.me = g s.me) : s.modMe f = s.modMe g :=
  congrArg (fun x => s.modCore s.cur.1 fun k => k.setCtx s.cur.2 x) h

/-- A jump writes the PC and counts the instruction; its frame names no register. -/
theorem frame_jump (s : State) (t : Word) : Frame {} s (s.jump t) :=
  frame_modMe (fun _ _ => rfl) (fun _ _ => rfl) (fun _ _ => rfl) rfl rfl

/-- A jump that links, as one change of the context. -/
theorem State.writeG_jump_eq (s : State) (d : Reg) (v t : Word) :
    (s.writeG d v).jump t = s.modMe fun x => { x.setG d v with pc := t, icount := x.icount + 1 } := by
  unfold State.writeG State.jump
  rw [State.modMe_modMe]
  congr 1
  funext x
  simp

theorem State.writeG_jump_pc (s : State) (d : Reg) (v t : Word) : ((s.writeG d v).jump t).me.pc = t := by
  rw [State.writeG_jump_eq, State.me_modMe]

theorem gotG_writeG_jump (s : State) (d : Reg) (v t : Word) : gotG ((s.writeG d v).jump t) d v := by
  rw [State.writeG_jump_eq, gotG, State.me_modMe]
  exact Ctx.getG_setG_same s.me d v

/-- A jump that links changes its link register, the PC and the count alone. -/
theorem frame_writeG_jump (s : State) (d : Reg) (v t : Word) : Frame { g := [d] } s ((s.writeG d v).jump t) := by
  rw [State.writeG_jump_eq]
  apply frame_modMe
  case hg => exact fun r hr => Ctx.getG_setG_ne s.me v fun e => hr (e ▸ List.mem_cons_self)
  case hv => exact fun r _ => Ctx.setG_getV s.me d r v
  case hk => exact fun r _ => Ctx.setG_getK s.me d r v
  case hf => exact Ctx.setG_fflags s.me d v
  case ho => unfold ctxRest Ctx.setG; split <;> rfl

/-- Bits [2:0] of a target are clear exactly if 8 divides it. -/
theorem aligned8_iff (t : Word) : aligned8 t = true ↔ t.toNat % 8 = 0 := by
  rw [aligned8, beq_iff_eq, ← BitVec.toNat_inj, BitVec.extractLsb'_toNat]
  rfl

/-! ## The four instructions -/

/-- `b` in either case is one change of the PC and the count (R116). -/
theorem goes_b (s : State) (c : Cond) (h : Hint) (x y : Reg) (off : BitVec 40) :
    Goes (.b c h x y off) s (s.modMe fun m =>
      { m with pc := if icond c 64 (s.readG x).toNat (s.readG y).toNat then branchTarget s.me.pc off else s.me.pc + 8
               icount := m.icount + 1 }) := by
  show execB c h x y off s = _
  unfold execB
  split
  case isTrue => rfl
  case isFalse => exact congrArg Host.Outcome.next (State.modMe_congr rfl)

theorem goes_jr {s : State} {o : OpA} (ht : (s.readG o.a).toNat % 8 = 0) : Goes (.jr o) s (s.jump (s.readG o.a)) :=
  congrArg Host.Outcome.next (if_pos ((aligned8_iff _).mpr ht))

theorem goes_callr {s : State} {o : OpA} (ht : (s.readG o.a).toNat % 8 = 0) :
    Goes (.callr o) s ((s.writeG o.d (s.me.pc + 8)).jump (s.readG o.a)) :=
  congrArg Host.Outcome.next (if_pos ((aligned8_iff _).mpr ht))

theorem exec_jr_misaligned {s : State} {o : OpA} (ht : (s.readG o.a).toNat % 8 ≠ 0) :
    exec (.jr o) s = .next (s.raise 0x03 { addr := s.readG o.a }) :=
  congrArg Host.Outcome.next (if_neg (mt (aligned8_iff _).mp ht))

theorem exec_callr_misaligned {s : State} {o : OpA} (ht : (s.readG o.a).toNat % 8 ≠ 0) :
    exec (.callr o) s = .next (s.raise 0x03 { addr := s.readG o.a }) :=
  congrArg Host.Outcome.next (if_neg (mt (aligned8_iff _).mp ht))

/-- Settles O3: each of the four instructions is a jump, a jump that links, or the fault, by the frames above. -/
theorem branches : Obligations.Branches := by
  intro s c h x y l off o
  refine ⟨goes_b s c h x y off, ?call, fun ht => ⟨?jr, ?callr⟩, fun ht => ⟨exec_jr_misaligned ht, exec_callr_misaligned ht⟩⟩
  case call =>
    exact ⟨_, rfl, State.writeG_jump_pc .., gotG_writeG_jump .., frame_writeG_jump ..⟩
  case jr =>
    exact ⟨_, goes_jr ht, by rw [State.jump, State.me_modMe], frame_jump ..⟩
  case callr =>
    exact ⟨_, goes_callr ht, State.writeG_jump_pc .., gotG_writeG_jump .., frame_writeG_jump ..⟩

end Sys2Proof.Machine
end

section
/-! Reductions and mask instructions (R153, R159, R179, R183, R184): what a lane of a packed vector reads, a vector whose lanes
above lane 0 are zero, the low bits of a mask; then the statement about them. -/

namespace Sys2Proof.Machine

open Sys2Proof.Safety

/-! ## Lanes of a packed vector (R158) -/

/-- Lanes of width w fill w bits each and no more. -/
theorem packLanes_lt (w : Nat) (xs : List Nat) : packLanes w xs < 2 ^ (w * xs.length) := by
  induction xs with
  | nil => exact Nat.one_pos
  | cons x xs ih =>
    have hx : x % 2 ^ w < 2 ^ w := Nat.mod_lt x (Nat.two_pow_pos w)
    calc x % 2 ^ w + 2 ^ w * packLanes w xs
        < 2 ^ w * (packLanes w xs + 1) := by rw [Nat.mul_add_one]; omega
      _ ≤ 2 ^ w * 2 ^ (w * xs.length) := Nat.mul_le_mul_left _ ih
      _ = 2 ^ (w * (x :: xs).length) := by rw [← Nat.pow_add, List.length_cons, Nat.mul_add_one, Nat.add_comm]

/-- Digit j of the packed number is lane j, and zero above the last lane. -/
theorem packLanes_digit (w : Nat) (xs : List Nat) (j : Nat) :
    packLanes w xs / 2 ^ (w * j) % 2 ^ w = xs.getD j 0 % 2 ^ w := by
  induction xs generalizing j with
  | nil => simp [packLanes]
  | cons x xs ih =>
    cases j with
    | zero => simp [packLanes]
    | succ j =>
      have shift : packLanes w (x :: xs) / 2 ^ w = packLanes w xs := by
        rw [packLanes, Nat.add_mul_div_left _ _ (Nat.two_pow_pos w), Nat.mod_div_self, Nat.zero_add]
      rw [Nat.mul_add_one, Nat.add_comm, Nat.pow_add, ← Nat.div_div_eq_div_mul, shift, ih, List.getD_cons_succ]

/-- A register as wide as the lanes together holds the packed number whole. -/
theorem toNat_ofNat_packLanes {w n : Nat} {xs : List Nat} (h : w * xs.length ≤ n) :
    (BitVec.ofNat n (packLanes w xs)).toNat = packLanes w xs := by
  rw [BitVec.toNat_ofNat]
  exact Nat.mod_eq_of_lt ((packLanes_lt w xs).trans_le (Nat.pow_le_pow_right Nat.two_pos h))

/-- A lane of a vector made of lanes that fit in a line. -/
theorem laneOf_ofLanes {w : Nat} {xs : List Nat} (h : w * xs.length ≤ 512) (j : Nat) :
    laneOf w (ofLanes w xs) j = xs.getD j 0 % 2 ^ w := by
  rw [laneOf, ofLanes, toNat_ofNat_packLanes h, packLanes_digit]

/-! ## Reductions (R179, R184) -/

theorem width_le_of_wholeElement {t : ETy} (h : wholeElement t) : t.width ≤ 512 := by
  unfold wholeElement at h
  omega

/-- An instruction that writes a vector of lane 0 alone leaves every other lane zero. -/
theorem runs_of_putV_lane0 {i : Instr} {s : State} {d : Reg} {w x : Nat} {f : FF} (hw : w ≤ 512)
    (h : exec i s = .next (s.putV d (ofLanes w [x], f))) :
    Runs i s 1 { v := [d], flags := true } fun t =>
      (∀ j, 0 < j → j < 512 / w → laneOf w (t.me.getV d) j = 0)
      ∧ laneOf w (t.me.getV d) 0 = x % 2 ^ w ∧ t.me.fflags = s.me.fflags ||| f.word := by
  have fits : w * [x].length ≤ 512 := by rwa [List.length_singleton, Nat.mul_one]
  obtain ⟨t, ht, hpc, hic, hframe, hv, hflags⟩ := putsV_of_write h
  refine ⟨t, ht, hpc, hic, hframe, fun j hj _ => ?above, ?root, hflags⟩
  case above =>
    obtain ⟨j, rfl⟩ := Nat.exists_eq_succ_of_ne_zero hj.ne'
    rw [hv, laneOf_ofLanes fits, List.getD_cons_succ, List.getD_nil, Nat.zero_mod]
  case root => rw [hv, laneOf_ofLanes fits, List.getD_cons_zero]

/-- NV alone is left of the flags of a minimum or maximum (R184). -/
theorem FF.only_false (f : FF) : f.only false = { nv := f.nv } := by
  rw [FF.only, Bool.and_false]

/-- Every reduction is `State.reduce` of its operation, which writes the root as the vector's only lane. -/
theorem vectorReductions : Claims.VectorReductions := by
  intro o s hty w m leaf tree root flags reduces
  have of_reduce (i : Instr) (op : ROp) (h : exec i s = .next (s.reduce op o)) : reduces i op := by
    rw [State.reduce, FF.only_false] at h
    exact runs_of_putV_lane0 (width_le_of_wholeElement hty) h
  exact ⟨of_reduce _ .add rfl, of_reduce _ .min rfl, of_reduce _ .max rfl, of_reduce _ .and rfl, of_reduce _ .or rfl,
    of_reduce _ .xor rfl⟩

/-! ## Mask instructions (R183) -/

/-- An instruction whose meaning is `putK` writes the low L bits to its mask register, zero above, and nothing else. -/
theorem putsK_of_putK {i : Instr} {s : State} {o : OpA} {x : Word} (h : exec i s = .next (s.putK o x)) :
    PutsK i s (regK o.d) (lowBits o.ty x) := putsK_of_writeK h

/-- Five operations and a move write a mask through `putK`, a move and the count write g[d], and `kseti` the mask of the lanes
below its immediate. -/
theorem masks : Claims.Masks := by
  refine ⟨fun o s => ⟨?and, ?or, ?xor, ?andn, ?not, ?fromG, ?toG, ?count⟩, fun o s => ?seti⟩
  case and | or | xor | andn | not | fromG => exact putsK_of_putK rfl
  case toG | count => exact putsG_of_putG rfl rfl
  case seti => exact putsK_of_writeK rfl

/-- Settles O7: the reductions by the one lane they write, the mask instructions by the low bits they write. -/
theorem reductionsAndMasks : Obligations.ReductionsAndMasks := ⟨vectorReductions, masks⟩

end Sys2Proof.Machine
end

section
/-! Class 0xA, claims of operand slots (R187, R200, R201): what a retirement and a register write leave alone, the claim a core
may have of a slot, the claims of a range replaced; then the statement about them. -/

namespace Sys2Proof

/-- After a list of keys has been set, each to its own value, those keys read their values and every other key what it held. -/
theorem Map.get_foldl_set {K V : Type} [DecidableEq K] (d : V) (f : K → V) (ks : List K) (t : Map K V) (k : K) :
    Map.get d (ks.foldl (fun t n => t.set n (f n)) t) k = if k ∈ ks then f k else Map.get d t k := by
  induction ks generalizing t with
  | nil => rfl
  | cons n ks ih =>
    rw [List.foldl_cons, ih, Map.get_set]
    by_cases hn : n = k
    · simp [hn]
    · simp [hn, Ne.symm hn]

end Sys2Proof

namespace Sys2Proof.Machine

open Sys2Proof.Safety

/-! ## Instructions that end in a retirement or in one register write -/

theorem issued_retire (s : State) (n : Nat) : Issued n s (s.retire n) := by
  rw [Issued, State.me_retire]
  exact ⟨rfl, rfl, fun _ => rfl, fun _ => rfl, fun _ => rfl, rfl, fun _ => rfl⟩

theorem Answered.of_issued {n : Nat} {gs : List Reg} {s t : State} (h : Issued n s t) : Answered n gs s t := by
  obtain ⟨hpc, -, hg, hv, hk, hf, hm⟩ := h
  exact ⟨hpc, fun r _ => hg r, hv, hk, hf, hm⟩

theorem answered_putG (s : State) (d : Reg) (v : Word) (n : Nat) : Answered n [d] s (s.putG d v n) := by
  rw [State.putG_eq, Answered, State.me_modMe]
  exact ⟨rfl, fun r hr => Ctx.getG_setG_ne s.me v fun e => hr (e ▸ List.mem_cons_self),
    fun r => Ctx.setG_getV s.me d r v, fun r => Ctx.setG_getK s.me d r v, Ctx.setG_fflags s.me d v, fun _ => rfl⟩

theorem gotG_putG (s : State) (d : Reg) (v : Word) (n : Nat) : gotG (s.putG d v n) d v := by
  rw [State.putG_eq, gotG, State.me_modMe]
  exact Ctx.getG_setG_same s.me d v

/-! ## The claim of one slot (R200) -/

/-- May core m of the block have this slot, shared or exclusive? -/
def Claim.can (sh : Bool) (m : Nat) : Claim → Bool
  | .free => true
  | .excl n => n == m
  | .shared ms => sh || ms == [m]

/-- The slot's claim once core m has it. -/
def Claim.claimed (sh : Bool) (m : Nat) (c : Claim) : Claim :=
  if sh then .shared (match c with
    | .shared ms => if ms.contains m then ms else ms ++ [m]
    | _ => [m]) else .excl m

/-- What a core asks for is granted exactly where it may have the slot. -/
theorem Claim.want_eq (sh : Bool) (m : Nat) (c : Claim) :
    c.want sh m = if c.can sh m then some (c.claimed sh m) else none := by
  cases c with
  | free => cases sh <;> rfl
  | excl n => by_cases h : n = m <;> cases sh <;> simp [Claim.want, Claim.can, Claim.claimed, h]
  | shared ms => cases sh <;> simp [Claim.want, Claim.can, Claim.claimed]

theorem Claim.isNone_want (sh : Bool) (m : Nat) (c : Claim) : (c.want sh m).isNone = !c.can sh m := by
  rw [Claim.want_eq]
  cases c.can sh m <;> rfl

theorem Claim.getD_want {sh : Bool} {m : Nat} {c : Claim} (h : c.can sh m = true) :
    (c.want sh m).getD c = c.claimed sh m := by
  rw [Claim.want_eq, if_pos h, Option.getD_some]

/-! ## The claims of a range of slots -/

/-- Replace the claim of each slot of a range by what `f` makes of it. -/
def State.reclaim (s : State) (b : BlockId) (ns : List Nat) (f : Claim → Claim) : State :=
  s.modBlock b fun k => { k with claims := ns.foldl (fun t n => t.set n (f (k.claim n))) k.claims }

theorem State.claim_reclaim (s : State) (b : BlockId) (ns : List Nat) (f : Claim → Claim) (n : Nat) :
    ((s.reclaim b ns f).block b).claim n = if n ∈ ns then f ((s.block b).claim n) else (s.block b).claim n := by
  rw [State.reclaim, State.block_modBlock]
  exact Map.get_foldl_set .free (fun n => f ((s.block b).claim n)) ns (s.block b).claims n

/-! ## `mclaim` and its variants (R200) -/

section
variable {s : State} {b : BlockId} {o : OpE} {sh try_ : Bool}

/-- The first slot that the core may not have ends the claim. -/
theorem State.claimSlots_refused {n : Nat} (hb : s.cur.1.block = some b)
    (hn : (slotRange o.cmd).find? (fun n => !((s.block b).claim n).can sh (numCore s.cur.1.num)) = some n) :
    s.claimSlots o sh try_ = if try_ then s.putG o.d 0 2 else s.raise 0x1F { r4 := BitVec.ofNat 64 n } := by
  simp only [State.claimSlots, hb, Claim.isNone_want, hn]

/-- A range that the core may have waits for a fill still under way, and is granted whole otherwise. -/
theorem State.claimSlots_granted (hb : s.cur.1.block = some b)
    (hc : ∀ n ∈ slotRange o.cmd, ((s.block b).claim n).can sh (numCore s.cur.1.num) = true) :
    s.claimSlots o sh try_ =
      if sh && s.myCore.filling ((slotRange o.cmd).filter fun n => (s.block b).claim n == .excl (numCore s.cur.1.num)) false
      then s.stall
      else
        let u := s.reclaim b (slotRange o.cmd) fun c => (c.want sh (numCore s.cur.1.num)).getD c
        if try_ then u.putG o.d 1 2 else u.retire 2 := by
  have hn : (slotRange o.cmd).find? (fun n => !((s.block b).claim n).can sh (numCore s.cur.1.num)) = none := by
    simpa using hc
  simp only [State.claimSlots, hb, Claim.isNone_want, hn, Bool.and_eq_true]
  rfl

/-- The granted range is claimed slot by slot. -/
theorem State.claim_reclaim_want {m : Nat} {ns : List Nat} (hc : ∀ n ∈ ns, ((s.block b).claim n).can sh m = true) (n : Nat) :
    ((s.reclaim b ns fun c => (c.want sh m).getD c).block b).claim n =
      if n ∈ ns then ((s.block b).claim n).claimed sh m else (s.block b).claim n := by
  rw [State.claim_reclaim]
  exact ite_congr rfl (fun hn => Claim.getD_want (hc n hn)) fun _ => rfl

end

/-! ## `mrel` (R201) -/

section
variable {s : State} {b : BlockId} {o : OpE}

theorem exec_mrel_unheld (hb : s.cur.1.block = some b)
    (h : ∃ n ∈ slotRange o.cmd, ((s.block b).claim n).holds (numCore s.cur.1.num) = false) :
    exec (.mrel o) s = .next (s.raise 0x1A) := by
  show execMrel o s = _
  have hany : ((slotRange o.cmd).any fun n => !((s.block b).claim n).holds (numCore s.cur.1.num)) = true := by
    simpa using h
  simp only [execMrel, hb, hany, if_true]

/-- A range that the core holds waits for what still uses it, and is given back whole otherwise. -/
theorem exec_mrel_held (hb : s.cur.1.block = some b)
    (h : ∀ n ∈ slotRange o.cmd, ((s.block b).claim n).holds (numCore s.cur.1.num) = true) :
    exec (.mrel o) s = .next (if s.myCore.filling (slotRange o.cmd) true || s.myCore.reading (slotRange o.cmd) then s.stall
      else (s.reclaim b (slotRange o.cmd) (Claim.drop (numCore s.cur.1.num))).retire 2) := by
  show execMrel o s = _
  have hany : ((slotRange o.cmd).any fun n => !((s.block b).claim n).holds (numCore s.cur.1.num)) = false := by
    simpa using h
  simp only [execMrel, hb, hany, Bool.false_eq_true, if_false, Bool.or_eq_true]
  rfl

end

/-- Settles O19: a claim is refused at its first slot or granted as a whole, whichever of the four instructions makes it; `mrel`
by what it holds and what still uses the range. -/
theorem slotClaims : Obligations.SlotClaims := by
  intro o s b hb m ns own can claimed takes busy claims
  have claims_of {i : Instr} {sh try_ : Bool} (h : exec i s = .next (s.claimSlots o sh try_)) : claims i sh try_ := by
    refine ⟨fun hc hbusy => ?granted, fun hc hbusy => ?waits, fun n hn => ?refused⟩
    case granted =>
      rw [State.claimSlots_granted hb hc, if_neg (ne_true_of_eq_false hbusy)] at h
      have hclaim := State.claim_reclaim_want hc
      cases try_ with
      | false => exact ⟨_, h, Answered.of_issued (issued_retire (s.reclaim b ns _) 2), hclaim, nofun⟩
      | true => exact ⟨_, h, answered_putG (s.reclaim b ns _) o.d 1 2, hclaim, fun _ => gotG_putG ..⟩
    case waits =>
      rw [State.claimSlots_granted hb hc, if_pos hbusy] at h
      exact h
    case refused =>
      rw [State.claimSlots_refused hb hn] at h
      cases try_ with
      | false => exact h
      | true => exact putsG_of_putG h rfl
  refine ⟨claims_of rfl, claims_of rfl, claims_of rfl, claims_of rfl, exec_mrel_unheld hb,
    fun hh => ⟨fun hu => ?waits, fun hu => ?freed⟩⟩
  case waits => exact (exec_mrel_held hb hh).trans (congrArg Host.Outcome.next (if_pos hu))
  case freed =>
    exact ⟨_, (exec_mrel_held hb hh).trans (congrArg Host.Outcome.next (if_neg (ne_true_of_eq_false hu))),
      issued_retire (s.reclaim b ns _) 2, State.claim_reclaim s b ns (Claim.drop m)⟩

end Sys2Proof.Machine
end

section
/-! Trap returns (R375): what clearing a BUSY bit leaves alone, what a return from a trap does to the context at issue, the two
instructions; then the statement about them. -/

namespace Sys2Proof.Machine

/-! ## One BUSY bit -/

theorem Ctx.busy_setBusy (x : Ctx) (l l' : Level) (b : Bool) : (x.setBusy l b).busy l' = if l' = l then b else x.busy l' := by
  cases l <;> cases l' <;> rfl

@[simp] theorem Ctx.setBusy_trap (x : Ctx) (l l' : Level) (b : Bool) : (x.setBusy l b).trap l' = x.trap l' := by
  cases l <;> rfl
@[simp] theorem Ctx.setBusy_g (x : Ctx) (l : Level) (b : Bool) : (x.setBusy l b).g = x.g := by cases l <;> rfl
@[simp] theorem Ctx.setBusy_v (x : Ctx) (l : Level) (b : Bool) : (x.setBusy l b).v = x.v := by cases l <;> rfl
@[simp] theorem Ctx.setBusy_fflags (x : Ctx) (l : Level) (b : Bool) : (x.setBusy l b).fflags = x.fflags := by cases l <;> rfl

/-! ## A return from a trap -/

section

variable (s : State) (next : Bool)

theorem State.trapReturn_me_pc : (s.trapReturn next).me.pc = (s.me.trap s.me.level).pc
    + BitVec.ofNat 64 (if next then 8 * ((s.me.trap s.me.level).cause.toNat / 1024 % 8) else 0) := by
  rw [State.trapReturn, State.me_modMe]

/-- FROM, held at the level returned from. -/
theorem State.trapReturn_me_level : (s.trapReturn next).me.level =
    if (Level.ofCode ((s.me.trap s.me.level).cause.toNat / 256 % 4)).code ≤ s.me.level.code
    then Level.ofCode ((s.me.trap s.me.level).cause.toNat / 256 % 4) else s.me.level := by
  rw [State.trapReturn, State.me_modMe]

/-- The BUSY bit of the level returned from is the one that changes. -/
theorem State.trapReturn_me_busy (l : Level) :
    (s.trapReturn next).me.busy l = if l = s.me.level then false else s.me.busy l := by
  rw [← Ctx.busy_setBusy, State.trapReturn, State.me_modMe]
  cases l <;> rfl

theorem State.trapReturn_me_trap (l : Level) : (s.trapReturn next).me.trap l = s.me.trap l := by
  rw [← Ctx.setBusy_trap s.me s.me.level l false, State.trapReturn, State.me_modMe]
  cases l <;> rfl

theorem State.trapReturn_me_getG (r : Reg) : (s.trapReturn next).me.getG r = s.me.getG r := by
  simp [Ctx.getG, State.trapReturn]

theorem State.trapReturn_me_getV (r : Reg) : (s.trapReturn next).me.getV r = s.me.getV r := by
  simp [Ctx.getV, State.trapReturn]

theorem State.trapReturn_me_fflags : (s.trapReturn next).me.fflags = s.me.fflags := by
  simp [State.trapReturn]

end

/-! ## The two instructions -/

theorem exec_tret (s : State) :
    exec .tret s = .next (if s.me.busy s.me.level then s.trapReturn false else s.raise 0x01) := rfl

theorem exec_tretNext (s : State) :
    exec .tretNext s = .next (if s.me.busy s.me.level then s.trapReturn true else s.raise 0x01) := rfl

/-- Settles O26: from a BUSY level each form is the return above, which differs in the words it passes alone; else the fault. -/
theorem trapReturns : Obligations.TrapReturns := by
  intro s x t from_ back
  have returns {i : Instr} {next : Bool} (h : exec i s = .next (s.trapReturn next)) :
      back i (if next then 8 * (t.cause.toNat / 1024 % 8) else 0) :=
    ⟨_, h, s.trapReturn_me_pc next, s.trapReturn_me_level next, (s.trapReturn_me_busy next _).trans (if_pos rfl),
      fun l hl => (s.trapReturn_me_busy next l).trans (if_neg hl), s.trapReturn_me_trap next, s.trapReturn_me_getG next,
      s.trapReturn_me_getV next, s.trapReturn_me_fflags next, State.peek_of_mem (s.trapReturn_mem next)⟩
  refine ⟨fun hbusy => ⟨?tret, ?tretNext⟩, fun hidle => ⟨?tretIllegal, ?tretNextIllegal⟩⟩
  case tret => exact returns ((exec_tret s).trans (congrArg Host.Outcome.next (if_pos hbusy)))
  case tretNext => exact returns ((exec_tretNext s).trans (congrArg Host.Outcome.next (if_pos hbusy)))
  case tretIllegal => exact (exec_tret s).trans (congrArg Host.Outcome.next (if_neg (ne_true_of_eq_false hidle)))
  case tretNextIllegal => exact (exec_tretNext s).trans (congrArg Host.Outcome.next (if_neg (ne_true_of_eq_false hidle)))

end Sys2Proof.Machine
end
